-- ==== Sys2Proof/Word.lean ====
section
/-! DEFINITION. The word types of the VZ940 (spec/00_scope.md R3, spec/02_instruction_word.md R23) and their
plainest arithmetic. -/
namespace Sys2Proof

/-- A byte. -/
abbrev Byte := BitVec 8

/-- A 32-bit register word, instruction word or memory word (R3, R23). -/
abbrev Word := BitVec 32

/-- A 64-bit generic address, or any other 64-bit quantity (R186). -/
abbrev DWord := BitVec 64

/-- A 16-bit mask with one bit per thread of a fascine (R18). -/
abbrev Mask := BitVec 16

/-- Threads of a fascine (R18). -/
def threadsPerFascine : Nat := 16

/-- `hi` above `lo` as one 64-bit value: pairs hold the low word in the lower register (R37). -/
def pairWords (lo hi : Word) : DWord := hi ++ lo

end Sys2Proof
end

