-- ==== Sys2Proof/Syntax.lean ====
section
/-! DEFINITION. The syntax of the machine's steps: operand codes (R39), predicate and compare fields (R37, R38) and
`Instr`, one constructor per row of spec/opcode_table.json: 199 instruction words, the two rows for words that are
no instruction (R57, R59), and the device, engine, host and reeve steps that have no instruction word. Ignored
fields of a word (kind `–` of R37) are no arguments. -/
namespace Sys2Proof

/-- An operand field code (R39). -/
inductive Opnd where
  | v (n : Fin 160)
  | s (n : Fin 48)
  | b (n : Fin 16)
  | c (n : Fin 16)
  | zero
  | ln | qd | fc | rk | pl | tid | vdie | core
  | tick | tickh
  | ch
  | rsv (n : Fin 4)
  deriving DecidableEq, Repr

/-- A predicate field: predicate number and negate bit (R37). -/
structure Pred where
  neg : Bool
  idx : Fin 8
  deriving DecidableEq, Repr

/-- Conditions of a compare field (R38), in code order. -/
inductive Cond where
  | eq | ne | lt | le | gt | ge | ord | unord
  deriving DecidableEq, Repr

/-- Combines of a compare field (R38), in code order. -/
inductive Comb where
  | set | and | or | xor
  deriving DecidableEq, Repr

/-- A compare destination (kind pcc of R37, R38). -/
structure Pcc where
  comb : Comb
  cond : Cond
  p : Fin 8
  deriving DecidableEq, Repr

/-- What a host or peer write names (R9, R217, R220): its port, its first address in device memory, and whether it may pass the
writes before it. -/
structure HostTo where
  port : Nat
  x : Nat
  relaxed : Bool
  deriving DecidableEq, Repr
/-- What a host or peer read names (R4, R9, R221): its port, a BAR of it (0: registers, 1: device memory), and an address there. -/
structure HostFrom where
  port : Nat
  bar : Nat
  x : Nat
  deriving DecidableEq, Repr
/-- A value that is written to a register of 64 bits through a port (R403). -/
structure PortDWord where
  port : Nat
  v : DWord
  deriving DecidableEq, Repr
/-- A value that is written to a register of 32 bits through a port (R403). -/
structure PortWord where
  port : Nat
  v : Word
  deriving DecidableEq, Repr

/-- Where an uncorrectable soft error strikes (R128, R130). -/
inductive ErrLoc where
  | vword (h f : Nat) (name : Fin 160) (t : Fin 16)
  | sreg (h f : Nat) (n : Fin 48)
  | breg (h : Nat) (n : Fin 16)
  | preds (h f : Nat) (t : Fin 16)
  | scratch (h sector : Nat)
  | slot (h e slot sector : Nat)
  | device (sector : Nat)
  | l1 (core sector : Nat)
  | far (die sector : Nat)
  deriving DecidableEq, Repr

/-- One step of the machine: a row of spec/opcode_table.json. -/
inductive Instr where
  /-- NOP, R48. Does nothing except apply its control-word effects. -/
  | nop
  /-- BRA, R171. Unconditional direct branch by a signed slot offset, grouping threads under the split table. -/
  | bra (i : BitVec 24)
  /-- BRC, R171. Conditional direct branch on a per-thread predicate, which may split the sub-group. -/
  | brc (p : Pred) (i : BitVec 16)
  /-- DBNZ, R171. Decrements a register and branches where the result is nonzero. -/
  | dbnz (a : Opnd) (i : BitVec 16)
  /-- BRX, R172. Indirect branch to a byte offset read from a register. -/
  | brx (b : Opnd)
  /-- CALL, R172. Direct call that writes the return offset to v159. -/
  | call (i : BitVec 24)
  /-- CALLX, R172. Indirect call that writes the return offset to v159. -/
  | callx (b : Opnd)
  /-- RET, R172. Returns to the slot offset held in v159. -/
  | ret
  /-- EXIT, R173. Makes the active threads exit, updates EXMASK and the split table, and frees their registers. -/
  | exit
  /-- YIELD, R174. Makes the sub-group not eligible in the next beat and re-ages it. -/
  | yield
  /-- MODE, R45. Writes the sub-group's mode register from the immediate. -/
  | mode (i : BitVec 24)
  /-- MODEX, R46. Merges masked mode fields from a register and returns the old mode. -/
  | modex (a : Opnd) (b : Opnd) (m : BitVec 8)
  /-- LIT, R47. Writes a sign-extended 16-bit immediate. -/
  | lit (a : Opnd) (i : BitVec 16)
  /-- LITH, R47. Writes a 16-bit immediate into the high half and keeps the low half. -/
  | lith (a : Opnd) (i : BitVec 16)
  /-- WAITC, R175. Holds the sub-group until the counted flags F0-F3 fall to the given limits. -/
  | waitc (l : BitVec 6) (s : BitVec 6) (c : BitVec 6) (t : BitVec 6)
  /-- WAITF, R175. Holds the sub-group until every selected completion flag is clear. -/
  | waitf (f : BitVec 12)
  /-- TRAP, R176. Raises SWTRAP with a 24-bit code and halts the polder. -/
  | trap (i : BitVec 24)
  /-- BKPT, R176. Raises BKPT with a 24-bit code and halts the polder. -/
  | bkpt (i : BitVec 24)
  /-- REGROUP, R178. Joins a round that compacts the selected threads of the rank or polder into the fewest fascines. -/
  | regroup (a : Opnd) (p : Pred) (k : BitVec 1)
  /-- QFILL, R169. Revives exited threads of partly active quads as helper threads. -/
  | qfill
  /-- DEMOTE, R168. Marks the active threads as helper threads. -/
  | demote
  /-- SLEEP, R174. Makes the sub-group not eligible for n beats. -/
  | sleep (n : BitVec 24)
  /-- TRAPRET, R376. Ends a trap handler and resumes, redirects or retires its target polder as RACT says. -/
  | trapret
  /-- HALT, R376. Privileged polder halt that raises the HALT trap. -/
  | halt
  /-- ADD, R108. Chain arithmetic: B + C. -/
  | add (a : Opnd) (b : Opnd) (c : Opnd)
  /-- SUB, R108. Chain arithmetic: B - C. -/
  | sub (a : Opnd) (b : Opnd) (c : Opnd)
  /-- MUL, R108. Chain arithmetic: B x C. -/
  | mul (a : Opnd) (b : Opnd) (c : Opnd)
  /-- MAD, R108. Chain arithmetic: B x C + A. -/
  | mad (a : Opnd) (b : Opnd) (c : Opnd)
  /-- MSB, R108. Chain arithmetic: B x C - A. -/
  | msb (a : Opnd) (b : Opnd) (c : Opnd)
  /-- NMAD, R108. Chain arithmetic: -(B x C + A). -/
  | nmad (a : Opnd) (b : Opnd) (c : Opnd)
  /-- NMSB, R108. Chain arithmetic: A - B x C. -/
  | nmsb (a : Opnd) (b : Opnd) (c : Opnd)
  /-- MIN, R108. Chain arithmetic: lesser of B and C. -/
  | min (a : Opnd) (b : Opnd) (c : Opnd)
  /-- MAX, R108. Chain arithmetic: greater of B and C. -/
  | max (a : Opnd) (b : Opnd) (c : Opnd)
  /-- ABS, R108. Chain arithmetic: absolute value of B. -/
  | abs (a : Opnd) (b : Opnd)
  /-- NEG, R108. Chain arithmetic: negation of B. -/
  | neg (a : Opnd) (b : Opnd)
  /-- DIV, R108. Chain arithmetic: B / C. -/
  | div (a : Opnd) (b : Opnd) (c : Opnd)
  /-- SQRT, R108. Chain arithmetic: square root of B. -/
  | sqrt (a : Opnd) (b : Opnd)
  /-- RCP, R108. Chain arithmetic: reciprocal of B. -/
  | rcp (a : Opnd) (b : Opnd)
  /-- RSQ, R108. Chain arithmetic: reciprocal square root of B. -/
  | rsq (a : Opnd) (b : Opnd)
  /-- EXP2, R108. Chain arithmetic: 2 to the power B. -/
  | exp2 (a : Opnd) (b : Opnd)
  /-- LOG2, R108. Chain arithmetic: base-2 logarithm of B. -/
  | log2 (a : Opnd) (b : Opnd)
  /-- SIN, R108. Chain arithmetic: sine of B turns. -/
  | sin (a : Opnd) (b : Opnd)
  /-- COS, R108. Chain arithmetic: cosine of B turns. -/
  | cos (a : Opnd) (b : Opnd)
  /-- DOT2, R108. Chain arithmetic: A plus a two-element dot product. -/
  | dot2 (a : Opnd) (b : Opnd) (c : Opnd)
  /-- DOT4, R108. Chain arithmetic: A plus a four-element dot product. -/
  | dot4 (a : Opnd) (b : Opnd) (c : Opnd)
  /-- LERP, R108. Chain arithmetic: A + C x (B - A). -/
  | lerp (a : Opnd) (b : Opnd) (c : Opnd)
  /-- CLAMP, R108. Chain arithmetic: min(max(A, B), C). -/
  | clamp (a : Opnd) (b : Opnd) (c : Opnd)
  /-- FRAC, R108. Chain arithmetic: fractional part of B. -/
  | frac (a : Opnd) (b : Opnd)
  /-- ROUNDI, R108. Chain arithmetic: B rounded to an integral value. -/
  | roundi (a : Opnd) (b : Opnd)
  /-- CVT, R112. Converts B from the literal source type to ETYPE. -/
  | cvt (a : Opnd) (b : Opnd) (t : BitVec 4)
  /-- SAT, R108. Chain arithmetic: B clamped to [+0, 1]. -/
  | sat (a : Opnd) (b : Opnd)
  /-- SCALE, R108. Chain arithmetic: B x 2^C. -/
  | scale (a : Opnd) (b : Opnd) (c : Opnd)
  /-- CMP, R110. Compares B with C and combines the result into a predicate. -/
  | cmp (k : Pcc) (b : Opnd) (c : Opnd)
  /-- CMPS, R111. Writes -1, 0 or +1 per element from the comparison of B and C. -/
  | cmps (a : Opnd) (b : Opnd) (c : Opnd)
  /-- SEL, R111. Selects B or C per thread by the guard predicate. -/
  | sel (a : Opnd) (b : Opnd) (c : Opnd)
  /-- CLASS, R111. Writes a one-hot floating class mask per element. -/
  | classT (a : Opnd) (b : Opnd)
  /-- CHOPEN, R114. Opens an explicit chain of n members. -/
  | chopen (n : BitVec 3)
  /-- CHDEC, R115. Chain decision member that compares the stream with a threshold into a predicate. -/
  | chdec (k : Pcc) (b : Opnd) (c : Opnd)
  /-- CHCLOSE, R116. Ends a chain and writes the stream's value to a register. -/
  | chclose (a : Opnd)
  /-- CHCANCEL, R117. Ends a chain and sends cancel tokens for threads whose predicate is true. -/
  | chcancel (p : Pred)
  /-- CHSTAT, R118. Reads one of the fascine's chain counters. -/
  | chstat (a : Opnd) (n : BitVec 2)
  /-- AND, R141. Bitwise AND. -/
  | and (a : Opnd) (b : Opnd) (c : Opnd)
  /-- OR, R141. Bitwise OR. -/
  | or (a : Opnd) (b : Opnd) (c : Opnd)
  /-- XOR, R141. Bitwise XOR. -/
  | xor (a : Opnd) (b : Opnd) (c : Opnd)
  /-- NOT, R141. Bitwise NOT. -/
  | not (a : Opnd) (b : Opnd)
  /-- ANDN, R141. B AND NOT C. -/
  | andn (a : Opnd) (b : Opnd) (c : Opnd)
  /-- SHL, R141. Shift left. -/
  | shl (a : Opnd) (b : Opnd) (c : Opnd)
  /-- SHR, R141. Logical shift right. -/
  | shr (a : Opnd) (b : Opnd) (c : Opnd)
  /-- SAR, R141. Arithmetic shift right. -/
  | sar (a : Opnd) (b : Opnd) (c : Opnd)
  /-- ROL, R141. Rotate left. -/
  | rol (a : Opnd) (b : Opnd) (c : Opnd)
  /-- POPC, R141. Counts set bits. -/
  | popc (a : Opnd) (b : Opnd)
  /-- CLZ, R141. Counts leading zeros. -/
  | clz (a : Opnd) (b : Opnd)
  /-- CTZ, R141. Counts trailing zeros. -/
  | ctz (a : Opnd) (b : Opnd)
  /-- BREV, R141. Reverses the bit order. -/
  | brev (a : Opnd) (b : Opnd)
  /-- BFE, R142. Extracts a bit field. -/
  | bfe (a : Opnd) (b : Opnd) (c : Opnd)
  /-- BFI, R142. Inserts a bit field into A. -/
  | bfi (a : Opnd) (b : Opnd) (c : Opnd)
  /-- PRMT, R142. Permutes bytes by literal selectors. -/
  | prmt (a : Opnd) (b : Opnd) (s : BitVec 8)
  /-- IMULH, R142. High half of the element products. -/
  | imulh (a : Opnd) (b : Opnd) (c : Opnd)
  /-- LEA, R142. Adds B shifted left by the literal to A. -/
  | lea (a : Opnd) (b : Opnd) (s : BitVec 5)
  /-- ADDC, R143. Add with carry through p6. -/
  | addc (a : Opnd) (b : Opnd) (c : Opnd)
  /-- SUBB, R143. Subtract with borrow through p6. -/
  | subb (a : Opnd) (b : Opnd) (c : Opnd)
  /-- MOVP_PACK, R144. Packs the predicates into a register. -/
  | movpPack (a : Opnd)
  /-- MOVP_UNPACK, R144. Unpacks register bits into p0-p6. -/
  | movpUnpack (b : Opnd)
  /-- PAND, R144. Predicate AND. -/
  | pand (p : Fin 8) (q : Pred) (r : Pred)
  /-- POR, R144. Predicate OR. -/
  | por (p : Fin 8) (q : Pred) (r : Pred)
  /-- PXOR, R144. Predicate XOR. -/
  | pxor (p : Fin 8) (q : Pred) (r : Pred)
  /-- PNOT, R144. Predicate NOT. -/
  | pnot (p : Fin 8) (q : Pred)
  /-- PSET, R144. Sets a predicate to a literal. -/
  | pset (p : Fin 8) (v : BitVec 1)
  /-- ISETP, R144. Integer-view compare into a predicate. -/
  | isetp (k : Pcc) (b : Opnd) (c : Opnd)
  /-- BMIN, R142. Elementwise lesser value in the integer view. -/
  | bmin (a : Opnd) (b : Opnd) (c : Opnd)
  /-- MOV, R145. Copies register bits. -/
  | mov (a : Opnd) (b : Opnd)
  /-- MOVS, R145. Copies one thread's value into an s-register. -/
  | movs (a : Opnd) (b : Opnd) (t : BitVec 4)
  /-- MOVB, R136. Moves to or from a b-register with polder-scope release or acquire. -/
  | movb (a : Opnd) (b : Opnd)
  /-- BLEASE, R135. Passes the b-register write lease to another fascine. -/
  | blease (f : BitVec 6)
  /-- SHFL, R146. Reads the source of a per-thread chosen thread. -/
  | shfl (a : Opnd) (b : Opnd) (c : Opnd)
  /-- SHFLX, R146. Butterfly shuffle by XOR with a literal. -/
  | shflx (a : Opnd) (b : Opnd) (m : BitVec 4)
  /-- SHFLUP, R146. Shuffle from a lower thread. -/
  | shflup (a : Opnd) (b : Opnd) (m : BitVec 4)
  /-- SHFLDN, R146. Shuffle from a higher thread. -/
  | shfldn (a : Opnd) (b : Opnd) (m : BitVec 4)
  /-- QSWX, R146. Swaps with the other pixel of the row in a quad. -/
  | qswx (a : Opnd) (b : Opnd)
  /-- QSWY, R146. Swaps with the other pixel of the column in a quad. -/
  | qswy (a : Opnd) (b : Opnd)
  /-- QSWD, R146. Swaps with the diagonal pixel in a quad. -/
  | qswd (a : Opnd) (b : Opnd)
  /-- QBCAST, R146. Broadcasts one quad member's value. -/
  | qbcast (a : Opnd) (b : Opnd) (q : BitVec 2)
  /-- DDX, R146. Horizontal quad derivative. -/
  | ddx (a : Opnd) (b : Opnd)
  /-- DDY, R146. Vertical quad derivative. -/
  | ddy (a : Opnd) (b : Opnd)
  /-- VOTE, R147. Any, all or ballot over the active threads. -/
  | vote (a : Opnd) (p : Pred) (k : BitVec 2)
  /-- MATCH, R149. Mask of threads holding an equal value. -/
  | matchT (a : Opnd) (b : Opnd)
  /-- SCANF, R150. Ordered inclusive scan over the active threads. -/
  | scanf (a : Opnd) (b : Opnd) (o : BitVec 3)
  /-- REDF, R150. Ordered reduction over the active threads. -/
  | redf (a : Opnd) (b : Opnd) (o : BitVec 3)
  /-- VOTERK, R148. Joins a rank-wide vote round. -/
  | voterk (a : Opnd) (p : Pred) (k : BitVec 2)
  /-- GETSR, R139. Reads a status register. -/
  | getsr (a : Opnd) (i : BitVec 16)
  /-- SETSR, R139. Writes a status register under its access codes, clearing sticky exceptions. -/
  | setsr (a : Opnd) (i : BitVec 16)
  /-- TIME, R151. Samples the 64-bit time-stamp into two registers. -/
  | time (a : Opnd) (b : Opnd)
  /-- DIEQ, R152. Hop distance between two virtual dies. -/
  | dieq (a : Opnd) (b : Opnd) (c : Opnd)
  /-- CAPQ, R153. Reads a capacity or declaration figure. -/
  | capq (a : Opnd) (q : BitVec 8)
  /-- LD, R197. Loads one word through the L1. -/
  | ld (a : Opnd) (b : Opnd) (o : BitVec 8)
  /-- LD2, R197. Loads two words. -/
  | ld2 (a : Opnd) (b : Opnd) (o : BitVec 8)
  /-- LD4, R197. Loads four words. -/
  | ld4 (a : Opnd) (b : Opnd) (o : BitVec 8)
  /-- LDB, R197. Loads one word bypassing the L1. -/
  | ldb (a : Opnd) (b : Opnd) (o : BitVec 8)
  /-- LDB4, R197. Loads four words bypassing the L1. -/
  | ldb4 (a : Opnd) (b : Opnd) (o : BitVec 8)
  /-- LDA, R197. Acquire load at scope ASCOPE. -/
  | lda (a : Opnd) (b : Opnd) (o : BitVec 8)
  /-- ST, R197. Stores one word. -/
  | st (a : Opnd) (b : Opnd) (o : BitVec 8)
  /-- ST2, R197. Stores two words. -/
  | st2 (a : Opnd) (b : Opnd) (o : BitVec 8)
  /-- ST4, R197. Stores four words. -/
  | st4 (a : Opnd) (b : Opnd) (o : BitVec 8)
  /-- STL, R197. Release store at scope ASCOPE. -/
  | stl (a : Opnd) (b : Opnd) (o : BitVec 8)
  /-- LDS, R197. Loads one scratchpad word by offset. -/
  | lds (a : Opnd) (b : Opnd) (o : BitVec 8)
  /-- LDS4, R197. Loads four scratchpad words by offset. -/
  | lds4 (a : Opnd) (b : Opnd) (o : BitVec 8)
  /-- STS, R197. Stores one scratchpad word by offset. -/
  | sts (a : Opnd) (b : Opnd) (o : BitVec 8)
  /-- STS4, R197. Stores four scratchpad words by offset. -/
  | sts4 (a : Opnd) (b : Opnd) (o : BitVec 8)
  /-- LDC, R197. Loads one word of the constant window by offset. -/
  | ldc (a : Opnd) (b : Opnd) (o : BitVec 8)
  /-- PREF, R197. Prefetches a line into the L1 without faulting. -/
  | pref (b : Opnd) (o : BitVec 8)
  /-- AADD, R198. Atomic add. -/
  | aadd (a : Opnd) (b : Opnd) (c : Opnd)
  /-- AMIN, R198. Atomic minimum. -/
  | amin (a : Opnd) (b : Opnd) (c : Opnd)
  /-- AMAX, R198. Atomic maximum. -/
  | amax (a : Opnd) (b : Opnd) (c : Opnd)
  /-- AAND, R198. Atomic AND. -/
  | aand (a : Opnd) (b : Opnd) (c : Opnd)
  /-- AOR, R198. Atomic OR. -/
  | aor (a : Opnd) (b : Opnd) (c : Opnd)
  /-- AXOR, R198. Atomic XOR. -/
  | axor (a : Opnd) (b : Opnd) (c : Opnd)
  /-- AXCH, R198. Atomic exchange. -/
  | axch (a : Opnd) (b : Opnd) (c : Opnd)
  /-- ACAS, R198. Atomic compare and swap. -/
  | acas (a : Opnd) (b : Opnd) (c : Opnd)
  /-- AINC, R198. Atomic wrapping increment. -/
  | ainc (a : Opnd) (b : Opnd) (c : Opnd)
  /-- AFADD, R198. Atomic floating add. -/
  | afadd (a : Opnd) (b : Opnd) (c : Opnd)
  /-- FENCE, R199. Acquire, release, acq-rel or sequentially consistent fence at a scope. -/
  | fence (k : BitVec 2) (s : BitVec 3)
  /-- GATHER, R200. Bounded indexed gather of one word. -/
  | gather (a : Opnd) (b : Opnd) (c : Opnd)
  /-- GATHER4, R200. Bounded indexed gather of four words. -/
  | gather4 (a : Opnd) (b : Opnd) (c : Opnd)
  /-- SCATTER, R200. Bounded indexed scatter. -/
  | scatter (a : Opnd) (b : Opnd) (c : Opnd)
  /-- SCATADD, R200. Bounded indexed atomic add. -/
  | scatadd (a : Opnd) (b : Opnd) (c : Opnd)
  /-- BINIT, R234. Initialises a barrier's expected arrivals and bytes. -/
  | binit (a : Opnd) (b : Opnd) (n : BitVec 8)
  /-- BARR, R234. Arrives at a barrier without waiting. -/
  | barr (n : BitVec 8)
  /-- BEXP, R234. Adds expected bytes to a barrier. -/
  | bexp (a : Opnd) (n : BitVec 8)
  /-- BWAIT, R234. Waits for a barrier phase to complete. -/
  | bwait (n : BitVec 8)
  /-- BTRY, R234. Tests without waiting whether a barrier phase has passed. -/
  | btry (p : Fin 8) (n : BitVec 8)
  /-- BSYNC, R234. Arrives at a barrier and waits for the phase. -/
  | bsync (n : BitVec 8)
  /-- BRING, R234. Arrives at the ring leader's barrier and waits. -/
  | bring (n : BitVec 8)
  /-- SLUICE, R250. Hands a transfer-record chain to a sluice engine and sets its tokens. -/
  | sluice (a : Opnd) (b : Opnd) (k : BitVec 3)
  /-- SLSTAT, R252. Reads a token status word. -/
  | slstat (a : Opnd) (k : BitVec 3)
  /-- SLKILL, R253. Asks the engine to stop the sluice chain bound to a token. -/
  | slkill (k : BitVec 3)
  /-- COLL, R256. Starts a collective described by a descriptor. -/
  | coll (a : Opnd) (k : BitVec 3)
  /-- CPYS, R254. Copies within the polder's scratchpad, counted in F2. -/
  | cpys (a : Opnd) (b : Opnd) (c : Opnd)
  /-- OSCLAIM, R286. Claims an operand slot, with success in a predicate. -/
  | osclaim (p : Fin 8) (n : BitVec 4)
  /-- OSREL, R286. Releases an operand slot. -/
  | osrel (n : BitVec 4)
  /-- OSLOAD, R286. Queues a 6144-byte load from scratchpad into a slot. -/
  | osload (a : Opnd) (n : BitVec 4)
  /-- MFMT, R287. Loads a format block into an accumulator's format latch. -/
  | mfmt (a : Opnd) (n : BitVec 2)
  /-- MLOOP, R276. Queues a versioned dense matrix loop. -/
  | mloop (a : Opnd) (b : Opnd) (n : BitVec 2)
  /-- MSPARSE, R277. Queues a versioned bitmap-sparse matrix loop. -/
  | msparse (a : Opnd) (b : Opnd) (n : BitVec 2)
  /-- MGUST, R279. Queues a versioned Gustavson sparse product. -/
  | mgust (a : Opnd) (b : Opnd) (n : BitVec 2)
  /-- MDRAIN, R282. Queues a versioned drain of an accumulator to memory. -/
  | mdrain (a : Opnd) (b : Opnd) (n : BitVec 2)
  /-- MZERO, R288. Queues a versioned clear of an accumulator. -/
  | mzero (b : Opnd) (n : BitVec 2)
  /-- MVER, R289. Reads an accumulator's version counter. -/
  | mver (a : Opnd) (n : BitVec 2)
  /-- MWAIT, R289. Waits until an accumulator's counter reaches a version. -/
  | mwait (b : Opnd) (n : BitVec 2)
  /-- MSTEP, R289. Reads an accumulator's status word. -/
  | mstep (a : Opnd) (n : BitVec 2)
  /-- MCBOOK, R283. Loads a codebook table of the matrix engine. -/
  | mcbook (a : Opnd) (t : BitVec 1)
  /-- TRACE, R312. Traces rays for the closest hit in a structure generation. -/
  | trace (a : Opnd) (b : Opnd) (c : Opnd)
  /-- TRACEA, R312. Traces rays for any hit. -/
  | tracea (a : Opnd) (b : Opnd) (c : Opnd)
  /-- BUILD, R312. Enqueues a structure build job on a token. -/
  | build (a : Opnd) (k : BitVec 3)
  /-- REFIT, R312. Enqueues a structure refit job on a token. -/
  | refit (a : Opnd) (k : BitVec 3)
  /-- SFENCE, R312. Waits until a structure fence is ready or failed. -/
  | sfence (a : Opnd) (b : Opnd)
  /-- SREADY, R312. Tests whether a structure fence is ready. -/
  | sready (p : Fin 8) (b : Opnd) (c : Opnd)
  /-- GENPIN, R312. Pins a structure generation. -/
  | genpin (b : Opnd) (c : Opnd)
  /-- GENUNPIN, R312. Unpins a structure generation. -/
  | genunpin (b : Opnd) (c : Opnd)
  /-- MARCH, R325. Marches rays through a mesh in sample, iso or probe mode. -/
  | march (a : Opnd) (b : Opnd) (c : Opnd)
  /-- MLOC, R329. Locates points in a mesh by walking from a hint cell. -/
  | mloc (a : Opnd) (b : Opnd) (c : Opnd)
  /-- SAMPLE, R333. Emits hash-grid feature rows for occupied samples along rays. -/
  | sample (a : Opnd) (b : Opnd) (c : Opnd)
  /-- GRIDSET, R340. Loads and checks a grid descriptor into a polder grid latch. -/
  | gridset (a : Opnd) (n : BitVec 2)
  /-- COMPACT, R312. Enqueues a structure compaction job on a token. -/
  | compact (a : Opnd) (k : BitVec 3)
  /-- LAUNCH, R354. Records a tail-launch packet in the grid's pending-launch pool. -/
  | launch (p : Fin 8) (b : Opnd)
  /-- NODEQ, R361. Queries work-graph node and record figures. -/
  | nodeq (a : Opnd) (b : Opnd) (q : BitVec 8)
  /-- BINFLUSH, R362. Makes a node's bin on the issuing core fire. -/
  | binflush (b : Opnd)
  /-- QSIG_ADD, R363. Adds a value to the queue's signal counter. -/
  | qsigAdd (b : Opnd)
  /-- QSIG_MAX, R363. Raises the queue's signal counter to a value. -/
  | qsigMax (b : Opnd)
  /-- QSIG_NOTIFY, R363. Raises the queue's host notification with a value. -/
  | qsigNotify (b : Opnd)
  /-- CSRR, R386. Reads a control and status register. -/
  | csrr (a : Opnd) (i : BitVec 16)
  /-- CSRW, R386. Writes a control and status register. -/
  | csrw (a : Opnd) (i : BitVec 16)
  /-- SAVEC, R384. Stops a polder and writes its save image, evicting it if asked. -/
  | savec (a : Opnd) (e : BitVec 1)
  /-- RESTC, R384. Restores a polder from a save image. -/
  | restc (a : Opnd)
  /-- DBGLOG_SELECT, R390. Selects a fascine of the halted target as the undo target. -/
  | dbglogSelect (b : Opnd)
  /-- DBGLOG_DISCARD, R390. Discards the undo target's log. -/
  | dbglogDiscard (b : Opnd)
  /-- DBGLOG_WRITE, R390. Writes a 16-byte record to the context's debug log. -/
  | dbglogWrite (b : Opnd)
  /-- UNDO, R391. Undoes the target's last n logged steps. -/
  | undo (n : BitVec 8)
  /-- ASGEN, R398. Raises the address-space generation, invalidating cached translations. -/
  | asgen (b : Opnd)
  /-- EVWAIT, R387. Waits until an event counter differs from the fascine's snapshot. -/
  | evwait (a : Opnd) (k : BitVec 2)
  /-- UNASSIGNED_OPCODE, R57. An instruction word with an unassigned opcode issues and traps ILLINST in any slot, whatever the guard. -/
  | unassignedOpcode (w : Word)
  /-- RESERVED_FIELD_WORD, R59. An assigned opcode whose must-be-zero or out-of-range literal bits fall outside every step's mask issues and traps ILLOPND. -/
  | reservedFieldWord (w : Word)
  /-- REJOIN_MERGE, R161. Waiting entries at one PC merge into the lowest-numbered entry. -/
  | rejoinMerge (h f : Nat)
  /-- SLEEP_EXPIRY, R174. A sub-group's SLEEP count runs out and it becomes eligible. -/
  | sleepExpiry (h f g : Nat)
  /-- VOTERK_ROUND_COMPLETE, R148. The last fascine arrives and every fascine receives the vote over the union. -/
  | voterkRoundComplete (h rank : Nat)
  /-- REGROUP_ROUND_COMPLETE, R180. The round completes and threads with their registers move to new positions. -/
  | regroupRoundComplete (h rank : Nat)
  /-- CHDEC_DECIDE, R100. CHDEC's outcome is fixed for a thread, its predicate is written and cancel tokens are sent. -/
  | chdecDecide (h f chain t : Nat)
  /-- CHAIN_DRAIN_COMPLETE, R99. Every thread of every member is done or cancelled and the chain ends, adding its exceptions. -/
  | chainDrainComplete (h f chain : Nat)
  /-- LOAD_DATA_RETURN, R197. Load, gather or atomic data is written to its registers and F0 drops. -/
  | loadDataReturn (h f op : Nat)
  /-- STORE_ACCEPT, R197. A store is accepted at its home slice, scratchpad or culvert and F1 drops. -/
  | storeAccept (h f op : Nat)
  /-- ATOMIC_PERFORM, R211. An atomic is performed indivisibly at its home slice or bank. -/
  | atomicPerform (h f op : Nat)
  /-- CULVERT_FLIT_ACCEPT, R187. A held culvert store is accepted as one flit at its window. -/
  | culvertFlitAccept (h f op : Nat)
  /-- GATHER_WINDOW_TIMEOUT, R195. The gather collector sends its window 32 beats after its first request. -/
  | gatherWindowTimeout (core : Nat)
  /-- POLDER_RETIRE, R183. Every access of a draining polder is performed and its resources return to the core. -/
  | polderRetire (h : Nat)
  /-- SLUICE_RECORD_TAKE, R244. The engine reads the head record, checks it and starts it. -/
  | sluiceRecordTake (k : Nat)
  /-- SLUICE_RECORD_COMPLETE, R245. A record's bytes are written, its status is written back and its barrier is decremented. -/
  | sluiceRecordComplete (k : Nat)
  /-- SLUICE_KILL_STOP, R253. A killed record stops at a sector boundary with KILLED and the chain ends. -/
  | sluiceKillStop (k : Nat)
  /-- CPYS_COMPLETE, R254. A scratchpad copy finishes and F2 drops. -/
  | cpysComplete (h f op : Nat)
  /-- COLL_MATCH, R257. Participants of one collective match, or end with MISMATCH. -/
  | collMatch (gid seq : Nat)
  /-- COLL_COMPLETE, R258. A collective writes RECV and clears its token. -/
  | collComplete (gid seq : Nat)
  /-- SLOT_LOAD_COMPLETE, R268. The last queued load writes an operand slot, which becomes LOADED. -/
  | slotLoadComplete (h e slot : Nat)
  /-- MATRIX_OP_START, R273. A queued versioned operation starts when the counter reaches its version. -/
  | matrixOpStart (h e a : Nat)
  /-- MATRIX_BLOCK_COMMIT, R276. One block or unit of a matrix operation commits to every accumulator element. -/
  | matrixBlockCommit (h e a : Nat)
  /-- MATRIX_OP_COMPLETE, R273. A versioned operation ends, advances the version and drops F3. -/
  | matrixOpComplete (h e a : Nat)
  /-- JOB_START, R302. A builder or compactor takes a queued job, reads its record and takes an entry. -/
  | jobStart (k : Nat)
  /-- FENCE_READY, R296. A subtree is written and its fence becomes ready, possibly making the generation LIVE. -/
  | fenceReady (k fence : Nat)
  /-- JOB_END, R301. A job writes JST and JNODES and clears its token. -/
  | jobEnd (k : Nat)
  /-- RECLAIM, R305. After holds are released, a retired or failed entry becomes EMPTY and its blocks are freed. -/
  | reclaim (k : Nat)
  /-- RAY_COMPLETE, R308. A ray's result is written and the hold is released with the last thread. -/
  | rayComplete (k : Nat)
  /-- MARCH_UNIT_THREAD_END, R338. A MARCH, MLOC or SAMPLE thread ends and writes its block. -/
  | marchUnitThreadEnd (k : Nat)
  /-- ASGEN_DRAIN_COMPLETE, R398. Every access translated under an older generation is performed and ASGEN returns. -/
  | asgenDrainComplete (h f g : Nat)
  /-- SKID_STOP, R372. A sibling fascine stops within its skid after the halt broadcast. -/
  | skidStop (h f : Nat)
  /-- TRAP_DELIVERY, R373. A free trap record is taken and written, then a handler starts or the host is notified. -/
  | trapDelivery (h : Nat)
  /-- POLDER_STOP_COMPLETE, R377. A stopped polder's pending work completes and the sample is taken. -/
  | polderStopComplete (h : Nat)
  /-- RESTORE_PLACE, R384. A core with room is found, the image is loaded and pending entries are applied. -/
  | restorePlace (k : Nat)
  /-- PACKET_FETCH, R346. The sequencer reads and checks the packet at RD, or stops the queue. -/
  | packetFetch (q : Nat)
  /-- PACKET_SELECT, R350. The sequencer selects a READY packet by priority, age and queue. -/
  | packetSelect (q : Nat)
  /-- RING_PLACE, R351. A ring of the selected packet is placed on cores that hold its resources. -/
  | ringPlace (k : Nat)
  /-- INLET_CORE_START, R260. An inlet or outlet core starts once its image is loaded. -/
  | inletCoreStart (h k : Nat)
  /-- PACKET_COMPLETE, R348. A packet completes: release, DONEADDR write, DONE advance and notification. -/
  | packetComplete (k : Nat)
  /-- TAIL_CHILD_START, R353. The pool's children start in pool order once the parent grid has retired. -/
  | tailChildStart (k : Nat)
  /-- EVENT_PACKET_WRITE, R364. A notice is written as an event packet into the privileged queue and EVC counts rise. -/
  | eventPacketWrite (c : Nat)
  /-- INLET_CORE_INSTRUCTION, R261. An inlet or outlet core executes one RV32IMC instruction, such as a scratchpad load or store, a culvert SW, FENCE, ECALL or WFI. -/
  | inletCoreInstruction (h k : Nat)
  /-- CODEBOOK_TABLE_WRITTEN, R283. An MCBOOK finishes writing its codebook table, and its issuing sub-group is released. -/
  | codebookTableWritten (h f g : Nat)
  /-- GRID_LATCH_WRITTEN, R340. A GRIDSET finishes writing its grid latch as valid, and its issuing sub-group is released. -/
  | gridLatchWritten (h f g : Nat)
  /-- REJOIN_HOLD_EXPIRY, R156. The hold of a fascine at a rejoin point for coupling ends after 256 beats. -/
  | rejoinHoldExpiry (h f : Nat)
  /-- CANDIDATE_URGENT, R164. A candidate eligible without issuing for 1024 beats becomes urgent. -/
  | candidateUrgent (h f g : Nat)
  /-- SOFT_ERROR_CORRECTED, R128. A single-bit soft error is corrected and counted in telemetry. -/
  | softErrorCorrected (die : Nat)
  /-- SOFT_ERROR_UNCORRECTABLE, R130. An uncorrectable soft error sets the poison of its word or sector. -/
  | softErrorUncorrectable (l : ErrLoc)
  /-- SLUICE_OWN_POLL, R244. The engine rereads a record with OWN = 0 every 256 beats. -/
  | sluiceOwnPoll (k : Nat)
  /-- COLL_TIMEOUT, R257. A collective unmatched within TMO ends with TIMEOUT. -/
  | collTimeout (k : Nat)
  /-- RAY_PARK_RECHECK, R309. A parked ray rechecks its fence at most 256 beats apart or on a builder signal. -/
  | rayParkRecheck (k : Nat)
  /-- ENGINE_FAULT_RETRY, R400. A held access retries its walk at an ASGEN or after at most 65,536 beats. -/
  | engineFaultRetry (k : Nat)
  /-- DOORBELL, R344. A closing store to a queue window sets WR, is ignored as stale, or stops the queue with DOOR. -/
  | doorbell (q : Nat) (w : Word)
  /-- WORK_GRAPH_RECORD_CLOSE, R356. A closing store to a node window closes a record and enters it in the bin. -/
  | workGraphRecordClose (h f t window : Nat)
  /-- BIN_TIMER_EXPIRY, R358. A bin fires TIMER ns after its first record. -/
  | binTimerExpiry (core grid node : Nat)
  /-- SPILLWAY_PLACE, R359. The sequencer places a node polder that takes records from a spillway part. -/
  | spillwayPlace (grid node part : Nat)
  /-- SPILLWAY_TIMER_EXPIRY, R359. A spillway part's oldest record has waited TIMER ns. -/
  | spillwayTimerExpiry (grid node part : Nat)
  /-- MAILBOX_PACKET_CLOSE, R264. A closing culvert store moves the mailbox packet to the ready queue. -/
  | mailboxPacketClose (h k : Nat)
  /-- INLET_CORE_EXCEPTION, R260. An inlet or outlet core exception is taken to mtvec, or stops the core and traps AUXF. -/
  | inletCoreException (h k : Nat) (cause tval : Word)
  /-- SLGO_WRITE, R262. Enqueues a chain from HEADLO and HEADHI on a channel and ticket. -/
  | slgoWrite (h k : Nat) (v : Word)
  /-- SLKL_WRITE, R262. Kills the chain of a ticket. -/
  | slklWrite (h k : Nat) (v : Word)
  /-- MBPOP_WRITE, R263. Removes the head packet of the mailbox. -/
  | mbpopWrite (h k : Nat)
  /-- TIMELO_READ, R263. Reads the low time-stamp word and latches the high word. -/
  | timeloRead (h k : Nat)
  /-- HOST_WRITE, R220. A host or peer write lands at its home L2 slice as a release. -/
  | hostWrite (w : HostTo) (bytes : List Byte)
  /-- HOST_READ, R221. A host or peer read is served from the home L2 slice. -/
  | hostRead (r : HostFrom) (n : Nat)
  /-- HOST_REQUEST_TIMEOUT, R404. A non-posted request to host or peer memory times out and returns all-ones. -/
  | hostRequestTimeout (h f op : Nat)
  /-- CTXACT, R405. Host command that activates a context. -/
  | ctxact (port c : Nat)
  /-- CTXFREE, R405. Host command that frees a context. -/
  | ctxfree (port c : Nat)
  /-- QBIND_BIND, R405. Host command that binds a queue for a context. -/
  | qbindBind (port c q : Nat)
  /-- QBIND_UNBIND, R405. Host command that unbinds a queue. -/
  | qbindUnbind (port c q : Nat)
  /-- ASGEN_COMMAND, R405. Host command that raises an address-space generation. -/
  | asgenCommand (port asid : Nat)
  /-- FAULTEND, R405. Host command that ends held accesses on a page without mapping. -/
  | faultend (port c va : Nat)
  /-- HALTEND, R405. Host command that ends a halt as TRAPRET would and frees the record. -/
  | haltend (port c tself act : Nat)
  /-- DIERESET, R405. Host command that resets a die. -/
  | diereset (port die : Nat)
  /-- COMMAND_COMPLETE, R405. A host command's effect completes, RESULT is written and BUSY clears. -/
  | commandComplete (port : Nat)
  /-- TSLO_READ, R403. Reads the low time-stamp word and latches TSHI. -/
  | tsloRead (port : Nat)
  /-- NRHEAD_WRITE, R406. The host records consumed notifications, making room in the ring. -/
  | nrheadWrite (port : Nat) (v : Word)
  /-- CTXBASE_WRITE, R413. Sets the context table base unless a context is active or the value is misaligned. -/
  | ctxbaseWrite (w : PortDWord)
  /-- PWRCAP_WRITE, R417. Sets the module power cap within 400 to 700 W. -/
  | pwrcapWrite (w : PortWord)
  /-- REGISTER_WRITE, R4. A write to a register that has no behaviour of its own. -/
  | registerWrite (port off : Nat) (v : DWord)
  /-- NOTIFICATION_WRITE, R406. A waiting record is written to the ring, NRTAIL advances and MSI-X is sent. -/
  | notificationWrite (port : Nat)
  /-- QUOTA_WRITE, R385. Writes the context's cache way quota word. -/
  | quotaWrite (c : Nat) (v : Word)
  /-- CTXHOLD_HOLD, R367. Holds the context so that no new polder is placed. -/
  | ctxholdHold (c : Nat)
  /-- CTXHOLD_RELEASE, R367. Releases a held context. -/
  | ctxholdRelease (c : Nat)
  /-- CSR_QBIND_BIND, R385. Binds a queue from QTAB and sets QBSTAT. -/
  | csrQbindBind (c q : Nat)
  /-- CSR_QBIND_UNBIND, R385. Unbinds a queue. -/
  | csrQbindUnbind (c q : Nat)
  /-- DBGCTL_WRITE, R388. Sets the debug, halt-domain and undo enables for later polders. -/
  | dbgctlWrite (c : Nat) (v : Word)
  /-- DBGHALT_HALT, R388. Halts the context's fascines on the named dies. -/
  | dbghaltHalt (c mask : Nat)
  /-- DBGHALT_RESUME, R388. Resumes the context's fascines on the named dies. -/
  | dbghaltResume (c mask : Nat)
  /-- LINK_FLIT_RETRY, R407. A die-link flit whose CRC fails is retried in order. -/
  | linkFlitRetry (l : Nat)
  /-- LINK_RETRAIN_START, R407. A die link whose retry fails begins retraining while traffic waits. -/
  | linkRetrainStart (l : Nat)
  /-- LINK_RETRAIN_END, R408. Retraining ends and link-retrained notices are raised. -/
  | linkRetrainEnd (l : Nat)
  /-- LINK_TRAIN_FAILURE, R408. A third failed training in a row makes the reeve reset the higher end die. -/
  | linkTrainFailure (l : Nat)
  /-- DIE_RESET, R368. A die leaves service, its polders are retired and die-reset notices are raised. -/
  | dieReset (d : Nat)
  /-- DIE_RESET_DONE, R406. A die reset completes and a kind 7 record goes to both rings. -/
  | dieResetDone (d : Nat)
  /-- PACKAGE_RESET, R412. Runs fuse read, firmware check, measurement, initialisation and port training. -/
  | packageReset
  /-- MCTP_CONTROL, R409. The reeve answers an MCTP control message. -/
  | mctpControl (msg : List Byte)
  /-- SPDM_GET_MEASUREMENTS, R415. Returns the fixed measurements, signed with the alias key. -/
  | spdmGetMeasurements (index : Nat)
  /-- SPDM_MESSAGE, R411. Another SPDM request over DOE or the side-band. -/
  | spdmMessage (msg : List Byte)
  /-- TELEMETRY_READ, R409. Vendor message that reads power, temperature and error counts. -/
  | telemetryRead
  /-- SET_POWER_CAP, R409. Vendor message that sets the power cap. -/
  | setPowerCap (w : Word)
  /-- SIDEBAND_DIE_RESET, R409. Vendor message that resets a die. -/
  | sidebandDieReset (d : Nat)
  /-- SIDEBAND_PACKAGE_RESET, R409. Vendor message that resets the package. -/
  | sidebandPackageReset
  /-- RECOVERY_IMAGE_LOAD, R416. Verifies a received image, writes it to flash and resets the package. -/
  | recoveryImageLoad (image : List Byte)
  /-- RAISE_MIN_VERSION, R414. Vendor message that raises the fused minimum firmware version. -/
  | raiseMinVersion (v : Word)
  /-- POWER_WINDOW, R417. Each 1 ms window the reeve withholds issue to keep mean power at the cap. -/
  | powerWindow
  /-- THERMAL_THROTTLE, R417. A die at 105 C is throttled until it falls below 100 C. -/
  | thermalThrottle (d : Nat)
  /-- THERMAL_DIE_RESET, R417. A die at 115 C is reset by the reeve. -/
  | thermalDieReset (d : Nat)
  /-- HOST_PORT_DOWN, R404. A host port goes down, and device requests to host or peer memory move to the other port or wait. -/
  | hostPortDown (port : Nat)
  /-- HOST_PORT_TRAINED, R404. A host port trains, and requests that waited for an up port proceed. -/
  | hostPortTrained (port : Nat)
  /-- THERMAL_THROTTLE_END, R417. A throttled die falls below 100 C and its throttling ends. -/
  | thermalThrottleEnd (d : Nat)
  /-- POWER_LOSS, R416. Power is lost, and a loss during the flash write leaves no valid image, so the next start enters recovery. -/
  | powerLoss
  deriving DecidableEq, Repr

end Sys2Proof
end

