-- ==== Sys2Proof/Decode.lean ====
section
/-! DEFINITION. The decoder and the encoder of instruction words (spec/02_instruction_word.md R36 to R39, R48 to R57).
Every 32-bit word decodes: to its instruction, to `unassignedOpcode` (R57), or to `reservedFieldWord` (R37, R59).
The bit-field and byte-order helpers of encodings stand here too. -/
namespace Sys2Proof

/-- The operand code of a byte (R39). -/
def Opnd.ofByte (x : Byte) : Opnd :=
  let n := x.toNat
  if h : n < 160 then .v ⟨n, h⟩
  else if h : n - 160 < 48 then .s ⟨n - 160, h⟩
  else if h : n - 208 < 16 then .b ⟨n - 208, h⟩
  else if h : n - 224 < 16 then .c ⟨n - 224, h⟩
  else match n - 240 with
    | 0 => .zero
    | 1 => .ln
    | 2 => .qd
    | 3 => .fc
    | 4 => .rk
    | 5 => .pl
    | 6 => .tid
    | 7 => .vdie
    | 8 => .core
    | 9 => .tick
    | 10 => .tickh
    | 11 => .ch
    | m => .rsv (Fin.ofNat 4 (m - 12))

/-- The number of an operand code (R39). -/
def Opnd.code : Opnd → Nat
  | .v n => n.val
  | .s n => 160 + n.val
  | .b n => 208 + n.val
  | .c n => 224 + n.val
  | .zero => 240
  | .ln => 241
  | .qd => 242
  | .fc => 243
  | .rk => 244
  | .pl => 245
  | .tid => 246
  | .vdie => 247
  | .core => 248
  | .tick => 249
  | .tickh => 250
  | .ch => 251
  | .rsv n => 252 + n.val

/-- The byte of an operand code. -/
def Opnd.toByte (o : Opnd) : Byte := BitVec.ofNat 8 o.code

/-- A predicate field: bits [2:0] the predicate, bit 3 the negate (R37). -/
def Pred.ofByte (x : Byte) : Pred := ⟨x.getLsbD 3, Fin.ofNat 8 (x.toNat % 8)⟩

/-- The byte of a predicate field. -/
def Pred.toByte (p : Pred) : Byte := BitVec.ofNat 8 (p.idx.val + if p.neg then 8 else 0)

/-- A predicate destination without a negate bit (R144). -/
def predOf (x : Byte) : Fin 8 := Fin.ofNat 8 (x.toNat % 8)

/-- The byte of a predicate destination. -/
def predByte (p : Fin 8) : Byte := BitVec.ofNat 8 p.val

/-- The condition of code n (R38). -/
def Cond.ofCode : Nat → Cond
  | 0 => .eq
  | 1 => .ne
  | 2 => .lt
  | 3 => .le
  | 4 => .gt
  | 5 => .ge
  | 6 => .ord
  | _ => .unord

/-- The code of a condition (R38). -/
def Cond.code : Cond → Nat
  | .eq => 0 | .ne => 1 | .lt => 2 | .le => 3 | .gt => 4 | .ge => 5 | .ord => 6 | .unord => 7

/-- The combine of code n (R38). -/
def Comb.ofCode : Nat → Comb
  | 0 => .set
  | 1 => .and
  | 2 => .or
  | _ => .xor

/-- The code of a combine (R38). -/
def Comb.code : Comb → Nat
  | .set => 0 | .and => 1 | .or => 2 | .xor => 3

/-- A compare destination: [2:0] predicate, [5:3] condition, [7:6] combine (R37, R38). -/
def Pcc.ofByte (x : Byte) : Pcc :=
  ⟨Comb.ofCode (x.toNat / 64), Cond.ofCode (x.toNat / 8 % 8), Fin.ofNat 8 (x.toNat % 8)⟩

/-- The byte of a compare destination. -/
def Pcc.toByte (k : Pcc) : Byte := BitVec.ofNat 8 (k.comb.code * 64 + k.cond.code * 8 + k.p.val)

/-- Bits [23:16] of a 24-bit immediate: field A (R36). -/
def top8 (i : BitVec 24) : Byte := i.extractLsb' 16 8
/-- Bits [15:8] of a 24-bit immediate: field B (R36). -/
def mid8 (i : BitVec 24) : Byte := i.extractLsb' 8 8
/-- Bits [7:0] of a 24-bit immediate: field C (R36). -/
def low8 (i : BitVec 24) : Byte := i.extractLsb' 0 8
/-- Bits [15:8] of a 16-bit immediate: field B (R36). -/
def hi8 (i : BitVec 16) : Byte := i.extractLsb' 8 8
/-- Bits [7:0] of a 16-bit immediate: field C (R36). -/
def lo8 (i : BitVec 16) : Byte := i.extractLsb' 0 8

/-- The instructions of opcodes 0x00 to 0x0F, by the opcode's low four bits `lo` and the fields A, B and C
(R48 to R56). -/
def decode0 (lo : Nat) (a b c : Byte) : Option Instr :=
  match lo with
  | 0 => some (.nop)
  | 1 => some (.bra (a ++ b ++ c))
  | 2 => if a.toNat < 16 then some (.brc (Pred.ofByte a) (b ++ c)) else none
  | 3 => some (.brx (Opnd.ofByte b))
  | 4 => some (.call (a ++ b ++ c))
  | 5 => some (.callx (Opnd.ofByte b))
  | 6 => some (.ret)
  | 7 => some (.exit)
  | 8 => some (.yield)
  | 9 => some (.mode (a ++ b ++ c))
  | 10 => some (.modex (Opnd.ofByte a) (Opnd.ofByte b) (c))
  | 11 => some (.lit (Opnd.ofByte a) (b ++ c))
  | 12 => some (.lith (Opnd.ofByte a) (b ++ c))
  | 13 => some (.waitc ((a ++ b ++ c).extractLsb' 0 6) ((a ++ b ++ c).extractLsb' 6 6) ((a ++ b ++ c).extractLsb' 12 6) ((a ++ b ++ c).extractLsb' 18 6))
  | 14 => if (a ++ b ++ c).toNat < 4096 then some (.waitf ((a ++ b ++ c).setWidth 12)) else none
  | 15 => some (.trap (a ++ b ++ c))
  | _ => none

/-- The instructions of opcodes 0x10 to 0x1F, by the opcode's low four bits `lo` and the fields A, B and C
(R48 to R56). -/
def decode1 (lo : Nat) (a b c : Byte) : Option Instr :=
  match lo with
  | 0 => some (.bkpt (a ++ b ++ c))
  | 1 => some (.dbnz (Opnd.ofByte a) (b ++ c))
  | 2 => if b.toNat < 16 ∧ c.toNat < 2 then some (.regroup (Opnd.ofByte a) (Pred.ofByte b) (c.setWidth 1)) else none
  | 3 => some (.qfill)
  | 4 => some (.demote)
  | 5 => some (.sleep (a ++ b ++ c))
  | 6 => some (.trapret)
  | 7 => some (.halt)
  | _ => none

/-- The instructions of opcodes 0x20 to 0x2F, by the opcode's low four bits `lo` and the fields A, B and C
(R48 to R56). -/
def decode2 (lo : Nat) (a b c : Byte) : Option Instr :=
  match lo with
  | 0 => some (.add (Opnd.ofByte a) (Opnd.ofByte b) (Opnd.ofByte c))
  | 1 => some (.sub (Opnd.ofByte a) (Opnd.ofByte b) (Opnd.ofByte c))
  | 2 => some (.mul (Opnd.ofByte a) (Opnd.ofByte b) (Opnd.ofByte c))
  | 3 => some (.mad (Opnd.ofByte a) (Opnd.ofByte b) (Opnd.ofByte c))
  | 4 => some (.msb (Opnd.ofByte a) (Opnd.ofByte b) (Opnd.ofByte c))
  | 5 => some (.nmad (Opnd.ofByte a) (Opnd.ofByte b) (Opnd.ofByte c))
  | 6 => some (.nmsb (Opnd.ofByte a) (Opnd.ofByte b) (Opnd.ofByte c))
  | 7 => some (.min (Opnd.ofByte a) (Opnd.ofByte b) (Opnd.ofByte c))
  | 8 => some (.max (Opnd.ofByte a) (Opnd.ofByte b) (Opnd.ofByte c))
  | 9 => some (.abs (Opnd.ofByte a) (Opnd.ofByte b))
  | 10 => some (.neg (Opnd.ofByte a) (Opnd.ofByte b))
  | 11 => some (.div (Opnd.ofByte a) (Opnd.ofByte b) (Opnd.ofByte c))
  | 12 => some (.sqrt (Opnd.ofByte a) (Opnd.ofByte b))
  | 13 => some (.rcp (Opnd.ofByte a) (Opnd.ofByte b))
  | 14 => some (.rsq (Opnd.ofByte a) (Opnd.ofByte b))
  | 15 => some (.exp2 (Opnd.ofByte a) (Opnd.ofByte b))
  | _ => none

/-- The instructions of opcodes 0x30 to 0x3F, by the opcode's low four bits `lo` and the fields A, B and C
(R48 to R56). -/
def decode3 (lo : Nat) (a b c : Byte) : Option Instr :=
  match lo with
  | 0 => some (.log2 (Opnd.ofByte a) (Opnd.ofByte b))
  | 1 => some (.sin (Opnd.ofByte a) (Opnd.ofByte b))
  | 2 => some (.cos (Opnd.ofByte a) (Opnd.ofByte b))
  | 3 => some (.dot2 (Opnd.ofByte a) (Opnd.ofByte b) (Opnd.ofByte c))
  | 4 => some (.dot4 (Opnd.ofByte a) (Opnd.ofByte b) (Opnd.ofByte c))
  | 5 => some (.lerp (Opnd.ofByte a) (Opnd.ofByte b) (Opnd.ofByte c))
  | 6 => some (.clamp (Opnd.ofByte a) (Opnd.ofByte b) (Opnd.ofByte c))
  | 7 => some (.frac (Opnd.ofByte a) (Opnd.ofByte b))
  | 8 => some (.roundi (Opnd.ofByte a) (Opnd.ofByte b))
  | 9 => if c.toNat < 16 then some (.cvt (Opnd.ofByte a) (Opnd.ofByte b) (c.setWidth 4)) else none
  | 10 => some (.sat (Opnd.ofByte a) (Opnd.ofByte b))
  | 11 => some (.scale (Opnd.ofByte a) (Opnd.ofByte b) (Opnd.ofByte c))
  | 12 => some (.cmp (Pcc.ofByte a) (Opnd.ofByte b) (Opnd.ofByte c))
  | 13 => some (.cmps (Opnd.ofByte a) (Opnd.ofByte b) (Opnd.ofByte c))
  | 14 => some (.sel (Opnd.ofByte a) (Opnd.ofByte b) (Opnd.ofByte c))
  | 15 => some (.classT (Opnd.ofByte a) (Opnd.ofByte b))
  | _ => none

/-- The instructions of opcodes 0x40 to 0x4F, by the opcode's low four bits `lo` and the fields A, B and C
(R48 to R56). -/
def decode4 (lo : Nat) (a b c : Byte) : Option Instr :=
  match lo with
  | 0 => if (a ++ b ++ c).toNat < 8 then some (.chopen ((a ++ b ++ c).setWidth 3)) else none
  | 1 => some (.chdec (Pcc.ofByte a) (Opnd.ofByte b) (Opnd.ofByte c))
  | 2 => if b = 0xFB#8 then some (.chclose (Opnd.ofByte a)) else none
  | 3 => if a.toNat < 16 then some (.chcancel (Pred.ofByte a)) else none
  | 4 => if c.toNat < 4 then some (.chstat (Opnd.ofByte a) (c.setWidth 2)) else none
  | _ => none

/-- The instructions of opcodes 0x50 to 0x5F, by the opcode's low four bits `lo` and the fields A, B and C
(R48 to R56). -/
def decode5 (lo : Nat) (a b c : Byte) : Option Instr :=
  match lo with
  | 0 => some (.and (Opnd.ofByte a) (Opnd.ofByte b) (Opnd.ofByte c))
  | 1 => some (.or (Opnd.ofByte a) (Opnd.ofByte b) (Opnd.ofByte c))
  | 2 => some (.xor (Opnd.ofByte a) (Opnd.ofByte b) (Opnd.ofByte c))
  | 3 => some (.not (Opnd.ofByte a) (Opnd.ofByte b))
  | 4 => some (.andn (Opnd.ofByte a) (Opnd.ofByte b) (Opnd.ofByte c))
  | 5 => some (.shl (Opnd.ofByte a) (Opnd.ofByte b) (Opnd.ofByte c))
  | 6 => some (.shr (Opnd.ofByte a) (Opnd.ofByte b) (Opnd.ofByte c))
  | 7 => some (.sar (Opnd.ofByte a) (Opnd.ofByte b) (Opnd.ofByte c))
  | 8 => some (.rol (Opnd.ofByte a) (Opnd.ofByte b) (Opnd.ofByte c))
  | 9 => some (.popc (Opnd.ofByte a) (Opnd.ofByte b))
  | 10 => some (.clz (Opnd.ofByte a) (Opnd.ofByte b))
  | 11 => some (.ctz (Opnd.ofByte a) (Opnd.ofByte b))
  | 12 => some (.brev (Opnd.ofByte a) (Opnd.ofByte b))
  | 13 => some (.bfe (Opnd.ofByte a) (Opnd.ofByte b) (Opnd.ofByte c))
  | 14 => some (.bfi (Opnd.ofByte a) (Opnd.ofByte b) (Opnd.ofByte c))
  | 15 => some (.prmt (Opnd.ofByte a) (Opnd.ofByte b) (c))
  | _ => none

/-- The instructions of opcodes 0x60 to 0x6F, by the opcode's low four bits `lo` and the fields A, B and C
(R48 to R56). -/
def decode6 (lo : Nat) (a b c : Byte) : Option Instr :=
  match lo with
  | 0 => some (.imulh (Opnd.ofByte a) (Opnd.ofByte b) (Opnd.ofByte c))
  | 1 => if c.toNat < 32 then some (.lea (Opnd.ofByte a) (Opnd.ofByte b) (c.setWidth 5)) else none
  | 2 => some (.addc (Opnd.ofByte a) (Opnd.ofByte b) (Opnd.ofByte c))
  | 3 => some (.subb (Opnd.ofByte a) (Opnd.ofByte b) (Opnd.ofByte c))
  | 4 => if c = 0#8 then some (.movpPack (Opnd.ofByte a)) else if c = 1#8 then some (.movpUnpack (Opnd.ofByte b)) else none
  | 5 => if a.toNat < 8 ∧ b.toNat < 16 ∧ c.toNat < 16 then some (.pand (predOf a) (Pred.ofByte b) (Pred.ofByte c)) else none
  | 6 => if a.toNat < 8 ∧ b.toNat < 16 ∧ c.toNat < 16 then some (.por (predOf a) (Pred.ofByte b) (Pred.ofByte c)) else none
  | 7 => if a.toNat < 8 ∧ b.toNat < 16 ∧ c.toNat < 16 then some (.pxor (predOf a) (Pred.ofByte b) (Pred.ofByte c)) else none
  | 8 => if a.toNat < 8 ∧ b.toNat < 16 then some (.pnot (predOf a) (Pred.ofByte b)) else none
  | 9 => if a.toNat < 8 ∧ c.toNat < 2 then some (.pset (predOf a) (c.setWidth 1)) else none
  | 10 => some (.isetp (Pcc.ofByte a) (Opnd.ofByte b) (Opnd.ofByte c))
  | 11 => some (.bmin (Opnd.ofByte a) (Opnd.ofByte b) (Opnd.ofByte c))
  | _ => none

/-- The instructions of opcodes 0x70 to 0x7F, by the opcode's low four bits `lo` and the fields A, B and C
(R48 to R56). -/
def decode7 (lo : Nat) (a b c : Byte) : Option Instr :=
  match lo with
  | 0 => some (.mov (Opnd.ofByte a) (Opnd.ofByte b))
  | 1 => if c.toNat < 16 then some (.movs (Opnd.ofByte a) (Opnd.ofByte b) (c.setWidth 4)) else none
  | 2 => some (.movb (Opnd.ofByte a) (Opnd.ofByte b))
  | 3 => if c.toNat < 64 then some (.blease (c.setWidth 6)) else none
  | 4 => some (.shfl (Opnd.ofByte a) (Opnd.ofByte b) (Opnd.ofByte c))
  | 5 => if c.toNat < 16 then some (.shflx (Opnd.ofByte a) (Opnd.ofByte b) (c.setWidth 4)) else none
  | 6 => if c.toNat < 16 then some (.shflup (Opnd.ofByte a) (Opnd.ofByte b) (c.setWidth 4)) else none
  | 7 => if c.toNat < 16 then some (.shfldn (Opnd.ofByte a) (Opnd.ofByte b) (c.setWidth 4)) else none
  | 8 => some (.qswx (Opnd.ofByte a) (Opnd.ofByte b))
  | 9 => some (.qswy (Opnd.ofByte a) (Opnd.ofByte b))
  | 10 => some (.qswd (Opnd.ofByte a) (Opnd.ofByte b))
  | 11 => if c.toNat < 4 then some (.qbcast (Opnd.ofByte a) (Opnd.ofByte b) (c.setWidth 2)) else none
  | 12 => some (.ddx (Opnd.ofByte a) (Opnd.ofByte b))
  | 13 => some (.ddy (Opnd.ofByte a) (Opnd.ofByte b))
  | 14 => if b.toNat < 16 ∧ c.toNat < 4 then some (.vote (Opnd.ofByte a) (Pred.ofByte b) (c.setWidth 2)) else none
  | 15 => some (.matchT (Opnd.ofByte a) (Opnd.ofByte b))
  | _ => none

/-- The instructions of opcodes 0x80 to 0x8F, by the opcode's low four bits `lo` and the fields A, B and C
(R48 to R56). -/
def decode8 (lo : Nat) (a b c : Byte) : Option Instr :=
  match lo with
  | 0 => if c.toNat < 8 then some (.scanf (Opnd.ofByte a) (Opnd.ofByte b) (c.setWidth 3)) else none
  | 1 => if c.toNat < 8 then some (.redf (Opnd.ofByte a) (Opnd.ofByte b) (c.setWidth 3)) else none
  | 2 => if b.toNat < 16 ∧ c.toNat < 4 then some (.voterk (Opnd.ofByte a) (Pred.ofByte b) (c.setWidth 2)) else none
  | 3 => some (.getsr (Opnd.ofByte a) (b ++ c))
  | 4 => some (.setsr (Opnd.ofByte a) (b ++ c))
  | 5 => some (.time (Opnd.ofByte a) (Opnd.ofByte b))
  | 6 => some (.dieq (Opnd.ofByte a) (Opnd.ofByte b) (Opnd.ofByte c))
  | 7 => some (.capq (Opnd.ofByte a) (c))
  | _ => none

/-- The instructions of opcodes 0x90 to 0x9F, by the opcode's low four bits `lo` and the fields A, B and C
(R48 to R56). -/
def decode9 (lo : Nat) (a b c : Byte) : Option Instr :=
  match lo with
  | 0 => some (.ld (Opnd.ofByte a) (Opnd.ofByte b) (c))
  | 1 => some (.ld2 (Opnd.ofByte a) (Opnd.ofByte b) (c))
  | 2 => some (.ld4 (Opnd.ofByte a) (Opnd.ofByte b) (c))
  | 3 => some (.ldb (Opnd.ofByte a) (Opnd.ofByte b) (c))
  | 4 => some (.ldb4 (Opnd.ofByte a) (Opnd.ofByte b) (c))
  | 5 => some (.lda (Opnd.ofByte a) (Opnd.ofByte b) (c))
  | 6 => some (.st (Opnd.ofByte a) (Opnd.ofByte b) (c))
  | 7 => some (.st2 (Opnd.ofByte a) (Opnd.ofByte b) (c))
  | 8 => some (.st4 (Opnd.ofByte a) (Opnd.ofByte b) (c))
  | 9 => some (.stl (Opnd.ofByte a) (Opnd.ofByte b) (c))
  | 10 => some (.lds (Opnd.ofByte a) (Opnd.ofByte b) (c))
  | 11 => some (.lds4 (Opnd.ofByte a) (Opnd.ofByte b) (c))
  | 12 => some (.sts (Opnd.ofByte a) (Opnd.ofByte b) (c))
  | 13 => some (.sts4 (Opnd.ofByte a) (Opnd.ofByte b) (c))
  | 14 => some (.ldc (Opnd.ofByte a) (Opnd.ofByte b) (c))
  | 15 => some (.pref (Opnd.ofByte b) (c))
  | _ => none

/-- The instructions of opcodes 0xA0 to 0xAF, by the opcode's low four bits `lo` and the fields A, B and C
(R48 to R56). -/
def decodeA (lo : Nat) (a b c : Byte) : Option Instr :=
  match lo with
  | 0 => some (.aadd (Opnd.ofByte a) (Opnd.ofByte b) (Opnd.ofByte c))
  | 1 => some (.amin (Opnd.ofByte a) (Opnd.ofByte b) (Opnd.ofByte c))
  | 2 => some (.amax (Opnd.ofByte a) (Opnd.ofByte b) (Opnd.ofByte c))
  | 3 => some (.aand (Opnd.ofByte a) (Opnd.ofByte b) (Opnd.ofByte c))
  | 4 => some (.aor (Opnd.ofByte a) (Opnd.ofByte b) (Opnd.ofByte c))
  | 5 => some (.axor (Opnd.ofByte a) (Opnd.ofByte b) (Opnd.ofByte c))
  | 6 => some (.axch (Opnd.ofByte a) (Opnd.ofByte b) (Opnd.ofByte c))
  | 7 => some (.acas (Opnd.ofByte a) (Opnd.ofByte b) (Opnd.ofByte c))
  | 8 => some (.ainc (Opnd.ofByte a) (Opnd.ofByte b) (Opnd.ofByte c))
  | 9 => some (.afadd (Opnd.ofByte a) (Opnd.ofByte b) (Opnd.ofByte c))
  | 10 => if (a ++ b ++ c).toNat < 32 then some (.fence ((a ++ b ++ c).extractLsb' 3 2) ((a ++ b ++ c).extractLsb' 0 3)) else none
  | 11 => some (.gather (Opnd.ofByte a) (Opnd.ofByte b) (Opnd.ofByte c))
  | 12 => some (.gather4 (Opnd.ofByte a) (Opnd.ofByte b) (Opnd.ofByte c))
  | 13 => some (.scatter (Opnd.ofByte a) (Opnd.ofByte b) (Opnd.ofByte c))
  | 14 => some (.scatadd (Opnd.ofByte a) (Opnd.ofByte b) (Opnd.ofByte c))
  | _ => none

/-- The instructions of opcodes 0xB0 to 0xBF, by the opcode's low four bits `lo` and the fields A, B and C
(R48 to R56). -/
def decodeB (lo : Nat) (a b c : Byte) : Option Instr :=
  match lo with
  | 0 => some (.binit (Opnd.ofByte a) (Opnd.ofByte b) (c))
  | 1 => some (.barr (c))
  | 2 => some (.bexp (Opnd.ofByte a) (c))
  | 3 => some (.bwait (c))
  | 4 => if a.toNat < 8 then some (.btry (predOf a) (c)) else none
  | 5 => some (.bsync (c))
  | 6 => some (.bring (c))
  | 8 => if c.toNat < 8 then some (.sluice (Opnd.ofByte a) (Opnd.ofByte b) (c.setWidth 3)) else none
  | 9 => if c.toNat < 8 then some (.slstat (Opnd.ofByte a) (c.setWidth 3)) else none
  | 10 => if c.toNat < 8 then some (.slkill (c.setWidth 3)) else none
  | 11 => if c.toNat < 8 then some (.coll (Opnd.ofByte a) (c.setWidth 3)) else none
  | 12 => some (.cpys (Opnd.ofByte a) (Opnd.ofByte b) (Opnd.ofByte c))
  | _ => none

/-- The instructions of opcodes 0xC0 to 0xCF, by the opcode's low four bits `lo` and the fields A, B and C
(R48 to R56). -/
def decodeC (lo : Nat) (a b c : Byte) : Option Instr :=
  match lo with
  | 0 => if a.toNat < 8 ∧ c.toNat < 16 then some (.osclaim (predOf a) (c.setWidth 4)) else none
  | 1 => if c.toNat < 16 then some (.osrel (c.setWidth 4)) else none
  | 2 => if c.toNat < 16 then some (.osload (Opnd.ofByte a) (c.setWidth 4)) else none
  | 3 => if c.toNat < 4 then some (.mfmt (Opnd.ofByte a) (c.setWidth 2)) else none
  | 4 => if c.toNat < 4 then some (.mloop (Opnd.ofByte a) (Opnd.ofByte b) (c.setWidth 2)) else none
  | 5 => if c.toNat < 4 then some (.msparse (Opnd.ofByte a) (Opnd.ofByte b) (c.setWidth 2)) else none
  | 6 => if c.toNat < 4 then some (.mgust (Opnd.ofByte a) (Opnd.ofByte b) (c.setWidth 2)) else none
  | 7 => if c.toNat < 4 then some (.mdrain (Opnd.ofByte a) (Opnd.ofByte b) (c.setWidth 2)) else none
  | 8 => if c.toNat < 4 then some (.mzero (Opnd.ofByte b) (c.setWidth 2)) else none
  | 9 => if c.toNat < 4 then some (.mver (Opnd.ofByte a) (c.setWidth 2)) else none
  | 10 => if c.toNat < 4 then some (.mwait (Opnd.ofByte b) (c.setWidth 2)) else none
  | 11 => if c.toNat < 4 then some (.mstep (Opnd.ofByte a) (c.setWidth 2)) else none
  | 12 => if c.toNat < 2 then some (.mcbook (Opnd.ofByte a) (c.setWidth 1)) else none
  | _ => none

/-- The instructions of opcodes 0xD0 to 0xDF, by the opcode's low four bits `lo` and the fields A, B and C
(R48 to R56). -/
def decodeD (lo : Nat) (a b c : Byte) : Option Instr :=
  match lo with
  | 0 => some (.trace (Opnd.ofByte a) (Opnd.ofByte b) (Opnd.ofByte c))
  | 1 => some (.tracea (Opnd.ofByte a) (Opnd.ofByte b) (Opnd.ofByte c))
  | 2 => if c.toNat < 8 then some (.build (Opnd.ofByte a) (c.setWidth 3)) else none
  | 3 => if c.toNat < 8 then some (.refit (Opnd.ofByte a) (c.setWidth 3)) else none
  | 4 => some (.sfence (Opnd.ofByte a) (Opnd.ofByte b))
  | 5 => if a.toNat < 8 then some (.sready (predOf a) (Opnd.ofByte b) (Opnd.ofByte c)) else none
  | 6 => some (.genpin (Opnd.ofByte b) (Opnd.ofByte c))
  | 7 => some (.genunpin (Opnd.ofByte b) (Opnd.ofByte c))
  | 8 => some (.march (Opnd.ofByte a) (Opnd.ofByte b) (Opnd.ofByte c))
  | 9 => some (.mloc (Opnd.ofByte a) (Opnd.ofByte b) (Opnd.ofByte c))
  | 10 => some (.sample (Opnd.ofByte a) (Opnd.ofByte b) (Opnd.ofByte c))
  | 11 => if c.toNat < 4 then some (.gridset (Opnd.ofByte a) (c.setWidth 2)) else none
  | 12 => if c.toNat < 8 then some (.compact (Opnd.ofByte a) (c.setWidth 3)) else none
  | _ => none

/-- The instructions of opcodes 0xE0 to 0xEF, by the opcode's low four bits `lo` and the fields A, B and C
(R48 to R56). -/
def decodeE (lo : Nat) (a b c : Byte) : Option Instr :=
  match lo with
  | 0 => if a.toNat < 8 ∧ c = 0#8 then some (.launch (predOf a) (Opnd.ofByte b)) else none
  | 1 => some (.nodeq (Opnd.ofByte a) (Opnd.ofByte b) (c))
  | 2 => some (.binflush (Opnd.ofByte b))
  | 3 => if c = 0#8 then some (.qsigAdd (Opnd.ofByte b)) else if c = 1#8 then some (.qsigMax (Opnd.ofByte b)) else if c = 2#8 then some (.qsigNotify (Opnd.ofByte b)) else none
  | _ => none

/-- The instructions of opcodes 0xF0 to 0xFF, by the opcode's low four bits `lo` and the fields A, B and C
(R48 to R56). -/
def decodeF (lo : Nat) (a b c : Byte) : Option Instr :=
  match lo with
  | 0 => some (.csrr (Opnd.ofByte a) (b ++ c))
  | 1 => some (.csrw (Opnd.ofByte a) (b ++ c))
  | 2 => if c.toNat < 2 then some (.savec (Opnd.ofByte a) (c.setWidth 1)) else none
  | 3 => if c = 0#8 then some (.restc (Opnd.ofByte a)) else none
  | 4 => if c = 0#8 then some (.dbglogSelect (Opnd.ofByte b)) else if c = 1#8 then some (.dbglogDiscard (Opnd.ofByte b)) else if c = 2#8 then some (.dbglogWrite (Opnd.ofByte b)) else none
  | 5 => some (.undo (c))
  | 6 => some (.asgen (Opnd.ofByte b))
  | 7 => if c.toNat < 4 then some (.evwait (Opnd.ofByte a) (c.setWidth 2)) else none
  | _ => none

/-- The instruction that an opcode and the fields A, B and C encode, or none (R48 to R56). -/
def decodeFields (op a b c : Byte) : Option Instr :=
  let lo := op.toNat % 16
  match op.toNat / 16 with
  | 0 => decode0 lo a b c
  | 1 => decode1 lo a b c
  | 2 => decode2 lo a b c
  | 3 => decode3 lo a b c
  | 4 => decode4 lo a b c
  | 5 => decode5 lo a b c
  | 6 => decode6 lo a b c
  | 7 => decode7 lo a b c
  | 8 => decode8 lo a b c
  | 9 => decode9 lo a b c
  | 10 => decodeA lo a b c
  | 11 => decodeB lo a b c
  | 12 => decodeC lo a b c
  | 13 => decodeD lo a b c
  | 14 => decodeE lo a b c
  | 15 => decodeF lo a b c
  | _ => none

/-- The unassigned opcodes (R57). -/
def opcodeUnassigned (op : Byte) : Bool :=
  let n := op.toNat
  (0x18 ≤ n && n ≤ 0x1F) || (0x45 ≤ n && n ≤ 0x4F) || (0x6C ≤ n && n ≤ 0x6F) || (0x88 ≤ n && n ≤ 0x8F)
    || n == 0xAF || n == 0xB7 || (0xBD ≤ n && n ≤ 0xBF) || (0xCD ≤ n && n ≤ 0xCF) || (0xDD ≤ n && n ≤ 0xDF)
    || (0xE4 ≤ n && n ≤ 0xEF) || 0xF8 ≤ n

/-- The opcode of an instruction word, bits [31:24] (R36). -/
def opcodeOf (w : Word) : Byte := w.extractLsb' 24 8
/-- Field A, bits [23:16] (R36). -/
def fieldA (w : Word) : Byte := w.extractLsb' 16 8
/-- Field B, bits [15:8] (R36). -/
def fieldB (w : Word) : Byte := w.extractLsb' 8 8
/-- Field C, bits [7:0] (R36). -/
def fieldC (w : Word) : Byte := w.extractLsb' 0 8

/-- The step that an instruction word stands for: total on every word (R36, R57, R59). -/
def decode (w : Word) : Instr :=
  match decodeFields (opcodeOf w) (fieldA w) (fieldB w) (fieldC w) with
  | some i => i
  | none => if opcodeUnassigned (opcodeOf w) then .unassignedOpcode w else .reservedFieldWord w

/-- The opcode and fields A, B and C of a step that has an instruction word (R36, R48 to R56); ignored fields are
written 0, as `uzord` writes them (R37). None for a step without a word. -/
def encodeFields : Instr → Option (Byte × Byte × Byte × Byte)
  | .nop => some (0x00#8, 0#8, 0#8, 0#8)
  | .bra i => some (0x01#8, top8 i, mid8 i, low8 i)
  | .brc p i => some (0x02#8, p.toByte, hi8 i, lo8 i)
  | .dbnz a i => some (0x11#8, a.toByte, hi8 i, lo8 i)
  | .brx b => some (0x03#8, 0#8, b.toByte, 0#8)
  | .call i => some (0x04#8, top8 i, mid8 i, low8 i)
  | .callx b => some (0x05#8, 0#8, b.toByte, 0#8)
  | .ret => some (0x06#8, 0#8, 0#8, 0#8)
  | .exit => some (0x07#8, 0#8, 0#8, 0#8)
  | .yield => some (0x08#8, 0#8, 0#8, 0#8)
  | .mode i => some (0x09#8, top8 i, mid8 i, low8 i)
  | .modex a b m => some (0x0A#8, a.toByte, b.toByte, m)
  | .lit a i => some (0x0B#8, a.toByte, hi8 i, lo8 i)
  | .lith a i => some (0x0C#8, a.toByte, hi8 i, lo8 i)
  | .waitc l s c t => some (0x0D#8, top8 (t ++ c ++ s ++ l), mid8 (t ++ c ++ s ++ l), low8 (t ++ c ++ s ++ l))
  | .waitf f => some (0x0E#8, top8 (f.setWidth 24), mid8 (f.setWidth 24), low8 (f.setWidth 24))
  | .trap i => some (0x0F#8, top8 i, mid8 i, low8 i)
  | .bkpt i => some (0x10#8, top8 i, mid8 i, low8 i)
  | .regroup a p k => some (0x12#8, a.toByte, p.toByte, k.setWidth 8)
  | .qfill => some (0x13#8, 0#8, 0#8, 0#8)
  | .demote => some (0x14#8, 0#8, 0#8, 0#8)
  | .sleep n => some (0x15#8, top8 n, mid8 n, low8 n)
  | .trapret => some (0x16#8, 0#8, 0#8, 0#8)
  | .halt => some (0x17#8, 0#8, 0#8, 0#8)
  | .add a b c => some (0x20#8, a.toByte, b.toByte, c.toByte)
  | .sub a b c => some (0x21#8, a.toByte, b.toByte, c.toByte)
  | .mul a b c => some (0x22#8, a.toByte, b.toByte, c.toByte)
  | .mad a b c => some (0x23#8, a.toByte, b.toByte, c.toByte)
  | .msb a b c => some (0x24#8, a.toByte, b.toByte, c.toByte)
  | .nmad a b c => some (0x25#8, a.toByte, b.toByte, c.toByte)
  | .nmsb a b c => some (0x26#8, a.toByte, b.toByte, c.toByte)
  | .min a b c => some (0x27#8, a.toByte, b.toByte, c.toByte)
  | .max a b c => some (0x28#8, a.toByte, b.toByte, c.toByte)
  | .abs a b => some (0x29#8, a.toByte, b.toByte, 0#8)
  | .neg a b => some (0x2A#8, a.toByte, b.toByte, 0#8)
  | .div a b c => some (0x2B#8, a.toByte, b.toByte, c.toByte)
  | .sqrt a b => some (0x2C#8, a.toByte, b.toByte, 0#8)
  | .rcp a b => some (0x2D#8, a.toByte, b.toByte, 0#8)
  | .rsq a b => some (0x2E#8, a.toByte, b.toByte, 0#8)
  | .exp2 a b => some (0x2F#8, a.toByte, b.toByte, 0#8)
  | .log2 a b => some (0x30#8, a.toByte, b.toByte, 0#8)
  | .sin a b => some (0x31#8, a.toByte, b.toByte, 0#8)
  | .cos a b => some (0x32#8, a.toByte, b.toByte, 0#8)
  | .dot2 a b c => some (0x33#8, a.toByte, b.toByte, c.toByte)
  | .dot4 a b c => some (0x34#8, a.toByte, b.toByte, c.toByte)
  | .lerp a b c => some (0x35#8, a.toByte, b.toByte, c.toByte)
  | .clamp a b c => some (0x36#8, a.toByte, b.toByte, c.toByte)
  | .frac a b => some (0x37#8, a.toByte, b.toByte, 0#8)
  | .roundi a b => some (0x38#8, a.toByte, b.toByte, 0#8)
  | .cvt a b t => some (0x39#8, a.toByte, b.toByte, t.setWidth 8)
  | .sat a b => some (0x3A#8, a.toByte, b.toByte, 0#8)
  | .scale a b c => some (0x3B#8, a.toByte, b.toByte, c.toByte)
  | .cmp k b c => some (0x3C#8, k.toByte, b.toByte, c.toByte)
  | .cmps a b c => some (0x3D#8, a.toByte, b.toByte, c.toByte)
  | .sel a b c => some (0x3E#8, a.toByte, b.toByte, c.toByte)
  | .classT a b => some (0x3F#8, a.toByte, b.toByte, 0#8)
  | .chopen n => some (0x40#8, top8 (n.setWidth 24), mid8 (n.setWidth 24), low8 (n.setWidth 24))
  | .chdec k b c => some (0x41#8, k.toByte, b.toByte, c.toByte)
  | .chclose a => some (0x42#8, a.toByte, 0xFB#8, 0#8)
  | .chcancel p => some (0x43#8, p.toByte, 0#8, 0#8)
  | .chstat a n => some (0x44#8, a.toByte, 0#8, n.setWidth 8)
  | .and a b c => some (0x50#8, a.toByte, b.toByte, c.toByte)
  | .or a b c => some (0x51#8, a.toByte, b.toByte, c.toByte)
  | .xor a b c => some (0x52#8, a.toByte, b.toByte, c.toByte)
  | .not a b => some (0x53#8, a.toByte, b.toByte, 0#8)
  | .andn a b c => some (0x54#8, a.toByte, b.toByte, c.toByte)
  | .shl a b c => some (0x55#8, a.toByte, b.toByte, c.toByte)
  | .shr a b c => some (0x56#8, a.toByte, b.toByte, c.toByte)
  | .sar a b c => some (0x57#8, a.toByte, b.toByte, c.toByte)
  | .rol a b c => some (0x58#8, a.toByte, b.toByte, c.toByte)
  | .popc a b => some (0x59#8, a.toByte, b.toByte, 0#8)
  | .clz a b => some (0x5A#8, a.toByte, b.toByte, 0#8)
  | .ctz a b => some (0x5B#8, a.toByte, b.toByte, 0#8)
  | .brev a b => some (0x5C#8, a.toByte, b.toByte, 0#8)
  | .bfe a b c => some (0x5D#8, a.toByte, b.toByte, c.toByte)
  | .bfi a b c => some (0x5E#8, a.toByte, b.toByte, c.toByte)
  | .prmt a b s => some (0x5F#8, a.toByte, b.toByte, s)
  | .imulh a b c => some (0x60#8, a.toByte, b.toByte, c.toByte)
  | .lea a b s => some (0x61#8, a.toByte, b.toByte, s.setWidth 8)
  | .addc a b c => some (0x62#8, a.toByte, b.toByte, c.toByte)
  | .subb a b c => some (0x63#8, a.toByte, b.toByte, c.toByte)
  | .movpPack a => some (0x64#8, a.toByte, 0#8, 0#8)
  | .movpUnpack b => some (0x64#8, 0#8, b.toByte, 1#8)
  | .pand p q r => some (0x65#8, predByte p, q.toByte, r.toByte)
  | .por p q r => some (0x66#8, predByte p, q.toByte, r.toByte)
  | .pxor p q r => some (0x67#8, predByte p, q.toByte, r.toByte)
  | .pnot p q => some (0x68#8, predByte p, q.toByte, 0#8)
  | .pset p v => some (0x69#8, predByte p, 0#8, v.setWidth 8)
  | .isetp k b c => some (0x6A#8, k.toByte, b.toByte, c.toByte)
  | .bmin a b c => some (0x6B#8, a.toByte, b.toByte, c.toByte)
  | .mov a b => some (0x70#8, a.toByte, b.toByte, 0#8)
  | .movs a b t => some (0x71#8, a.toByte, b.toByte, t.setWidth 8)
  | .movb a b => some (0x72#8, a.toByte, b.toByte, 0#8)
  | .blease f => some (0x73#8, 0#8, 0#8, f.setWidth 8)
  | .shfl a b c => some (0x74#8, a.toByte, b.toByte, c.toByte)
  | .shflx a b m => some (0x75#8, a.toByte, b.toByte, m.setWidth 8)
  | .shflup a b m => some (0x76#8, a.toByte, b.toByte, m.setWidth 8)
  | .shfldn a b m => some (0x77#8, a.toByte, b.toByte, m.setWidth 8)
  | .qswx a b => some (0x78#8, a.toByte, b.toByte, 0#8)
  | .qswy a b => some (0x79#8, a.toByte, b.toByte, 0#8)
  | .qswd a b => some (0x7A#8, a.toByte, b.toByte, 0#8)
  | .qbcast a b q => some (0x7B#8, a.toByte, b.toByte, q.setWidth 8)
  | .ddx a b => some (0x7C#8, a.toByte, b.toByte, 0#8)
  | .ddy a b => some (0x7D#8, a.toByte, b.toByte, 0#8)
  | .vote a p k => some (0x7E#8, a.toByte, p.toByte, k.setWidth 8)
  | .matchT a b => some (0x7F#8, a.toByte, b.toByte, 0#8)
  | .scanf a b o => some (0x80#8, a.toByte, b.toByte, o.setWidth 8)
  | .redf a b o => some (0x81#8, a.toByte, b.toByte, o.setWidth 8)
  | .voterk a p k => some (0x82#8, a.toByte, p.toByte, k.setWidth 8)
  | .getsr a i => some (0x83#8, a.toByte, hi8 i, lo8 i)
  | .setsr a i => some (0x84#8, a.toByte, hi8 i, lo8 i)
  | .time a b => some (0x85#8, a.toByte, b.toByte, 0#8)
  | .dieq a b c => some (0x86#8, a.toByte, b.toByte, c.toByte)
  | .capq a q => some (0x87#8, a.toByte, 0#8, q)
  | .ld a b o => some (0x90#8, a.toByte, b.toByte, o)
  | .ld2 a b o => some (0x91#8, a.toByte, b.toByte, o)
  | .ld4 a b o => some (0x92#8, a.toByte, b.toByte, o)
  | .ldb a b o => some (0x93#8, a.toByte, b.toByte, o)
  | .ldb4 a b o => some (0x94#8, a.toByte, b.toByte, o)
  | .lda a b o => some (0x95#8, a.toByte, b.toByte, o)
  | .st a b o => some (0x96#8, a.toByte, b.toByte, o)
  | .st2 a b o => some (0x97#8, a.toByte, b.toByte, o)
  | .st4 a b o => some (0x98#8, a.toByte, b.toByte, o)
  | .stl a b o => some (0x99#8, a.toByte, b.toByte, o)
  | .lds a b o => some (0x9A#8, a.toByte, b.toByte, o)
  | .lds4 a b o => some (0x9B#8, a.toByte, b.toByte, o)
  | .sts a b o => some (0x9C#8, a.toByte, b.toByte, o)
  | .sts4 a b o => some (0x9D#8, a.toByte, b.toByte, o)
  | .ldc a b o => some (0x9E#8, a.toByte, b.toByte, o)
  | .pref b o => some (0x9F#8, 0#8, b.toByte, o)
  | .aadd a b c => some (0xA0#8, a.toByte, b.toByte, c.toByte)
  | .amin a b c => some (0xA1#8, a.toByte, b.toByte, c.toByte)
  | .amax a b c => some (0xA2#8, a.toByte, b.toByte, c.toByte)
  | .aand a b c => some (0xA3#8, a.toByte, b.toByte, c.toByte)
  | .aor a b c => some (0xA4#8, a.toByte, b.toByte, c.toByte)
  | .axor a b c => some (0xA5#8, a.toByte, b.toByte, c.toByte)
  | .axch a b c => some (0xA6#8, a.toByte, b.toByte, c.toByte)
  | .acas a b c => some (0xA7#8, a.toByte, b.toByte, c.toByte)
  | .ainc a b c => some (0xA8#8, a.toByte, b.toByte, c.toByte)
  | .afadd a b c => some (0xA9#8, a.toByte, b.toByte, c.toByte)
  | .fence k s => some (0xAA#8, top8 ((k ++ s).setWidth 24), mid8 ((k ++ s).setWidth 24), low8 ((k ++ s).setWidth 24))
  | .gather a b c => some (0xAB#8, a.toByte, b.toByte, c.toByte)
  | .gather4 a b c => some (0xAC#8, a.toByte, b.toByte, c.toByte)
  | .scatter a b c => some (0xAD#8, a.toByte, b.toByte, c.toByte)
  | .scatadd a b c => some (0xAE#8, a.toByte, b.toByte, c.toByte)
  | .binit a b n => some (0xB0#8, a.toByte, b.toByte, n)
  | .barr n => some (0xB1#8, 0#8, 0#8, n)
  | .bexp a n => some (0xB2#8, a.toByte, 0#8, n)
  | .bwait n => some (0xB3#8, 0#8, 0#8, n)
  | .btry p n => some (0xB4#8, predByte p, 0#8, n)
  | .bsync n => some (0xB5#8, 0#8, 0#8, n)
  | .bring n => some (0xB6#8, 0#8, 0#8, n)
  | .sluice a b k => some (0xB8#8, a.toByte, b.toByte, k.setWidth 8)
  | .slstat a k => some (0xB9#8, a.toByte, 0#8, k.setWidth 8)
  | .slkill k => some (0xBA#8, 0#8, 0#8, k.setWidth 8)
  | .coll a k => some (0xBB#8, a.toByte, 0#8, k.setWidth 8)
  | .cpys a b c => some (0xBC#8, a.toByte, b.toByte, c.toByte)
  | .osclaim p n => some (0xC0#8, predByte p, 0#8, n.setWidth 8)
  | .osrel n => some (0xC1#8, 0#8, 0#8, n.setWidth 8)
  | .osload a n => some (0xC2#8, a.toByte, 0#8, n.setWidth 8)
  | .mfmt a n => some (0xC3#8, a.toByte, 0#8, n.setWidth 8)
  | .mloop a b n => some (0xC4#8, a.toByte, b.toByte, n.setWidth 8)
  | .msparse a b n => some (0xC5#8, a.toByte, b.toByte, n.setWidth 8)
  | .mgust a b n => some (0xC6#8, a.toByte, b.toByte, n.setWidth 8)
  | .mdrain a b n => some (0xC7#8, a.toByte, b.toByte, n.setWidth 8)
  | .mzero b n => some (0xC8#8, 0#8, b.toByte, n.setWidth 8)
  | .mver a n => some (0xC9#8, a.toByte, 0#8, n.setWidth 8)
  | .mwait b n => some (0xCA#8, 0#8, b.toByte, n.setWidth 8)
  | .mstep a n => some (0xCB#8, a.toByte, 0#8, n.setWidth 8)
  | .mcbook a t => some (0xCC#8, a.toByte, 0#8, t.setWidth 8)
  | .trace a b c => some (0xD0#8, a.toByte, b.toByte, c.toByte)
  | .tracea a b c => some (0xD1#8, a.toByte, b.toByte, c.toByte)
  | .build a k => some (0xD2#8, a.toByte, 0#8, k.setWidth 8)
  | .refit a k => some (0xD3#8, a.toByte, 0#8, k.setWidth 8)
  | .sfence a b => some (0xD4#8, a.toByte, b.toByte, 0#8)
  | .sready p b c => some (0xD5#8, predByte p, b.toByte, c.toByte)
  | .genpin b c => some (0xD6#8, 0#8, b.toByte, c.toByte)
  | .genunpin b c => some (0xD7#8, 0#8, b.toByte, c.toByte)
  | .march a b c => some (0xD8#8, a.toByte, b.toByte, c.toByte)
  | .mloc a b c => some (0xD9#8, a.toByte, b.toByte, c.toByte)
  | .sample a b c => some (0xDA#8, a.toByte, b.toByte, c.toByte)
  | .gridset a n => some (0xDB#8, a.toByte, 0#8, n.setWidth 8)
  | .compact a k => some (0xDC#8, a.toByte, 0#8, k.setWidth 8)
  | .launch p b => some (0xE0#8, predByte p, b.toByte, 0#8)
  | .nodeq a b q => some (0xE1#8, a.toByte, b.toByte, q)
  | .binflush b => some (0xE2#8, 0#8, b.toByte, 0#8)
  | .qsigAdd b => some (0xE3#8, 0#8, b.toByte, 0#8)
  | .qsigMax b => some (0xE3#8, 0#8, b.toByte, 1#8)
  | .qsigNotify b => some (0xE3#8, 0#8, b.toByte, 2#8)
  | .csrr a i => some (0xF0#8, a.toByte, hi8 i, lo8 i)
  | .csrw a i => some (0xF1#8, a.toByte, hi8 i, lo8 i)
  | .savec a e => some (0xF2#8, a.toByte, 0#8, e.setWidth 8)
  | .restc a => some (0xF3#8, a.toByte, 0#8, 0#8)
  | .dbglogSelect b => some (0xF4#8, 0#8, b.toByte, 0#8)
  | .dbglogDiscard b => some (0xF4#8, 0#8, b.toByte, 1#8)
  | .dbglogWrite b => some (0xF4#8, 0#8, b.toByte, 2#8)
  | .undo n => some (0xF5#8, 0#8, 0#8, n)
  | .asgen b => some (0xF6#8, 0#8, b.toByte, 0#8)
  | .evwait a k => some (0xF7#8, a.toByte, 0#8, k.setWidth 8)
  | .rejoinMerge .. => none
  | .sleepExpiry .. => none
  | .voterkRoundComplete .. => none
  | .regroupRoundComplete .. => none
  | .chdecDecide .. => none
  | .chainDrainComplete .. => none
  | .loadDataReturn .. => none
  | .storeAccept .. => none
  | .atomicPerform .. => none
  | .culvertFlitAccept .. => none
  | .gatherWindowTimeout .. => none
  | .polderRetire .. => none
  | .sluiceRecordTake .. => none
  | .sluiceRecordComplete .. => none
  | .sluiceKillStop .. => none
  | .cpysComplete .. => none
  | .collMatch .. => none
  | .collComplete .. => none
  | .slotLoadComplete .. => none
  | .matrixOpStart .. => none
  | .matrixBlockCommit .. => none
  | .matrixOpComplete .. => none
  | .jobStart .. => none
  | .fenceReady .. => none
  | .jobEnd .. => none
  | .reclaim .. => none
  | .rayComplete .. => none
  | .marchUnitThreadEnd .. => none
  | .asgenDrainComplete .. => none
  | .skidStop .. => none
  | .trapDelivery .. => none
  | .polderStopComplete .. => none
  | .restorePlace .. => none
  | .packetFetch .. => none
  | .packetSelect .. => none
  | .ringPlace .. => none
  | .inletCoreStart .. => none
  | .packetComplete .. => none
  | .tailChildStart .. => none
  | .eventPacketWrite .. => none
  | .inletCoreInstruction .. => none
  | .codebookTableWritten .. => none
  | .gridLatchWritten .. => none
  | .rejoinHoldExpiry .. => none
  | .candidateUrgent .. => none
  | .softErrorCorrected .. => none
  | .softErrorUncorrectable .. => none
  | .sluiceOwnPoll .. => none
  | .collTimeout .. => none
  | .rayParkRecheck .. => none
  | .engineFaultRetry .. => none
  | .doorbell .. => none
  | .workGraphRecordClose .. => none
  | .binTimerExpiry .. => none
  | .spillwayPlace .. => none
  | .spillwayTimerExpiry .. => none
  | .mailboxPacketClose .. => none
  | .inletCoreException .. => none
  | .slgoWrite .. => none
  | .slklWrite .. => none
  | .mbpopWrite .. => none
  | .timeloRead .. => none
  | .hostWrite .. => none
  | .hostRead .. => none
  | .hostRequestTimeout .. => none
  | .ctxact .. => none
  | .ctxfree .. => none
  | .qbindBind .. => none
  | .qbindUnbind .. => none
  | .asgenCommand .. => none
  | .faultend .. => none
  | .haltend .. => none
  | .diereset .. => none
  | .commandComplete .. => none
  | .tsloRead .. => none
  | .nrheadWrite .. => none
  | .ctxbaseWrite .. => none
  | .pwrcapWrite .. => none
  | .registerWrite .. => none
  | .notificationWrite .. => none
  | .quotaWrite .. => none
  | .ctxholdHold .. => none
  | .ctxholdRelease .. => none
  | .csrQbindBind .. => none
  | .csrQbindUnbind .. => none
  | .dbgctlWrite .. => none
  | .dbghaltHalt .. => none
  | .dbghaltResume .. => none
  | .linkFlitRetry .. => none
  | .linkRetrainStart .. => none
  | .linkRetrainEnd .. => none
  | .linkTrainFailure .. => none
  | .dieReset .. => none
  | .dieResetDone .. => none
  | .packageReset .. => none
  | .mctpControl .. => none
  | .spdmGetMeasurements .. => none
  | .spdmMessage .. => none
  | .telemetryRead .. => none
  | .setPowerCap .. => none
  | .sidebandDieReset .. => none
  | .sidebandPackageReset .. => none
  | .recoveryImageLoad .. => none
  | .raiseMinVersion .. => none
  | .powerWindow .. => none
  | .thermalThrottle .. => none
  | .thermalDieReset .. => none
  | .hostPortDown .. => none
  | .hostPortTrained .. => none
  | .thermalThrottleEnd .. => none
  | .powerLoss .. => none
  | .unassignedOpcode w => some (w.extractLsb' 24 8, w.extractLsb' 16 8, w.extractLsb' 8 8, w.extractLsb' 0 8)
  | .reservedFieldWord w => some (w.extractLsb' 24 8, w.extractLsb' 16 8, w.extractLsb' 8 8, w.extractLsb' 0 8)

/-- The instruction word of a step that has one. -/
def encode (i : Instr) : Option Word :=
  (encodeFields i).map fun (op, a, b, c) => op ++ a ++ b ++ c

/-- Why a byte list is no instruction word. -/
inductive DecodeError where
  /-- Fewer than the four bytes of an instruction word (R23). -/
  | tooShort
  deriving DecidableEq, Repr

/-- Four bytes in memory order as one little-endian word (R3, R23). -/
def wordOfBytes (b0 b1 b2 b3 : Byte) : Word := b3 ++ b2 ++ b1 ++ b0

/-- Byte k of a word in memory order (R3). -/
def byteOfWord (w : Word) (k : Nat) : Byte := w.extractLsb' (8 * k) 8

/-- The step that the first four bytes of a list encode, with the rest of the list; a shorter list is rejected by
name. -/
def decodeBytes : List Byte → Except DecodeError (Instr × List Byte)
  | b0 :: b1 :: b2 :: b3 :: rest => .ok (decode (wordOfBytes b0 b1 b2 b3), rest)
  | _ => .error .tooShort

/-- The instruction this decoder reads from an instruction whose bits are `w`, numbered as spec/opcode_table.json
numbers them: a VZ940 instruction is one 32-bit word, stored little-endian (R23). -/
def decodeTableWord (nbits w : Nat) : Option Instr :=
  if nbits = 32 then
    let x : Word := BitVec.ofNat 32 w
    match decodeBytes [byteOfWord x 0, byteOfWord x 1, byteOfWord x 2, byteOfWord x 3] with
    | .ok (i, _) => some i
    | .error _ => none
  else none

end Sys2Proof
end

