-- ==== Sys2Proof/Config.lean ====
section
/-! DEFINITION. What an implementation fixes and the manual leaves open: the free values. An `opaque` constant
has no body here, so no proof can depend on its value; `State.free` supplies a fresh index (log 1). -/
namespace Sys2Proof.Config

/-- The n-th free natural number: a choice that the manual calls unpredictable or leaves open (R1). -/
opaque freeNat : Nat → Nat

/-- The n-th free 32-bit value. -/
opaque freeWord : Nat → Word

/-- The n-th free byte. -/
opaque freeByte : Nat → Byte

/-- The n-th free truth value. -/
opaque freeBool : Nat → Bool

/-- The die that a 2 KiB granule of device memory is homed on for the host's requests: only the page that maps an address gives it a
home, and the host's have none (R191, R220; log 47). -/
opaque hostHome : Nat → Nat

/-- Beats that pass in the n-th step (R2: latencies are not fixed; many units move in one beat). -/
opaque extraBeats : Nat → Nat

/-- The correctly rounded value's neighbour choice of a transcendental whose enclosure the model's working
precision does not separate (R83); index is the operand word (log 7). -/
opaque transSelect : Nat → Bool

/-- The residual format tag IMPL of chain records (R119). -/
opaque chainImplTag : Word

/-- TSUB codes that name the cause of BARERR and STRUCT traps: the manual says that the record names the cause and states no
numbers (R235, R311, R375; log 13). -/
opaque trapSub : Nat → Byte

/-- A free signature and hash verdict: whether a firmware image passes the SHAKE256 and Falcon-1024 checks of
R414 (the manual names the algorithms and does not give them; log 9). -/
opaque imageAuthentic : List Byte → List Byte → Bool

/-- The firmware image, header and body, that the flash holds when the package is made (R414; log 5). -/
opaque factoryImage : List Byte

/-- The enabled-core map that the fuses hold (R412; log 5). -/
opaque fuseCoreMap : List Byte

/-- SHAKE256 taken at 64 bytes, of a byte list (R415; log 9). -/
opaque shake256 : List Byte → List Byte

/-- The secret in the fuses that the device's keys are derived from (R415; log 9). -/
opaque fuseSecret : List Byte

/-- The device key that a fused secret gives (R415; log 9). -/
opaque deviceKey : List Byte → List Byte

/-- The alias key that a fused secret and measurement 1 give (R415; log 9). -/
opaque aliasKey : List Byte → List Byte → List Byte

/-- The vendor's root certificate, the first of slot 0 (R415; log 9). -/
opaque vendorRoot : List Byte

/-- The device certificate of a device key, the second of slot 0 (R415; log 9). -/
opaque deviceCert : List Byte → List Byte

/-- The alias certificate that a device key issues for an alias key, the third of slot 0 (R415; log 9). -/
opaque aliasCert : List Byte → List Byte → List Byte

/-- The answer to an SPDM request, signed with the alias key, of a device whose slot 0 holds a certificate chain (R411, R415; log 9). -/
opaque signedReply : List Byte → List (List Byte) → List Byte → List Byte

/-- The answer to an MCTP control message (R409; log 9). -/
opaque mctpReply : List Byte → List Byte

/-- The digest of the vendor key held in the fuses (R414; log 9). -/
opaque fuseKeyDigest : List Byte

/-- The 16-bit draw of a stochastic rounding, `draw_16()` of R75, indexed by the model's free counter and the
position of the draw (R76). -/
opaque draw16 : Nat → Nat

/-- Bits that a stream of 8-bit floats keeps beyond four: the manual gives Q for the wider types only (R77, log 17). -/
opaque streamBits8 : Nat

/-- Power and temperature readings of the telemetry message (R409): the manual states none. -/
opaque telemetry : Nat → Byte

end Sys2Proof.Config
end

