-- ==== Sys2Proof/Machine/Bits.lean ====
section
/-! DEFINITION. Byte-order, bit-field and list helpers (spec/00_scope.md R3), and the canonical sparse maps that
memories are kept in. -/
namespace Sys2Proof.Machine

/-- Bits [lo + w - 1 : lo] of a number. -/
def bits (x lo w : Nat) : Nat := x / 2 ^ lo % 2 ^ w

/-- Bit i of a number. -/
def bit (x i : Nat) : Bool := x.testBit i

/-- The least multiple of `m` that is not below `x` (m > 0). -/
def roundUp (x m : Nat) : Nat := (x + m - 1) / m * m

/-- A number read from bits in two's complement of width `w`. -/
def signed (w x : Nat) : Int := if 2 ^ (w - 1) ≤ x % 2 ^ w then (x % 2 ^ w : Int) - 2 ^ w else (x % 2 ^ w : Int)

/-- The `w` low bits of an integer in two's complement. -/
def wrap (w : Nat) (x : Int) : Nat := (x % (2 ^ w : Int)).toNat

/-- Little-endian bytes as a number (R3). -/
def leNat : List Byte → Nat
  | [] => 0
  | b :: bs => b.toNat + 256 * leNat bs

/-- The n low bytes of a number, little-endian (R3). -/
def leBytes : Nat → Nat → List Byte
  | 0, _ => []
  | n + 1, x => BitVec.ofNat 8 (x % 256) :: leBytes n (x / 256)

/-- Bits [lo + w - 1 : lo] of a little-endian record (R3). -/
def field (r : List Byte) (lo w : Nat) : Nat :=
  bits (leNat ((r.drop (lo / 8)).take ((lo % 8 + w + 7) / 8))) (lo % 8) w

/-- One flag bit of a little-endian record. -/
def flag (r : List Byte) (i : Nat) : Bool := field r i 1 == 1

/-- The 32-bit word at byte offset `o` of a record. -/
def wordAt (r : List Byte) (o : Nat) : Word := BitVec.ofNat 32 (field r (8 * o) 32)

/-- The bytes of a word in memory order. -/
def wordBytes (w : Word) : List Byte := leBytes 4 w.toNat

/-- The bytes of a list of words in memory order. -/
def wordsBytes : List Word → List Byte
  | [] => []
  | w :: ws => wordBytes w ++ wordsBytes ws

/-- The words of a byte list whose length is a multiple of 4: the first n of them. -/
def bytesWords : Nat → List Byte → List Word
  | 0, _ => []
  | n + 1, bs => BitVec.ofNat 32 (leNat (bs.take 4)) :: bytesWords n (bs.drop 4)

/-- A list with element i replaced; unchanged when there is no such element. -/
def setAt {α : Type} : List α → Nat → α → List α
  | [], _, _ => []
  | _ :: xs, 0, y => y :: xs
  | x :: xs, i + 1, y => x :: setAt xs i y

/-- A list with element i passed through f. -/
def modAt {α : Type} : List α → Nat → (α → α) → List α
  | [], _, _ => []
  | x :: xs, 0, f => f x :: xs
  | x :: xs, i + 1, f => x :: modAt xs i f

/-- The bytes of a record with `new` written over it from byte offset `o`. -/
def patch (r : List Byte) (o : Nat) (new : List Byte) : List Byte :=
  r.take o ++ new ++ r.drop (o + new.length)

/-- A mask with the bits for which f holds. -/
def maskOf (f : Nat → Bool) : Mask :=
  BitVec.ofNat 16 ((List.range 16).foldl (fun a t => if f t then a + 2 ^ t else a) 0)

/-- The set threads of a mask, ascending. -/
def threadsOf (m : Mask) : List Nat := (List.range 16).filter m.getLsbD

/-- The number of set bits. -/
def popcount (w x : Nat) : Nat := ((List.range w).filter (bit x)).length

/-- Sparse maps: (key, value) pairs with keys strictly rising and no value equal to the default `d`. -/
abbrev SMap (α : Type) := List (Nat × α)

/-- The value of a key: `d` when unlisted. -/
def SMap.get {α : Type} (d : α) : SMap α → Nat → α
  | [], _ => d
  | (k, v) :: m, a => if k = a then v else if a < k then d else SMap.get d m a

/-- A value stored under a key; storing the default removes the entry. -/
def SMap.set {α : Type} [DecidableEq α] (d : α) : SMap α → Nat → α → SMap α
  | [], a, x => if x = d then [] else [(a, x)]
  | (k, v) :: m, a, x =>
    if k = a then (if x = d then m else (a, x) :: m)
    else if a < k then (if x = d then (k, v) :: m else (a, x) :: (k, v) :: m)
    else (k, v) :: SMap.set d m a x

/-- Keys strictly rising from `lo` and no default listed. -/
def SMap.wfFrom {α : Type} [DecidableEq α] (d : α) : Nat → SMap α → Bool
  | _, [] => true
  | lo, (k, v) :: m => decide (lo ≤ k) && !decide (v = d) && SMap.wfFrom d (k + 1) m

/-- The canonical form of a sparse map. -/
def SMap.wf {α : Type} [DecidableEq α] (d : α) (m : SMap α) : Bool := SMap.wfFrom d 0 m

/-- A memory: (address, byte) cells in canonical form. An unlisted address reads 0, the initial content of device
memory (R412). -/
abbrev Memory := List Host.Cell

/-- The byte at an address. -/
def Memory.read (m : Memory) (a : Nat) : Byte := SMap.get (0 : Byte) m a

/-- A byte stored at an address. -/
def Memory.write (m : Memory) (a : Nat) (b : Byte) : Memory := SMap.set (0 : Byte) m a b

/-- The canonical form of a memory: addresses strictly rising and no byte 0 listed. -/
def Memory.wf (m : Memory) : Bool := SMap.wf (0 : Byte) m

/-- n bytes from an address on. -/
def Memory.readN (m : Memory) (a : Nat) : Nat → List Byte
  | 0 => []
  | n + 1 => m.read a :: Memory.readN m (a + 1) n

/-- Bytes stored from an address on. -/
def Memory.writeN (m : Memory) (a : Nat) : List Byte → Memory
  | [] => m
  | b :: bs => Memory.writeN (m.write a b) (a + 1) bs

/-- A list with an element put at the position its key has, replacing one of equal key. -/
def insertKey {α : Type} (key : α → Nat) (x : α) : List α → List α
  | [] => [x]
  | y :: ys => if key y = key x then x :: ys else if key x < key y then x :: y :: ys else y :: insertKey key x ys

/-- The element with a key. -/
def findKey {α : Type} (key : α → Nat) (k : Nat) : List α → Option α
  | [] => none
  | y :: ys => if key y = k then some y else findKey key k ys

end Sys2Proof.Machine
end

