-- ==== Sys2Proof/Machine/State.lean ====
section
/-! DEFINITION. The state of the VZ940: everything spec/ gives the machine, as plain data, and the machine right after
reset (R412). Objects that are created while the machine runs (contexts, queues, polders, fascines, chains,
engine work) are lists; at reset there are none. -/
namespace Sys2Proof.Machine

/-- A rational number `num / den`, `den > 0` (R5: arithmetic is exact). -/
structure Q where
  num : Int
  den : Nat
  deriving DecidableEq, Repr

/-- A value of a floating stream or format (R68, R74). `fin` holds a nonzero value; `zero` and `inf` hold the sign
(true: negative). `sub` of a zero is the sticky bit of R84: a nonzero value below 2^-4096. -/
inductive Fv where
  | nan (neg : Bool)
  | inf (neg : Bool)
  | zero (neg : Bool) (stky : Bool)
  | fin (q : Q)
  deriving DecidableEq, Repr

/-- Trap causes (R370). -/
inductive Trap where
  | illinst | illopnd | priv | misalign | page | space | arith | chseq | regcap | lease | diverge | splitov
  | swtrap | bkpt | barerr | slotst | mxdesc | struct | griddesc | qpkt | auxf | halt | poison
  deriving DecidableEq, Repr

/-- The code of a trap, which selects its vector (R370). -/
def Trap.code : Trap → Nat
  | .illinst => 1 | .illopnd => 2 | .priv => 3 | .misalign => 4 | .page => 5 | .space => 6 | .arith => 7
  | .chseq => 8 | .regcap => 9 | .lease => 10 | .diverge => 11 | .splitov => 12 | .swtrap => 13 | .bkpt => 14
  | .barerr => 15 | .slotst => 16 | .mxdesc => 17 | .struct => 18 | .griddesc => 19 | .qpkt => 20 | .auxf => 21
  | .halt => 22 | .poison => 23

/-- What holds a sub-group whose instruction has issued and not yet ended. -/
inductive Hold where
  | none
  | voterk (a : Opnd) (act m : Mask) (k : Nat)      -- R148: active threads, and those for which p holds
  | regroup (a : Opnd) (m : Mask) (k : Nat)         -- R178: active threads for which p holds
  | save (img : Nat) (evict : Bool)                 -- R384
  | restore (id : Nat)                              -- R384
  | asgen (asid gen : Nat)                          -- R398
  | codebook (t : Nat) (bytes : List Byte)          -- R283
  | gridset (n : Nat) (bytes : List Byte)           -- R340
  | bar (b : Nat) (ring : Bool)                     -- R234
  | passed (b : Nat) (ring : Bool) (scope : Nat)    -- a wait at a barrier that has completed; its acquire (R229, R234)
  deriving DecidableEq, Repr

/-- A split-table entry (R158) with its mode register (R43), and what the issue logic keeps for its sub-group. -/
structure SplitEntry where
  pc : Word := 4
  mask : Mask := 0
  park : Mask := 0
  rpc : Word := 0
  rjf : Bool := false
  wj : Bool := false
  val : Bool := false
  mode : BitVec 24 := 0x800067
  sleep : Nat := 0                       -- beats that remain (R174)
  hold : Hold := .none
  entry : Bool := false                  -- the next slot is an entry slot (R28)
  arrived : Bool := false                -- has arrived at this rejoin point (R160)
  passed : Bool := false                 -- the wait mask was sampled clear for this slot (R30)
  relBefore : Nat := 0                   -- release FENCE: operations below this id must be performed first (R215)
  scBefore : Nat := 0                    -- sc FENCE: operations below this id precede every later access (R211)
  acq : Option (Nat × Nat) := none       -- acquire: readers below this id first, then invalidate at the scope (R215)
  since : Nat := 0                       -- beat in which it became eligible, or from which it may (R163, R164)
  elig : Bool := false                   -- it has been seen to be eligible since it last issued (R163)
  waited : Bool := false                 -- it has been seen not to be, since then
  stuck : Bool := false                  -- the wait is its instruction's own: an attempt to issue tells when it ends
  port : Nat := 3                        -- the port of its next instruction, when it is eligible (R14)
  issued : Nat := 0                      -- beat of its last issue (R31)
  urgent : Bool := false                 -- R164
  facq : Bool := false                   -- the acquire is that of a FENCE (R207)
  bpub : List Nat := []                  -- release FENCE: b-register writes that later stores publish (R134, R208)
  bgot : List Nat := []                  -- b-register writes published with what it has read, for an acquire FENCE (R134)
  deriving DecidableEq, Repr

/-- A bound v-register name: its entry's words, live mask and poison bits (R124). -/
structure VBind where
  name : Nat
  live : Mask
  pois : Mask
  words : List Word
  deriving DecidableEq, Repr

/-- The registers and the split table of a fascine: what an undo step restores (R389). -/
structure Regs where
  ents : List SplitEntry := []           -- 4 (R158)
  exmask : Mask := 0                     -- R155
  hmask : Mask := 0                      -- R138
  preds : List (BitVec 8) := []          -- of each thread: p0 to p6 in [6:0] (R123, R380)
  ppois : Mask := 0                      -- predicate poison of each thread (R128)
  vb : List VBind := []                  -- bound v-registers, by rising name (R124)
  s : List Word := []                    -- s0 to s47 (R123)
  spois : List Bool := []                -- R128
  deriving DecidableEq, Repr

/-- Where thread t of a fascine was before a REGROUP moved it: thread u of fascine f, whose operations below `upto` stand before
those it issues now (R180, R205); bounds of the fences and acquires it had issued there. -/
structure Prior where
  t : Nat
  f : Nat
  u : Nat
  upto : Nat
  ep : Nat := 0                          -- the epoch of fascine f in which it was there
  rel : Nat := 0                         -- release FENCE: operations below precede its stores
  sc : Nat := 0                          -- sc FENCE: operations below precede its accesses
  acq : Nat := 0                         -- acquire: readers below precede its accesses
  deriving DecidableEq, Repr

/-- A place that an access reaches after translation (R186, R205). `tgt` is 0 device, 1 host, 2 peer memory (R394). -/
inductive Loc where
  | glob (tgt x home : Nat)
  | spad (off : Nat)
  | culvert (win : Nat) (close : Bool) (pos : Nat)
  deriving DecidableEq, Repr

/-- One thread's access (R197, R198). -/
structure Access where
  t : Nat
  loc : Loc
  data : List Word
  const : Bool := false                  -- through the constant window, which no L1 holds (R189)
  far : Bool := true                     -- the quotas of its page class keep a far copy (R194)
  deriving DecidableEq, Repr

/-- Kinds of memory operations in flight. -/
inductive OpKind where
  | load (l1 skipFar : Bool)                 -- through the L1; past the far copy too (R197)
  | store                                    -- R197, R187
  | atomic (code ety : Nat)                  -- R198
  | copy (d s n gid : Nat)                   -- CPYS (R254), with its place in the order of R218
  | status (tok : Nat)                       -- SLSTAT (R252)
  deriving DecidableEq, Repr

/-- A memory operation that has issued and is not yet performed (R197 to R200). -/
structure MemOp where
  id : Nat
  g : Nat                                -- split-table entry that issued it
  mask : Mask                            -- threads whose program order it stands in
  kind : OpKind
  cntr : Nat                             -- counted in F0, F1 or F2
  dst : Option Opnd := none              -- first destination register
  n : Nat := 1                           -- words per access
  uni : Bool := false                    -- uniform (R41)
  wmask : Mask := 0                      -- threads that take results
  acc : List Access := []
  gen : Nat := 0                         -- generation of its translations (R398)
  after : Nat := 0                       -- operations below this id are performed first (R207, R215)
  gather : Bool := false                 -- passes through the gather collector (R195)
  sent : Bool := true                    -- sent by the collector
  seen : Option Word := none             -- SLSTAT: its result, when a later instruction acts on its token (R252)
  bpub : List Nat := []                  -- b-register writes that it publishes where it stores (R134)
  lda : Bool := false                    -- an acquire load at polder scope or wider
  ep : Nat := 0                          -- epoch of its fascine when it issued (R180, R205)
  pri : List Prior := []                 -- where its threads had been before (R205)
  deriving DecidableEq, Repr

/-- A register write whose separation has not elapsed (R32). `key` is the operand code, 256 for the predicates. -/
structure Hazard where
  key : Nat
  mask : Mask
  old : List Word
  left : Nat
  g : Nat
  op : Option Nat := none                -- settled by the end of this operation instead (R32, R200)
  chain : Option (Nat × Nat) := none     -- made by this member of a chain, and in flight no longer than it (R97, R99)
  due : Nat := 0                         -- beat by which it has been made, when no chain makes it (R32, R146)
  pois : Mask := 0                       -- poison of what stood there before
  fresh : Bool := false                  -- it bound its v-register name (R124)
  past : Bool := false                   -- a sibling's later write to its s- or b-register has completed (R131)
  pos : Nat := 0                         -- its place among the writes of its b-register
  deriving DecidableEq, Repr

/-- A result that a member holds back until its chain drains (R104): operand code (256 + predicate number for a
predicate), threads and words. -/
structure Held where
  key : Nat
  mask : Mask
  words : List Word
  deriving DecidableEq, Repr

/-- A member of a chain (R119 to R121): its word, its source words, and what it emits. -/
structure Member where
  word : Word
  opa : List Word
  opb : List Word
  opc : List Word
  pois : List Nat := []                  -- poison of A, B and C per thread (R120)
  out : List (List Fv) := []             -- float stream per thread and element, after round_sig (R84)
  outI : List Word := []                 -- integer stream per thread (R85)
  exc : List (BitVec 5) := []            -- exceptions it signals, per thread (R103)
  sexc : List (BitVec 5) := []           -- those of its stream, signalled when a member follows (R84)
  decided : Mask := 0                    -- threads decided (R100)
  cond : Mask := 0                       -- condition result c of a CHDEC, predicate of a CHCANCEL (R115, R117)
  act : Mask := 0                        -- threads it acts for
  stky : List (List Bool) := []          -- sticky bits of its stream: nonzero digits were dropped (R74)
  writes : Option Held := none           -- held write (R104)
  res : List Word := []                  -- what it writes for each thread: a register's word, or a predicate as 0 or 1
  delay : Nat := 0                       -- its online delay (R93)
  ran : Nat := 0                         -- beats that its chain had run when it issued
  stat : List Nat := []                  -- TSTAT of each thread at the sample of a save (R120)
  deriving DecidableEq, Repr

/-- A chain in flight (R99, R119). -/
structure Chain where
  id : Nat
  g : Nat
  st : Nat := 1                          -- 0 OPEN, 1 STREAMING, 2 DRAINING
  nopen : Nat := 0
  unif : Bool := false
  mode : BitVec 24 := 0
  amask : Mask := 0                      -- active(G) at the first member's issue (R119)
  gone : Mask := 0                       -- threads of it that have exited since (R106)
  pc1 : Word := 0
  mems : List Member := []
  exc : BitVec 5 := 0                    -- carried from a restored record
  tokens : Mask := 0                     -- threads for which a token was sent (R118)
  freed : List VBind := []               -- what its last-read bits cleared, for a restart (R104)
  left : Nat := 0                        -- beats until every member has made its writes (R97)
  ran : Nat := 0                         -- beats that it has run, its frozen ones left out (R97, R372)
  deriving DecidableEq, Repr

/-- A barrier wait record (R224). -/
structure WaitRec where
  snap : Nat := 0
  wv : Bool := false
  sw : Bool := false
  deriving DecidableEq, Repr

/-- A barrier (R223). -/
structure Bar where
  exparr : Nat
  arr : Nat := 0
  bytes : Int := 0
  phase : Nat := 0
  auto : Bool := true
  ring : Bool := false
  err : Bool := false
  scope : Nat := 2                       -- widest scope of the landings counted in this phase (R218, R219)
  wide : List (Nat × Nat) := []          -- completed phases in which one was wider than the polder, with it (R229)
  deriving DecidableEq, Repr

/-- A stop word (R380), and whether the fascine is stopped. -/
structure StopWord where
  stopped : Bool := false
  skid : Nat := 0
  code : Nat := 0
  primary : Bool := false
  dieHalt : Bool := false
  slot : Word := 0
  deriving DecidableEq, Repr

/-- One logged step (R389): a wall, or the registers before the step, which of them it wrote, the b-registers it wrote with
their old words and poison, and the bytes it overwrote (scratchpad offset, or target and translated address). -/
structure UndoStep where
  wall : Bool
  pc : Word
  g : Nat
  op : Option Nat := none                -- memory operation that the step issued
  chain : Option Nat := none             -- the chain that is this step
  regs : Regs
  keys : List Nat := []                  -- register codes, and 256 + predicate number, that it wrote
  exits : Bool := false                  -- threads exited in it
  whole : Bool := false                  -- it was a REGROUP
  n : Nat := 1                           -- its entries
  breg : List (Nat × Word × Bool) := []
  smem : List (Nat × Byte) := []
  dmem : List (Nat × Nat × Byte) := []
  deriving DecidableEq, Repr

/-- An open culvert record of a thread (R356, R264). -/
structure OpenRec where
  win : Nat
  t : Nat
  mask : Nat
  bytes : List Byte
  op : Option Nat := none                -- the operation in flight that closes it, when its thread has gone since (R180, R356)
  deriving DecidableEq, Repr

/-- A fascine (R155, R157). -/
structure Fascine where
  r : Regs := {}
  exc : BitVec 5 := 0                    -- sticky exceptions: inv, dz, of, uf, nx (R138)
  chstat : List Word := []               -- R118
  cnt : List Nat := []                   -- F0 to F3 (R155)
  tok : BitVec 8 := 0                    -- F4 to F11 (R155)
  tokSl : BitVec 8 := 0                  -- the token was last bound by SLUICE or COLL (R252)
  ts : List Word := []                   -- TS(0) to TS(7) (R251)
  snaps : List Word := []                -- EVWAIT snapshots (R387)
  wrec : List WaitRec := []              -- R224
  undoCnt : Nat := 0                     -- R385
  undoTgt : Option Nat := none           -- undo target: fascine of the trap's target (R390)
  chains : List Chain := []              -- R99
  ops : List MemOp := []                 -- memory operations in flight, by issue
  nextOp : Nat := 0
  epoch : Nat := 0                       -- operations below it were issued before the last REGROUP, by other threads (R180)
  prior : List Prior := []               -- R205
  haz : List Hazard := []                -- R32
  stale : List (Nat × Nat × Mask) := []   -- later writes to what a result in flight names: result, register code, threads (R32)
  active : Bool := false                 -- false: PLACED, nothing issued yet (R157)
  retired : Bool := false                -- R157
  stop : StopWord := {}                  -- R372, R380
  log : List UndoStep := []              -- undo log, newest first (R389)
  logPos : Nat := 0                      -- entries that it has appended
  orecs : List OpenRec := []             -- R356
  bseen : List Nat := []                 -- writes of each b-register that its reads do not go behind (R134)
  bord : List Nat := []                  -- those of them that are its own or that an acquire has ordered before it (R134)
  rejoinHold : Bool := false             -- held at a rejoin point for coupling (R156)
  ready : Nat := 0                       -- first beat in which it may issue again (R25)
  yielded : Nat := 0                     -- beat in which it last left a bundle with YIELDH set (R166)
  settle : Bool := false                 -- all earlier register writes must arrive before it issues (R31)
  deriving DecidableEq, Repr

/-- An accumulator of a matrix engine (R272, R274). Words and special record are sparse maps with default 0. -/
structure Accum where
  words : SMap Word := []
  spec : SMap Nat := []                  -- 0 none, 1 +inf, 2 -inf, 3 NaN (R280)
  ver : Nat := 0
  opk : Nat := 0
  err : Nat := 0
  done : Nat := 0
  fmt : List Byte := []
  deriving DecidableEq, Repr

/-- An operation queued or running on a matrix engine: kind 0 a slot load, 1 to 5 as OPK of R274. -/
structure MOp where
  id : Nat
  kind : Nat
  a : Nat                                -- accumulator or slot
  v : Nat := 0                           -- expected version
  f : Nat := 0                           -- issuing fascine
  running : Bool := false
  pos : Nat := 0                         -- blocks, runs or rows committed
  units : Nat := 0                       -- DONE of R274
  err : Nat := 0
  src : Nat := 0                         -- scratchpad offset of a slot load
  desc : List Byte := []
  fmt : List Byte := []
  tabs : List Byte := []
  rows : List (Nat × List (Nat × Nat)) := []   -- fibre cache: up to 64 rows of B as an MGUST has read them (R279)
  span : Option (Nat × Nat) := none      -- the row pointers of an MGUST's row, once read (R279)
  reached : List Nat := []               -- DONE values above 0 that an MSPARSE or MGUST has reached (R274)
  todo : List (Nat × List Byte) := []    -- what of an MDRAIN's row is still to be written, by sector (R217, R282)
  deriving DecidableEq, Repr

/-- An operand slot (R268): 0 FREE, 1 CLAIMED, 2 LOADING, 3 LOADED; its bytes and poisoned sectors. -/
structure Slot where
  st : Nat := 0
  mem : Memory := []
  pois : List Nat := []
  deriving DecidableEq, Repr

/-- What a polder holds of a partition's matrix engine (R265). -/
structure Engine where
  part : Nat
  slots : List Slot := []
  accs : List Accum := []
  books : List (List Byte) := []
  q : List MOp := []
  nextOp : Nat := 0
  deriving DecidableEq, Repr

/-- An inlet (k = 0) or outlet (k = 1) core claimed by a polder (R260 to R264). -/
structure IoCore where
  k : Nat
  img : Nat := 0                         -- image address and length (R347)
  len : Nat := 0
  run : Nat := 0                         -- 0 image not loaded, 1 running, 2 stopped
  x : List Word := []                    -- x0 to x31
  pc : Word := 0
  mstatus : Word := 0
  mtvec : Word := 0
  mepc : Word := 0
  mcause : Word := 0
  mtval : Word := 0
  mscratch : Word := 0
  mcycle : DWord := 0                    -- mcycle less the beat counter (R260); of a stopped save: mcycle
  minstret : DWord := 0
  imem : Memory := []
  dmem : Memory := []
  headlo : Word := 0
  headhi : Word := 0
  busy : BitVec 8 := 0                   -- SLBUSY
  slst : List Word := []                 -- SLST of the eight tickets
  timehi : Word := 0
  orecs : List OpenRec := []             -- its open work-graph records, as if it were thread 0 (R261, R356)
  mopen : List Byte := []                -- open mailbox packet
  ready : List (List Byte) := []         -- ready packets
  deriving DecidableEq, Repr

/-- A polder halt (R372, R375). -/
structure Halt where
  code : Nat
  sub : Nat
  f : Nat
  g : Nat
  pc : Word
  addr : Nat
  data : Nat
  time : Nat
  nsec : Nat := 0
  tself : Option Nat := none             -- trap record taken
  deriving DecidableEq, Repr

/-- A SAVEC of fascine f, entry g of polder h, to an image (R384). -/
structure SaveReq where
  h : Nat
  f : Nat
  g : Nat
  img : Nat
  evict : Bool
  deriving DecidableEq, Repr

/-- Life of a polder on its core (R183): RUNNING, HALTED or DRAINING. A saved or retired one holds no core. -/
inductive PLife where
  | running | halted | draining
  deriving DecidableEq, Repr

/-- A polder placed on a core (R182). -/
structure Polder where
  h : Nat                                -- PHANDLE = 512 x core + index (R375)
  ctx : Nat
  life : PLife := .running
  sys : Bool := false                    -- in the system domain (R369)
  tself : Option Nat := none             -- a trap handler: its record (R373)
  htgt : Nat := 0                        -- a trap handler: the identity of its target
  hdone : Bool := false                  -- it has ended its target's halt (R376)
  queue : Nat := 0                       -- queue of its root packet (R363)
  grid : Option Nat := none
  pl : Nat := 0
  prio : Nat := 0
  hmask0 : Mask := 0
  code : Nat := 0                        -- code base, virtual address (R347)
  cwin : Nat := 0                        -- constant window, virtual address
  cwlen : Nat := 0
  cw : List Word := []                   -- c0 to c15 as read at placement (R137)
  ranks : List (Nat × Nat) := []         -- partition and rank slot of each rank (R155)
  regs : Nat := 1                        -- declared peak (R125)
  bars : List Bar := []                  -- R223
  nslots : Nat := 0
  spsize : Nat := 0                      -- S (R182)
  spad : Memory := []
  spois : List Nat := []                 -- poisoned sectors of the scratchpad (R130)
  breg : List (List Word) := []          -- each b-register: values written, newest first (R134)
  bpois : List Bool := []
  lease : Nat := 0                       -- R132
  brel : List Nat := []                  -- writes of each b-register released at polder scope by their holder (R134)
  btags : List (Loc × Word × List Nat) := []  -- b-register writes that a release orders which left this value at a word (R134)
  bbars : List (Nat × List Nat) := []    -- those that the arrivals at a barrier order (R134): 64 + b a ring barrier
  glatch : List (Option (List Byte)) := [] -- grid latches 0 to 3, none: invalid (R340)
  engines : List Engine := []            -- R265
  io : List IoCore := []
  fs : List Fascine := []
  ring : Nat := 0                        -- ring identity (R184)
  kcores : List Nat := []                -- the ring's cores k0 to k(n - 1), in rising order (R184)
  ppr : Nat := 1
  rcores : Nat := 0
  fuse : Bool := false
  halt : Option Halt := none
  stopReq : Option SaveReq := none       -- a stop in progress (R377)
  dieHalt : Bool := false                -- stopped by DBGHALT (R388)
  debug : Bool := false                  -- in debug mode: placed with DBGEN set (R385, R391)
  ureg : Option Nat := none              -- undo region, when its steps are logged (R389)
  node : Option Nat := none              -- work-graph node (R355)
  depth : Nat := 0
  nrec : Nat := 0                        -- records delivered (R361)
  rsize : Nat := 0
  tags : List (Nat × Nat) := []          -- (barrier, PHANDLE) that its retirement releases (R357)
  launch : Nat := 0                      -- the launch that it belongs to, for what its code has held (R27)
  uid : Nat := 0                         -- its identity, which a save keeps (R376)
  deriving DecidableEq, Repr

/-- A 32-byte sector held in a cache: owner (core for an L1, die for far ways), address, bytes, poison. -/
structure Sector where
  owner : Nat
  x : Nat
  bytes : List Byte
  pois : Bool
  tgt : Nat := 0                         -- device, host or peer memory (R394)
  deriving DecidableEq, Repr

/-- What a bundle that a launch may fetch has held since the launch began, newest first: its target and address (R27). -/
structure CodeLog where
  launch : Nat
  tgt : Nat
  x : Nat
  seen : List (List Byte)
  deriving DecidableEq, Repr

/-- A cached translation (R397): address space, generation, page base and size, and its leaf entry. -/
structure Tlb where
  die : Nat                              -- whose caches hold it: a die's with its cores'
  asid : Nat
  gen : Nat
  base : Nat
  size : Nat
  leaf : Nat
  deriving DecidableEq, Repr

/-- Who holds a faulting engine access (R400). -/
inductive Owner where
  | chain (id : Nat) | coll (id : Nat) | matrix (h e op : Nat) | job (id : Nat) | ray (id : Nat) | walk (id : Nat)
  | io (h k : Nat) | trap (h : Nat) | packet (q : Nat) | spill (grid node part : Nat) | place (id : Nat)
  deriving DecidableEq, Repr

/-- An engine access held by a failed translation (R400). -/
structure Fault400 where
  ctx : Nat
  va : Nat
  write : Bool
  cause : Nat
  owner : Owner
  ended : Bool := false                  -- ended without mapping
  deriving DecidableEq, Repr

/-- Who issued engine work: a fascine of a polder, or an inlet or outlet core of it (io = 0 or 1). -/
structure Issuer where
  h : Nat
  f : Nat := 0
  io : Option Nat := none
  deriving DecidableEq, Repr

/-- What a transfer record still has to do: copy n bytes to an offset of a polder's scratchpad or to a global address; the same of
16 bytes from each of some places (none: zeros); or read the index of row i (R242). -/
inductive Move where
  | copy (dh : Option Nat) (d : Nat) (src : Nat) (n : Nat)
  | parts (dh : Option Nat) (d : Nat) (srcs : List (Option Nat))
  | row (i : Nat)
  deriving DecidableEq, Repr

/-- A notice that waits to become an event packet (R364): class, die, time-stamp, detail, merged. -/
structure Notice where
  cls : Nat
  die : Nat
  ts : Nat
  det : Nat
  ovf : Bool := false
  deriving DecidableEq, Repr

/-- A context that is not FREE (R366, R367). -/
structure Ctx where
  c : Nat
  dead : Bool := false
  hold : Bool := false                   -- HELD (R367)
  vdt : List (Option Nat) := []          -- physical die of each virtual die, none: not bound (R366)
  vdtw : Word := 0                       -- VDT as its 32 bits (R366)
  ptroot : Nat := 0
  asid : Nat := 0
  quota : Word := 0x00484210             -- R193
  qtab : Nat := 0
  tvec : Nat := 0
  tring : Nat := 0
  upool : Nat := 0
  upnum : Nat := 0
  dbg : Nat := 0                         -- DBGEN, HDOM, UNDOEN (R388)
  dlog : Nat := 0
  dlogn : Nat := 0
  dlogw : Nat := 0                       -- debug log records written (R390)
  port : Nat := 0                        -- notification port (R405)
  evc : List Nat := []                   -- EVC1 to EVC3 (R385)
  qbstat : Nat := 0                      -- QBSTAT (R385)
  evq : List Notice := []                -- notices that wait for the privileged ring (R364)
  recs : List (Nat × Nat) := []          -- trap records held: TSELF and the identity of the halted polder (R373)
  halted : List Nat := []                -- dies halted by DBGHALT (R388)
  deriving DecidableEq, Repr

/-- A transfer record in progress (R239, R245): its address and bytes, what remains, and the bytes landed in each
polder. -/
structure SRec where
  addr : Nat
  bytes : List Byte
  todo : List Move
  landed : List (Nat × Nat) := []
  oob : Nat := 0
  st : Nat := 0                          -- 0 moving, 1 its status is to be written, 2 completed
  code : Nat := 0                        -- status code with which it ends (R243)
  sound : Bool := true                   -- it has passed the checks of R241
  deriving DecidableEq, Repr

/-- A sluice chain queued or running on engine `eng` of die `die` (R237 to R247). -/
structure SChain where
  id : Nat
  ctx : Nat
  die : Nat
  eng : Nat
  iss : Issuer
  tok : Nat
  mask : BitVec 8                        -- tokens of the mask that have not cleared (R238)
  next : Nat                             -- generic address of the next record, while none is in progress
  now : List SRec := []                  -- the records taken and in progress, in chain order (R245)
  stop : Nat := 0                        -- code of the record that ends the chain (R247)
  recs : Nat := 0
  scope : Nat := 2                       -- widest scope of the destinations so far (R218)
  kill : Bool := false
  cx : Option Ctx := none                -- its context as it was, when that has been freed since (R21)
  deriving DecidableEq, Repr

/-- One participant of a collective (R255 to R258): 0 descriptor not read, 1 waiting, 2 matched, 3 RECV is being
written. -/
structure Coll where
  id : Nat
  ctx : Nat
  die : Nat
  iss : Issuer
  tok : Nat
  addr : Nat
  desc : List Byte := []
  seen : List (Nat × Nat) := []          -- the sectors of SEND when the descriptor was read, as target and address
  dirt : List (Nat × Nat) := []          -- those of them that have been written since (R257)
  time : Nat                             -- time-stamp of its issue
  st : Nat := 0
  todo : List (Nat × List Byte) := []    -- what of RECV is still to be written, by sector (R217)
  deriving DecidableEq, Repr

/-- A builder or compactor job (R300 to R305): kind 0 BUILD, 1 REFIT, 2 COMPACT. -/
structure Job where
  id : Nat
  kind : Nat
  ctx : Nat
  die : Nat
  iss : Option Issuer                    -- none: a build packet
  tok : Nat
  grid : Option Nat := none
  addr : Nat                             -- generic address of the job record
  job : List Byte := []
  st : Nat := 0                          -- 0 queued, 1 to reclaim, 2 to relocate, 3 entry taken, 4 writing, 5 to end
  ent : Option Nat := none               -- entry taken
  src : Option Nat := none               -- source entry of a REFIT or a relocation
  code : Nat := 0                        -- JST
  fail : Nat := 0                        -- the code that it ends with when the part of its plan that has room is written (R432)
  nodes : Nat := 0                       -- nodes written
  plan : List (List Nat × List Nat × List (Nat × List Byte)) := []   -- fences, fences inside, writes of the subtree
  deriving DecidableEq, Repr

/-- A ray in flight (R306 to R310), with its hold on a generation (R298). -/
structure Ray where
  id : Nat
  iss : Issuer
  g : Nat
  t : Nat
  inst : Nat                             -- the instruction it belongs to
  any : Bool
  dst : Nat                              -- first result register
  obj : Nat
  query : List Word
  looked : Bool := true                  -- the entries have been read
  held : Option Nat := none              -- entry held
  keep : Bool := true                    -- its thread still takes the result
  parked : Bool := false
  done : Bool := false                   -- it has its result; another thread of its instruction has not
  deriving DecidableEq, Repr

/-- A MARCH (0), MLOC (1) or SAMPLE (2) thread in flight (R338). -/
structure Walk where
  id : Nat
  iss : Issuer
  g : Nat
  t : Nat
  inst : Nat
  kind : Nat
  dst : Nat
  mesh : List Byte                       -- mesh descriptor, or grid latch
  latched : Bool := true                 -- the descriptor has been read; the latch was valid
  addr : Nat := 0                        -- R of SAMPLE
  query : List Word
  st : List Word                         -- state block of R324; words of the result block of SAMPLE
  helper : Bool := false
  far : Bool := false                    -- it reads the far copies of its die (R334)
  begun : Bool := false                  -- its query has been checked
  count : Nat := 0                       -- samples taken or indices examined
  line : List (Int × Nat) := []          -- MLOC: o and d, exactly, as numerators and denominators (R329)
  keep : Bool := true
  deriving DecidableEq, Repr

/-- Queue states (R343). -/
inductive QState where
  | unbound | idle | fetch | waiting | ready | placing | error
  deriving DecidableEq, Repr

/-- A packet that has been fetched, or a child (R345, R353): its bytes and address, its root's ring index, its depth, the
grid it is a child of, its place in its root's tree; kernel headers and node table as read when it was checked. -/
structure Pkt where
  bytes : List Byte
  addr : Nat := 0
  root : Nat
  depth : Nat := 0
  parent : Option Nat := none
  path : List Nat
  heads : List (List Byte) := []
  nodes : List (List Byte) := []
  met : Bool := false                    -- its wait condition has held (R349)
  deriving DecidableEq, Repr

/-- A bound queue (R342, R343). -/
structure Queue where
  q : Nat
  st : QState := .unbound
  ctx : Nat := 0
  qbase : Nat := 0
  logn : Nat := 0
  pmax : Nat := 0
  en : Bool := false
  priv : Bool := false
  err : Bool := false
  wr : Nat := 0
  rd : Nat := 0
  done : Nat := 0
  sig : Nat := 0
  ecode : Nat := 0
  dts : Nat := 0
  sts : Nat := 0
  hkobj : Nat := 0
  pkt : Option Pkt := none               -- the packet in WAITING or READY
  since : Nat := 0                       -- beat in which it became READY (R350)
  pgrid : Nat := 0                       -- the grid in PLACING
  bind : Nat := 0                        -- names the binding: packets of an earlier one do not count in it
  tails : List Pkt := []                 -- children that stand ahead of the ring, in their order (R353), with a packet given back for them
  comp : List Nat := []                  -- ring indices completed out of order (R348)
  late : Bool := false                   -- its descriptor waits to be written, at a home in reset (R22, R342)
  deriving DecidableEq, Repr

/-- A launched packet with its placed polders: a grid (R353). -/
structure Grid where
  id : Nat
  ctx : Nat
  q : Nat
  pkt : Pkt
  prio : Nat := 0                        -- PRIO capped by PMAX (R345)
  bind : Nat := 0                        -- the binding of its queue
  priv : Bool := false                   -- a privileged queue's (R369)
  hkobj : Nat := 0                       -- that queue's handler kernel object (R364)
  ring : Nat := 0                        -- next ring to place (R351)
  octet : Option Nat := none             -- octet of the ring in placement, once one of its polders stands (R184)
  rid : Nat := 0                         -- its identity
  left : List Nat := []                  -- its polders not yet placed
  placed : Bool := false                 -- every ring is placed, or none will be
  jobDone : Bool := true                 -- false while a build packet's job runs
  pool : List (List Byte) := []          -- recorded children
  started : Bool := false                -- the pool's children have been started
  kids : Nat := 0                        -- children started and not completed
  bins : List Nat := []                  -- cores on which bins are reserved (R358)
  deriving DecidableEq, Repr

/-- A work-graph record: its bytes, its depth and the barrier it names (R356, R357). -/
structure GRec where
  bytes : List Byte
  depth : Nat
  tag : Option (Nat × Nat)               -- barrier and PHANDLE of the emitter
  deriving DecidableEq, Repr

/-- The bin of a node on a core (R358). -/
structure Bin where
  core : Nat
  grid : Nat
  node : Nat
  since : Nat                            -- time-stamp at which its first record entered
  recs : List GRec
  deriving DecidableEq, Repr

/-- What the device keeps beside the memory of a spillway part: depth, arrival time and tag of each record (R359). -/
structure Spill where
  grid : Nat
  node : Nat
  part : Nat
  held : List (Nat × Nat × Option (Nat × Nat))
  deriving DecidableEq, Repr

/-- A notification record that waits for the ring (R406). -/
structure NRec where
  kind : Nat
  ctx : Nat
  q : Nat
  time : Nat
  det0 : Nat
  det1 : Nat
  deriving DecidableEq, Repr

/-- A host command in progress (R405): its code, the address space or die it waits for, the generation, the result it will
write, and the dies it touches (R409). -/
structure Cmd where
  code : Nat
  obj : Nat := 0
  gen : Nat := 0
  res : Nat := 0
  dies : List Nat := []
  deriving DecidableEq, Repr

/-- The part of a host write, or of a peer's, that lies in one sector and has not landed (R217, R220): the write it belongs to,
its place, its bytes, and whether the write is ordered after nothing. -/
structure HostWr where
  wr : Nat
  x : Nat
  bytes : List Byte
  relaxed : Bool
  deriving DecidableEq, Repr

/-- A host port (R402 to R406). -/
structure Port where
  cxl : Bool := false
  up : Bool := true
  tshi : Word := 0
  args : List DWord := [0, 0, 0, 0]
  busy : Bool := false
  result : Nat := 0
  cmd : Option Cmd := none               -- command in progress
  nrbase : DWord := 0
  nrlog : Nat := 0
  nrtail : Word := 0
  nrhead : Word := 0
  wait : List NRec := []
  lost : Nat := 0
  msix : Nat := 0                        -- MSI-X messages sent
  writes : List HostWr := []             -- writes that have arrived and not landed, oldest first (R217, R220)
  rd : Option (Nat × Nat) := none        -- a read in progress: where it goes on, and the bytes that are left (R217, R221)
  rgot : List Byte := []                 -- what it has read
  rpois : Bool := false
  doe : List Byte := []                  -- last answer in its DOE mailbox (R402, R411)
  doeErr : Bool := false                 -- it is an error answer (R409)
  deriving DecidableEq, Repr

/-- A die link (R407, R408). -/
structure Link where
  training : Bool := false
  fails : Nat := 0
  retries : Nat := 0
  deriving DecidableEq, Repr

/-- A compute die: berm (R10), reset and throttle state (R22, R417), soft-error counts (R409). -/
structure Die where
  berm : Bool := true
  reset : Bool := false
  throttled : Bool := false
  corrected : Nat := 0
  uncorrected : List Nat := []           -- of each memory of R128 and R130 (`errMem`)
  deriving DecidableEq, Repr

/-- The reeve and what it keeps (R409 to R417). -/
structure Reeve where
  minVersion : Nat := 0                  -- fused minimum version (R414)
  flash : Option (List Byte) := none     -- flash: none, the image it was made with (R414, log 5)
  writing : Option (List Byte) := none   -- a verified image that is being written to flash (R416)
  running : Option (List Byte) := none   -- the image of the last start
  minStart : Nat := 0                    -- minimum version at the last start (R415)
  recovered : Bool := false              -- the body was loaded by recovery since the last start (R415)
  reply : List Byte := []                -- last answer on the side-band port
  replyErr : Bool := false               -- it is an error answer (R409)
  deriving DecidableEq, Repr

/-- A restore that waits for room (R384). -/
structure Restore where
  id : Nat
  h : Nat
  f : Nat
  g : Nat
  ctx : Nat
  img : Nat
  z : Nat := 0                           -- the saved polder
  deriving DecidableEq, Repr

/-- An event for a saved polder whose image cannot be written when it comes (R231, R382): the clear of a token or of a
ticket with its status word, a landing of n bytes at a barrier, or retirements and returns that a ring barrier follows. -/
inductive Owed where
  | token (f k : Nat) (ts : Option Word)
  | ticket (io t : Nat) (ts : Word)
  | land (b n scope : Nat)
  | follow (b n m : Nat)
  | arrive (b : Nat)
  deriving DecidableEq, Repr

/-- A polder saved with EVICT (R382): what the device keeps of it beside its image, and its live fascines. -/
structure Saved where
  p : Polder
  img : Nat
  live : Nat
  late : List (Option Nat) := []         -- chain of each late-landing entry, none for a ring entry (R382)
  owed : List Owed := []                 -- events that its image has not taken
  beat : Nat := 0                        -- the beat of its sample (R383)
  was : Nat := 0                         -- its PHANDLE, which its image names (R378, R382)
  deriving DecidableEq, Repr

/-- The sample of a save without EVICT: the polder, its image, and the beat (R383). -/
structure Sample where
  h : Nat
  ctx : Nat
  img : Nat
  beat : Nat
  deriving DecidableEq, Repr

/-- A trap handler that waits for placement (R373): its record, its target's identity, its kernel object and header with TMPL. -/
structure Pending where
  id : Nat
  ctx : Nat
  target : Nat
  tself : Nat
  die : Nat
  q : Nat
  kobj : Nat
  head : List Byte
  deriving DecidableEq, Repr

/-- What a port of a partition of a core chose last: the beat, the candidate number (R164), and of a coupled rank the slot
that its fascines issue (R156). -/
structure Chosen where
  core : Nat
  part : Nat
  port : Nat
  beat : Nat
  num : Nat
  joint : Option Word := none
  deriving DecidableEq, Repr

/-- Which sub-group issues, with what its bundle says of the slot: the issue latch. -/
structure Latch where
  h : Nat
  f : Nat
  g : Nat
  dist : Nat := 1
  last : BitVec 3 := 0
  word : Word := 0
  wm0 : Bool := true                     -- the bundle's WAITM is 0 or this is no entry slot (R94)
  rejoin : Bool := false                 -- slot 1 of a bundle whose REJOIN bit is set
  yieldh : Bool := false                 -- its bundle has YIELDH set (R35)
  chosen : Option Chosen := none         -- the choice of its port that it is (R164)
  deriving DecidableEq, Repr

/-- What moves next: a given sub-group, or a step that has no instruction word (log 2). -/
inductive Choice where
  | cand (h f g : Nat)
  | event (i : Instr)
  deriving DecidableEq, Repr

/-- The whole package. -/
structure State where
  beat : Nat := 0                        -- beats since package reset (R2, R410)
  free : Nat := 0                        -- the model's own: index of the next free values (log 1)
  sched : List Choice := []              -- the model's own: what moves next (log 2)
  turn : Nat := 0                        -- the model's own: default choice (log 2)
  cur : Option Latch := none             -- the model's own: the issue latch (log 2)
  nextId : Nat := 0                      -- the model's own: names of new objects
  last : Nat × Nat := (0, 0)             -- time-stamp and source of the last ordered event (R16, R410)
  dev : Memory := []                     -- device memory by translated address (R394)
  host : Memory := []                    -- host memory by bus address (R404)
  peer : Memory := []                    -- peer memory by bus address (R404)
  pois : List Nat := []                  -- poisoned sectors of device memory (R130)
  l1 : List Sector := []                 -- sectors held by the L1s (R189)
  far : List Sector := []                -- sectors held in far ways (R192)
  tlb : List Tlb := []                   -- R397
  gens : SMap Nat := []                  -- generation of each address space (R397)
  dies : List Die := []
  links : List Link := []
  ports : List Port := []
  reeve : Reeve := {}
  ready : Bool := true                   -- DEVSTAT READY (R413)
  recov : Bool := false                  -- DEVSTAT RECOV (R413)
  ctxbase : DWord := 0                   -- CTXBASE (R413)
  pwrcap : Nat := 700                    -- PWRCAP (R413)
  ctxs : List Ctx := []
  queues : List Queue := []
  grids : List Grid := []
  bins : List Bin := []
  spills : List Spill := []
  chosen : List Chosen := []             -- the last choice of each port (R164)
  polders : List Polder := []
  saved : List Saved := []
  sampled : List Sample := []            -- R383
  saves : List (Nat × SaveReq) := []     -- SAVECs that wait for another one of their target, in their order (R384)
  barAt : Nat × Nat := (0, 0)            -- beat of the last event at a barrier, and its place in that beat (R225)
  restores : List Restore := []
  pending : List Pending := []
  reserved : List (Nat × Nat × List Nat) := []  -- octets of restored rings: ring, octet, cores of a fused one (R184, R433)
  schains : List SChain := []
  colls : List Coll := []
  mism : List (Nat × Nat × Nat) := []    -- collectives that ended with MISMATCH: GID, SEQ, participants still to come (R257)
  jobs : List Job := []
  rays : List Ray := []
  walks : List Walk := []
  faults : List Fault400 := []
  lastRead : List Byte := []             -- data of the last read by a host, peer or side-band master (R221)
  lastPois : Bool := false               -- its poison indication (R130)
  timed : Option Nat := none             -- requests of engines to host and peer memory time out in the step with these free values (R404)
  owedW : List (Nat × Nat × List Byte) := []  -- writes of the device to a home in reset: context, address, bytes (R22)
  codes : List CodeLog := []             -- R27
  prefs : List (Nat × Nat) := []         -- PREF requests that wait for a way to their home: polder and virtual address (R22, R197)
  deriving DecidableEq, Repr

/-- Why a step can stop. -/
inductive Fault where
  /-- An instruction row was executed while the issue latch names no sub-group that is in use: no issue of the
  machine does this (raised by the meanings of instruction words; safe). -/
  | noIssuer
  deriving DecidableEq, Repr

/-- Why a step has no meaning. -/
inductive Refusal where
  /-- No meaning has been written for the instruction of this mnemonic (raised by `exec`; safe). -/
  | notModelled (mnemonic : String)
  deriving DecidableEq, Repr

/-- The machine right after a package reset (R412, R413): time 0, READY, links and ports trained, memory all zero,
every context FREE and every queue unbound. What the fuses and the flash hold is given by no rule (log 5). -/
def State.reset : State :=
  { dies := [{}, {}, {}, {}], links := [{}, {}, {}, {}], ports := [{}, {}] }

end Sys2Proof.Machine
end

