-- ==== Sys2Proof/Machine/Exact.lean ====
section
/-! DEFINITION. Numbers (spec/03_numbers.md): exact rational arithmetic, the floating formats (R67 to R69), rounding
(R75 to R80), and enclosures of the functions whose values are not rational (R83). -/
namespace Sys2Proof.Machine

/-- num / den in lowest terms; den = 0 is taken as 1. -/
def Q.of (n : Int) (d : Nat) : Q :=
  let g := Nat.gcd n.natAbs d
  if g = 0 then ⟨0, 1⟩ else if d = 0 then ⟨n, 1⟩ else ⟨n / (g : Int), d / g⟩
/-- An integer as a rational. -/
def Q.int (n : Int) : Q := ⟨n, 1⟩
/-- The sum. -/
def Q.add (a b : Q) : Q := Q.of (a.num * b.den + b.num * a.den) (a.den * b.den)
/-- The negation. -/
def Q.neg (a : Q) : Q := ⟨-a.num, a.den⟩
/-- The difference. -/
def Q.sub (a b : Q) : Q := a.add b.neg
/-- The product. -/
def Q.mul (a b : Q) : Q := Q.of (a.num * b.num) (a.den * b.den)
/-- The reciprocal of a nonzero rational. -/
def Q.inv (a : Q) : Q := if a.num < 0 then ⟨-(a.den : Int), a.num.natAbs⟩ else ⟨a.den, a.num.natAbs⟩
/-- The quotient by a nonzero rational. -/
def Q.div (a b : Q) : Q := a.mul b.inv
/-- The absolute value. -/
def Q.abs (a : Q) : Q := ⟨a.num.natAbs, a.den⟩
/-- a < b. -/
def Q.lt (a b : Q) : Bool := a.num * b.den < b.num * a.den
/-- a ≤ b. -/
def Q.le (a b : Q) : Bool := !b.lt a
/-- Equal values. -/
def Q.eqv (a b : Q) : Bool := a.num * b.den == b.num * a.den
/-- Whether the value is 0. -/
def Q.isZero (a : Q) : Bool := a.num == 0
/-- 2^e. -/
def Q.pow2 (e : Int) : Q := if e < 0 then ⟨1, 2 ^ e.natAbs⟩ else ⟨2 ^ e.toNat, 1⟩
/-- The greatest integer not above the value. -/
def Q.floor (a : Q) : Int := Int.fdiv a.num a.den
/-- floor(log2 |a|) of a nonzero rational. -/
def Q.log2 (a : Q) : Int :=
  let n := a.num.natAbs
  let e : Int := (Nat.log2 n : Int) - (Nat.log2 a.den : Int)
  if (Q.pow2 e).le a.abs then e else e - 1

/-- A binary floating format (R67): width, fraction bits, bias, least and greatest exponent, and whether it has an
infinity and signalling NaNs (R68). -/
structure Fmt where
  w : Nat
  f : Nat
  bias : Int
  emin : Int
  emax : Int
  inf : Bool
  snan : Bool
  deriving DecidableEq, Repr

/-- f32 (R67). -/
def Fmt.f32 : Fmt := ⟨32, 23, 127, -126, 127, true, true⟩
/-- f16 (R67). -/
def Fmt.f16 : Fmt := ⟨16, 10, 15, -14, 15, true, true⟩
/-- bf16 (R67). -/
def Fmt.bf16 : Fmt := ⟨16, 7, 127, -126, 127, true, true⟩
/-- e4m3 (R67). -/
def Fmt.e4m3 : Fmt := ⟨8, 3, 7, -6, 8, false, false⟩
/-- e5m2 (R67). -/
def Fmt.e5m2 : Fmt := ⟨8, 2, 15, -14, 15, true, false⟩
/-- Significand bits p (R67). -/
def Fmt.p (F : Fmt) : Nat := F.f + 1
/-- The all-ones exponent field. -/
def Fmt.emask (F : Fmt) : Nat := 2 ^ (F.w - 1 - F.f) - 1

/-- The sign bit of an encoding. -/
def Fmt.sign (F : Fmt) (x : Nat) : Bool := bit x (F.w - 1)
/-- The exponent field of an encoding. -/
def Fmt.expo (F : Fmt) (x : Nat) : Nat := bits x F.f (F.w - 1 - F.f)
/-- The fraction field of an encoding. -/
def Fmt.frac (F : Fmt) (x : Nat) : Nat := bits x 0 F.f
/-- Whether an encoding is a NaN (R68). -/
def Fmt.isNan (F : Fmt) (x : Nat) : Bool :=
  F.expo x == F.emask && (if F.inf then F.frac x != 0 else F.frac x == 2 ^ F.f - 1)
/-- Whether an encoding is a signalling NaN (R68). -/
def Fmt.isSnan (F : Fmt) (x : Nat) : Bool := F.snan && F.isNan x && !bit x (F.f - 1)
/-- Whether an encoding is an infinity. -/
def Fmt.isInf (F : Fmt) (x : Nat) : Bool := F.inf && F.expo x == F.emask && F.frac x == 0
/-- Whether an encoding is subnormal. -/
def Fmt.isSub (F : Fmt) (x : Nat) : Bool := F.expo x == 0 && F.frac x != 0

/-- The rational with sign `s` and magnitude n x 2^e. -/
def Q.scaled (s : Bool) (n : Nat) (e : Int) : Q :=
  let m : Int := if s then -(n : Int) else n
  if e < 0 then Q.of m (2 ^ e.natAbs) else ⟨m * 2 ^ e.toNat, 1⟩

/-- The value of an encoding (R67, R68). -/
def Fmt.decode (F : Fmt) (x : Nat) : Fv :=
  let s := F.sign x
  let e := F.expo x
  let m := F.frac x
  if F.isNan x then .nan s
  else if F.isInf x then .inf s
  else if e = 0 then
    if m = 0 then .zero s false else .fin (Q.scaled s m (1 - F.bias - F.f))
  else .fin (Q.scaled s (2 ^ F.f + m) ((e : Int) - F.bias - F.f))

/-- The canonical NaN (R69, R78). -/
def Fmt.nan (F : Fmt) : Nat := F.emask * 2 ^ F.f + (if F.inf then 2 ^ (F.f - 1) else 2 ^ F.f - 1)

/-- The encoding of a value that the format holds exactly. -/
def Fmt.encode (F : Fmt) (v : Fv) : Nat :=
  let sb (s : Bool) := if s then 2 ^ (F.w - 1) else 0
  match v with
  | .nan s => sb s + F.nan
  | .inf s => sb s + F.emask * 2 ^ F.f
  | .zero s _ => sb s
  | .fin q =>
    let e := max q.log2 F.emin
    let m := ((q.abs.mul (Q.pow2 (F.f - e))).floor).toNat
    let top := if 2 ^ F.f ≤ m then ((e + F.bias).toNat) * 2 ^ F.f + (m - 2 ^ F.f) else m
    sb (q.num < 0) + top

/-- The greatest finite value with at most P significand bits, max(F, P) (R69). -/
def Fmt.max (F : Fmt) (P : Nat) : Q :=
  if P < F.p then (Q.sub (Q.int 2) (Q.pow2 (1 - P))).mul (Q.pow2 F.emax)
  else if F.inf then (Q.sub (Q.int 2) (Q.pow2 (-F.f))).mul (Q.pow2 F.emax)
  else Q.int 448

/-- Exception bits: invalid (R138). -/
def xInv : BitVec 5 := 16
/-- Divide-by-zero. -/
def xDz : BitVec 5 := 8
/-- Overflow. -/
def xOf : BitVec 5 := 4
/-- Underflow. -/
def xUf : BitVec 5 := 2
/-- Inexact. -/
def xNx : BitVec 5 := 1

/-- n of R75: the magnitude `m` (in units) rounded to an integer. Modes: 0 RNE, 1 RTZ, 2 RUP, 3 RDN, 4 RNA, 5 RODD,
6 stochastic with the draw `d` (R43, R75). -/
def roundUnits (mode d : Nat) (neg : Bool) (m : Q) : Nat :=
  let n := m.floor.toNat
  let f := m.sub (Q.int n)
  let half : Q := ⟨1, 2⟩
  let up :=
    match mode with
    | 0 => half.lt f || (half.eqv f && n % 2 == 1)
    | 2 => !f.isZero && !neg
    | 3 => !f.isZero && neg
    | 4 => half.le f
    | 5 => !f.isZero && n % 2 == 0
    | 6 => decide (65536 ≤ (f.mul (Q.int 65536)).floor + d)
    | _ => false
  if up then n + 1 else n

/-- overflow_result (R75): a NaN there has the sign of the value (log 60). -/
def overflowResult (F : Fmt) (P mode : Nat) (satf neg : Bool) : Fv :=
  let mx : Fv := .fin (if neg then (F.max P).neg else F.max P)
  let y : Fv :=
    match mode with
    | 0 | 4 | 6 => .inf neg
    | 2 => if neg then mx else .inf false
    | 3 => if neg then .inf true else mx
    | _ => mx
  match y with
  | .inf _ => if satf then mx else if F.inf then y else .nan neg
  | _ => y

/-- How an instruction rounds: mode, SATF, FTZ and the draw of a stochastic rounding (R43, R75). -/
structure Rnd where
  mode : Nat := 0
  satf : Bool := false
  ftz : Bool := false
  draw : Nat := 0
  deriving DecidableEq, Repr

/-- round_to_format of a nonzero exact value with unit exponent `qe`, with FTZ and the exceptions it signals
(R75, R79, R80). -/
def roundAt (F : Fmt) (P : Nat) (r : Rnd) (qe : Int) (x : Q) : Fv × BitVec 5 :=
  let neg := decide (x.num < 0)
  let n := roundUnits r.mode r.draw neg (x.abs.mul (Q.pow2 (-qe)))
  let y := Q.scaled neg n qe
  let tiny := x.abs.lt (Q.pow2 F.emin)
  if (F.max P).lt y.abs then (overflowResult F P r.mode r.satf neg, xOf ||| xNx)
  else if n = 0 then (.zero neg false, (if tiny then xUf else 0) ||| xNx)
  else if r.ftz && y.abs.lt (Q.pow2 F.emin) then (.zero neg false, xUf ||| xNx)
  else if y.eqv x then (.fin y, 0)
  else (.fin y, (if tiny then xUf else 0) ||| xNx)

/-- round_to_format of a nonzero exact value (R75). -/
def roundQ (F : Fmt) (P : Nat) (r : Rnd) (x : Q) : Fv × BitVec 5 :=
  roundAt F P r (max (x.log2 - (P - 1)) (F.emin - (F.p - 1))) x

/-- round_to_format of a value: zeros, infinities and NaNs are kept, but e4m3 has no infinity (R75, R82):
what an infinite source signals there, and the sign of its NaN, no rule says (log 60). -/
def roundFv (F : Fmt) (P : Nat) (r : Rnd) : Fv → Fv × BitVec 5
  | .fin q => roundQ F P r q
  | .inf s => if F.inf then (.inf s, 0) else if r.satf then (.fin (if s then (F.max F.p).neg else F.max F.p), 0) else (.nan false, 0)
  | .zero s _ => (.zero s false, 0)
  | .nan _ => (.nan false, 0)

/-- round_sig(x, n): round to odd at n significant bits, exponent unbounded (R75). -/
def roundSig (n : Nat) (x : Q) : Q :=
  let qe := x.log2 - (n - 1)
  Q.scaled (x.num < 0) (roundUnits 5 0 false (x.abs.mul (Q.pow2 (-qe)))) qe

/-- What a chain stage passes on: round_sig at Q bits, with the bounds of R84. -/
def streamFv (n : Nat) : Fv → Fv × BitVec 5
  | .fin q =>
    let y := roundSig n q
    if (Q.pow2 4096).le y.abs then (.inf (q.num < 0), xOf)
    else if y.abs.lt (Q.pow2 (-4096)) then (.zero (q.num < 0) true, xUf ||| xNx)
    else (.fin y, 0)
  | v => (v, 0)

/-- Whether round_sig at n bits drops nonzero digits: the sticky bit of a stream (R74). -/
def streamStk (n : Nat) : Fv → Bool
  | .fin q => !(roundSig n q).eqv q
  | _ => false

/-- The sign of a value. -/
def Fv.neg? : Fv → Bool
  | .nan s => s
  | .inf s => s
  | .zero s _ => s
  | .fin q => decide (q.num < 0)

/-- The exact value of a finite one. -/
def Fv.toQ : Fv → Q
  | .fin q => q
  | _ => ⟨0, 1⟩

/-- A rational as a value; 0 becomes the zero of the given sign. -/
def Fv.ofQ (q : Q) (zneg : Bool) : Fv := if q.isZero then .zero zneg false else .fin q

/-- Negation: every sign is inverted. -/
def Fv.negate : Fv → Fv
  | .nan s => .nan !s
  | .inf s => .inf !s
  | .zero s k => .zero (!s) k
  | .fin q => .fin q.neg

/-- The absolute value. -/
def Fv.abs (v : Fv) : Fv := if v.neg? then v.negate else v

/-- Whether a value is NaN. -/
def Fv.isNan : Fv → Bool
  | .nan _ => true
  | _ => false
/-- Whether a value is an infinity. -/
def Fv.isInf : Fv → Bool
  | .inf _ => true
  | _ => false
/-- Whether a value is a zero. -/
def Fv.isZero : Fv → Bool
  | .zero _ _ => true
  | _ => false

/-- The exact product (R78, R80). -/
def Fv.mul (a b : Fv) : Fv × BitVec 5 :=
  let s := a.neg? != b.neg?
  if a.isNan || b.isNan then (.nan false, 0)
  else if (a.isInf && b.isZero) || (a.isZero && b.isInf) then (.nan false, xInv)
  else if a.isInf || b.isInf then (.inf s, 0)
  else if a.isZero || b.isZero then (.zero s false, 0)
  else (.fin (a.toQ.mul b.toQ), 0)

/-- The exact sum; an exact zero sum of operands of opposite sign is +0, and -0 under RDN (R78). -/
def Fv.add (mode : Nat) (a b : Fv) : Fv × BitVec 5 :=
  if a.isNan || b.isNan then (.nan false, 0)
  else if a.isInf && b.isInf && a.neg? != b.neg? then (.nan false, xInv)
  else if a.isInf then (a, 0)
  else if b.isInf then (b, 0)
  else if a.isZero && b.isZero then (.zero (if a.neg? == b.neg? then a.neg? else mode == 3) false, 0)
  else (Fv.ofQ (a.toQ.add b.toQ) (mode == 3), 0)

/-- The exact sum of several terms with the flags of each. -/
def Fv.sum (mode : Nat) : List (Fv × BitVec 5) → Fv × BitVec 5
  | [] => (.zero false false, 0)
  | [x] => x
  | (x, f) :: ys =>
    let (y, g) := Fv.sum mode ys
    let (z, k) := Fv.add mode x y
    (z, f ||| g ||| k)

/-- The exact quotient (R80, R109). -/
def Fv.quot (a b : Fv) : Fv × BitVec 5 :=
  let s := a.neg? != b.neg?
  if a.isNan || b.isNan then (.nan false, 0)
  else if (a.isInf && b.isInf) || (a.isZero && b.isZero) then (.nan false, xInv)
  else if a.isInf then (.inf s, 0)
  else if b.isZero then (.inf s, xDz)
  else if a.isZero || b.isInf then (.zero s false, 0)
  else (.fin (a.toQ.div b.toQ), 0)

/-- a < b of values that are not NaN; with `z`, -0 is below +0 (R109). -/
def Fv.lt (z : Bool) (a b : Fv) : Bool :=
  match a, b with
  | .inf s, .inf t => s && !t
  | .inf s, _ => s
  | _, .inf t => !t
  | .zero s _, .zero t _ => z && s && !t
  | _, _ => a.toQ.lt b.toQ

/-- The lesser value; of a NaN and a number, the number (R109). -/
def Fv.min (a b : Fv) : Fv := if a.isNan then b else if b.isNan then a else if b.lt true a then b else a
/-- The greater value; of a NaN and a number, the number (R109). -/
def Fv.max (a b : Fv) : Fv := if a.isNan then b else if b.isNan then a else if a.lt true b then b else a

/-- compare of R110. -/
def Fv.compare (a b : Fv) : Cond → Bool
  | .eq => !(a.isNan || b.isNan) && !a.lt false b && !b.lt false a
  | .ne => a.isNan || b.isNan || a.lt false b || b.lt false a
  | .lt => !(a.isNan || b.isNan) && a.lt false b
  | .le => !(a.isNan || b.isNan) && !b.lt false a
  | .gt => !(a.isNan || b.isNan) && b.lt false a
  | .ge => !(a.isNan || b.isNan) && !a.lt false b
  | .ord => !(a.isNan || b.isNan)
  | .unord => a.isNan || b.isNan

/-- An exact result: a value, or a positive irrational number (negated when `neg`) given by rational bounds at k bits
of working precision. -/
inductive Ex where
  | val (v : Fv)
  | approx (neg : Bool) (enc : Nat → Q × Q)

/-- The largest r with r^2 ≤ n, by bits from `k` down. -/
def isqrtFrom (n : Nat) : Nat → Nat → Nat
  | 0, r => r
  | k + 1, r => isqrtFrom n k (if (r + 2 ^ k) * (r + 2 ^ k) ≤ n then r + 2 ^ k else r)
/-- The integer square root. -/
def isqrt (n : Nat) : Nat := isqrtFrom n (Nat.log2 n / 2 + 1) 0

/-- The square root of a positive rational. -/
def exSqrt (q : Q) : Ex :=
  let rn := isqrt q.num.natAbs
  let rd := isqrt q.den
  if rn * rn = q.num.natAbs ∧ rd * rd = q.den then .val (.fin (Q.of rn rd))
  else .approx false fun k =>
    let r := isqrt (q.num.natAbs * q.den * 4 ^ k)
    (Q.of r (q.den * 2 ^ k), Q.of (r + 1) (q.den * 2 ^ k))

/-- 2^k x the sum over i of sgn^i x y / ((2i + 1) n^(2i + 1)), from term i on, with `y` = 2^k / n^(2i + 1). -/
def atanTerms (alt : Bool) (n : Nat) : Nat → Nat → Nat → Int
  | 0, _, _ => 0
  | fuel + 1, i, y =>
    if y = 0 then 0
    else
      let t : Int := (y / (2 * i + 1) : Nat)
      (if alt && i % 2 == 1 then -t else t) + atanTerms alt n fuel (i + 1) (y / (n * n))
/-- 2^k x pi within 64 k units. -/
def fixPi (k : Nat) : Int :=
  16 * atanTerms true 5 (k + 4) 0 (2 ^ k / 5) - 4 * atanTerms true 239 (k + 4) 0 (2 ^ k / 239)
/-- 2^k x ln 2 within 8 k units. -/
def fixLn2 (k : Nat) : Int := 2 * atanTerms false 3 (k + 4) 0 (2 ^ k / 3)

/-- Taylor terms in 2^k fixed point: term i + 1 is term i x y / d(i), with the sign of every second term inverted when
`alt`; `step` is 1 for exp, 2 for sine and cosine (then y is the square). -/
def taylor (alt : Bool) (step k y : Nat) : Nat → Nat → Nat → Bool → Int
  | 0, _, _, _ => 0
  | fuel + 1, i, t, s =>
    if t = 0 then 0
    else
      let d := if step = 1 then i + 1 else (i + 1) * (i + 2)
      (if s then -(t : Int) else t) + taylor alt step k y fuel (i + step) (t * y / (2 ^ k) / d) (alt && !s)

/-- Bounds v ± e in units of 2^-k. -/
def around (k : Nat) (v : Int) (e : Nat) : Q × Q := (Q.of (v - e) (2 ^ k), Q.of (v + e) (2 ^ k))

/-- 2^k x a rational in [0, 2), rounded down. -/
def fixQ (k : Nat) (q : Q) : Nat := ((q.mul (Q.pow2 k)).floor).toNat

/-- 2^q (R108). Beyond ±20000 the power 2^±20000 stands for it: both lie outside every format and stream. -/
def exExp2 (q : Q) : Ex :=
  if (Q.int 20000).lt q then .val (.fin (Q.pow2 20000))
  else if q.lt (Q.int (-20000)) then .val (.fin (Q.pow2 (-20000)))
  else
    let n := q.floor
    let f := q.sub (Q.int n)
    if f.isZero then .val (.fin (Q.pow2 n))
    else .approx false fun k =>
      let y := (fixLn2 k).toNat * fixQ k f / 2 ^ k
      let (a, b) := around k (taylor false 1 k y (k + 4) 0 (2 ^ k) false) (64 * k + 64)
      (a.mul (Q.pow2 n), b.mul (Q.pow2 n))

/-- log2 of a positive rational (R108). -/
def exLog2 (q : Q) : Ex :=
  let e := q.log2
  let m := q.mul (Q.pow2 (-e))
  if (Q.int 1).eqv m then .val (Fv.ofQ (Q.int e) false)
  else
    -- ln m = 2 atanh z with z = (m - 1) / (m + 1) < 1/3
    let z := (m.sub (Q.int 1)).div (m.add (Q.int 1))
    let enc (k : Nat) : Q × Q :=
      let y := fixQ k z
      let rec terms : Nat → Nat → Nat → Int
        | 0, _, _ => 0
        | fuel + 1, i, t => if t = 0 then 0 else (t / (2 * i + 1) : Nat) + terms fuel (i + 1) (t * y / 2 ^ k * y / 2 ^ k)
      let ln := 2 * terms (k + 4) 0 y
      let v := ln * 2 ^ k / fixLn2 k
      around k v (64 * k + 64)
    if e < 0 then .approx true fun k => let (a, b) := enc k; ((Q.int (-e)).sub b, (Q.int (-e)).sub a)
    else .approx false fun k => let (a, b) := enc k; ((Q.int e).add a, (Q.int e).add b)

/-- sin(2 pi q) for q of denominator a power of 2 (R108): exact at the quarter turns. `z` is the value at an exact
zero. -/
def exSin (q : Q) (z : Fv) : Ex :=
  let r := q.sub (Q.int q.floor)
  let quad := ((r.mul (Q.int 4)).floor).toNat
  let y := r.sub (Q.of quad 4)
  let neg := decide (2 ≤ quad)
  if y.isZero then
    if quad % 2 = 0 then .val z else .val (.fin (Q.int (if neg then -1 else 1)))
  else .approx neg fun k =>
    let a := (2 * fixPi k).toNat * fixQ k y / 2 ^ k
    let a2 := a * a / 2 ^ k
    let v := if quad % 2 = 0 then taylor true 2 k a2 (k + 4) 1 a false else taylor true 2 k a2 (k + 4) 0 (2 ^ k) false
    around k v (256 * k + 256)

/-- An exact result rounded by `r`: bounds are narrowed until both round alike; past the last precision the model's
choice between the two is free (R83, log 7). -/
def Ex.roundAux {α : Type} [DecidableEq α] (neg : Bool) (enc : Nat → Q × Q) (r : Q → α) : Nat → Nat → α
  | 0, k => let (a, b) := enc k; r (let x := if Config.transSelect k then a else b; if neg then x.neg else x)
  | fuel + 1, k =>
    let (a, b) := enc k
    let ra := r (if neg then a.neg else a)
    if 0 < a.num ∧ ra = r (if neg then b.neg else b) then ra else Ex.roundAux neg enc r fuel (2 * k)

/-- The sticky bit of the stream of an exact result: an irrational number always drops digits (R74). -/
def Ex.stk (n : Nat) : Ex → Bool
  | .val v => streamStk n v
  | .approx _ _ => true

/-- An exact result rounded: values by `rv`, irrational numbers by `r`. -/
def Ex.round {α : Type} [DecidableEq α] (rv : Fv → α) : Ex → α
  | .val v => rv v
  | .approx neg enc => Ex.roundAux neg enc (fun q => rv (.fin q)) 7 96

end Sys2Proof.Machine
end

