-- ==== Sys2Proof/Machine/Objects.lean ====
section
/-! DEFINITION. The objects of the package: looking them up and putting them back, the issue view, notices and
notifications, and the counts of a barrier (spec/09_barrier.md R223 to R227). -/
namespace Sys2Proof.Machine

/-! ## Objects -/

/-- The polder with a PHANDLE (R375). -/
def State.polder? (s : State) (h : Nat) : Option Polder := findKey Polder.h h s.polders
/-- The polder with an identity, where it stands now. -/
def State.byUid (s : State) (u : Nat) : Option Polder := s.polders.find? (·.uid == u)
/-- A polder put back. -/
def State.setPolder (s : State) (p : Polder) : State := { s with polders := insertKey Polder.h p s.polders }
/-- A polder removed. -/
def State.dropPolder (s : State) (h : Nat) : State :=
  { s with polders := s.polders.filter (·.h != h), prefs := s.prefs.filter (·.1 != h) }
/-- The context with a number, unless it is FREE. -/
def State.ctx? (s : State) (c : Nat) : Option Ctx := findKey Ctx.c c s.ctxs
/-- A context put back. -/
def State.setCtx (s : State) (c : Ctx) : State := { s with ctxs := insertKey Ctx.c c s.ctxs }
/-- The queue with a number, unless it is unbound. -/
def State.queue? (s : State) (q : Nat) : Option Queue := findKey Queue.q q s.queues
/-- A queue put back. -/
def State.setQueue (s : State) (q : Queue) : State := { s with queues := insertKey Queue.q q s.queues }
/-- The grid with a name. -/
def State.grid? (s : State) (g : Nat) : Option Grid := findKey Grid.id g s.grids
/-- A grid put back. -/
def State.setGrid (s : State) (g : Grid) : State := { s with grids := insertKey Grid.id g s.grids }
/-- A new name. -/
def State.fresh (s : State) : Nat × State := (s.nextId, { s with nextId := s.nextId + 1 })

/-- The index of a free value used inside this step (log 1). -/
def State.draw (s : State) (tag : Nat) : Nat := s.free * 2 ^ 40 + tag
/-- A free choice below n (n > 0). -/
def State.choose (s : State) (tag n : Nat) : Nat := if n ≤ 1 then 0 else Config.freeNat (s.draw tag) % n
/-- The time-stamp in nanoseconds: 850 MHz beats at 1 GHz (R16). -/
def State.time (s : State) : Nat := s.beat * 20 / 17

/-- Whether the chains of a polder are frozen: it is halted, or stopped (R372, R377, R388). -/
def Polder.frozen (p : Polder) : Bool := p.halt.isSome || p.stopReq.isSome || p.dieHalt
/-- k beats pass for fascine f: the SLEEP counts follow (R174), and its chains run on (R97). -/
def Fascine.pass (f : Fascine) (sleeps runs : Bool) (k : Nat) : Fascine :=
  { f with r := { f.r with ents := if !sleeps then f.r.ents else f.r.ents.map fun (e : SplitEntry) =>
             if e.sleep = 0 then e else { e with sleep := e.sleep - k } },
           chains := if !runs then f.chains else f.chains.map fun (c : Chain) =>
             { c with left := c.left - min k ((f.r.ents[c.g]?).getD {}).sleep, ran := if c.mems.isEmpty then c.ran else c.ran + k } }
/-- k beats pass for a polder; a stopped one keeps its SLEEP counts (R377), and frozen chains stay (R372). -/
def Polder.pass (p : Polder) (k : Nat) : Polder :=
  { p with fs := p.fs.map (·.pass (!(p.stopReq.isSome || p.dieHalt)) (!p.frozen) k) }
/-- k beats pass for the package's polders. -/
def State.sleeps (s : State) (k : Nat) : State := { s with polders := s.polders.map (·.pass k) }
/-- Beats pass until beat b. -/
def State.passTo (s : State) (b : Nat) : State := if s.beat < b then { s.sleeps (b - s.beat) with beat := b } else s

/-- An event of a source (R410) takes place: when one of a higher source has taken place at the same time-stamp, it is of the
next one, so that events follow one another by time-stamp and then by source number (R16). -/
def State.arrive (s : State) (src : Nat) : State :=
  let s := if s.last.1 = s.time ∧ src < s.last.2 then s.passTo (s.beat + 1) else s
  { s with last := (s.time, src) }
/-- An event at a barrier takes place: when one with a later place in the order of R225 has taken place in this beat, it is of the
next one. -/
def State.barTurn (s : State) (place : Nat) : State :=
  let s := if s.barAt.1 = s.beat ∧ place < s.barAt.2 then s.passTo (s.beat + 1) else s
  { s with barAt := (s.beat, place) }
/-- The places of a landing, of fascine f's BEXP, of its arrivals, and of retirements, in the order of R225; BINIT has place 0. -/
def atLanding : Nat := 1
/-- BEXPs, in ascending fascine number. -/
def atBexp (f : Nat) : Nat := 2 + f
/-- Arrivals, in ascending fascine number. -/
def atArrival (f : Nat) : Nat := 66 + f
/-- Retirements and revivals. -/
def atRetirement : Nat := 130

/-- Source number of a host port (R410). -/
def srcPort (p : Nat) : Nat := 0x8000 + p
/-- Source number of the side-band port (R410). -/
def srcSide : Nat := 0x8002
/-- Source number of a die's notices (R410). -/
def srcDie (d : Nat) : Nat := 0x8010 + d
/-- Source number of a die link (R410). -/
def srcLink (l : Nat) : Nat := 0x8020 + l

/-- Nothing happens in the step but the passing of its beats. -/
def State.idle (s : State) : State := { s with cur := none, free := s.free + 1 }

/-- The core of a PHANDLE (R375). -/
def coreOf (h : Nat) : Nat := h / 512
/-- The die of a core (R12). -/
def dieOf (core : Nat) : Nat := core / 64
/-- The core of a polder. -/
def Polder.core (p : Polder) : Nat := coreOf p.h
/-- The die of a polder. -/
def Polder.die (p : Polder) : Nat := dieOf p.core
/-- The hop distance of two dies (R8). -/
def hops (a b : Nat) : Nat := popcount 2 (a ^^^ b)
/-- The dies that traffic from die a to die b enters: it corrects the column, then the row (R8). -/
def route (a b : Nat) : List Nat :=
  let m := a / 2 * 2 + b % 2
  (if m = a then [] else [m]) ++ (if b = m then [] else [b])
/-- The link between two neighbouring dies (R407). -/
def linkOf (a b : Nat) : Nat := if a / 2 = b / 2 then a / 2 else 2 + a % 2
/-- The physical die of a virtual die (R368). -/
def Ctx.pdie (c : Ctx) (v : Nat) : Option Nat := (c.vdt[v]?).getD none
/-- The lowest bound virtual die that names a physical die, which `vdie` reads (R368). -/
def Ctx.vdie (c : Ctx) (d : Nat) : Nat := ((List.range c.vdt.length).find? (fun v => c.pdie v == some d)).getD 0
/-- The die of the sequencer that serves a queue of a context (R350). -/
def Ctx.seqDie (c : Ctx) (q : Nat) : Nat := (c.pdie (q % max 1 c.vdt.length)).getD 0
/-- The dies that a context binds. -/
def Ctx.dies (c : Ctx) : List Nat := (c.vdt.filterMap id).eraseDups
/-- Whether a die is in reset (R22). -/
def State.dieDown (s : State) (d : Nat) : Bool := ((s.dies[d]?).getD {}).reset
/-- Whether traffic from die a to die b waits: at a link that retrains (R8), or for a die in reset (R22). -/
def State.waysShut (s : State) (a b : Nat) : Bool :=
  (route a b).any s.dieDown || ((a :: route a b).zip (route a b)).any fun x => ((s.links[linkOf x.1 x.2]?).getD {}).training
/-- The party that has no way to the home (host side, and the device's own words). -/
def atHome : Nat := 99
/-- The party that is an engine of die d which reads at the home, past its die's far ways (R293, R397); its writes update its
die's far copies as other engines' do (R246). -/
def pastFar (d : Nat) : Nat := 100 + d
/-- Whether a request of a party of die a to die b, or its reply, waits on its way (R8, R22); a party at the home has no way. -/
def State.cutOff (s : State) (a b : Nat) : Bool :=
  s.dieDown b || (a != atHome && (s.waysShut (a % 100) b || s.waysShut b (a % 100)))
/-- The die that carries a host port: 0 or 3 (R9, R15). -/
def portDie (p : Nat) : Nat := if p = 0 then 0 else 3
/-- Whether a host port is up. -/
def State.portUp (s : State) (p : Nat) : Bool := ((s.ports[p]?).getD { up := false }).up
/-- The port by which requests of a die leave: that of its own half of the package, or the other while that is down (R404). -/
def State.portFor (s : State) (d : Nat) : Option Nat :=
  let a := if d % 4 < 2 then 0 else 1
  if s.portUp a then some a else if s.portUp (1 - a) then some (1 - a) else none
/-- Whether a request of a die to host or peer memory waits: no port is up (R404), or the way to it is shut (R8, R22). -/
def State.hostShut (s : State) (d : Nat) : Bool :=
  match s.portFor d with
  | none => true
  | some p => d != atHome && s.cutOff d (portDie p)
/-- Whether no die is in reset and no link retrains. -/
def State.calm (s : State) : Bool := !s.dies.any (·.reset) && !s.links.any (·.training)
/-- Whether a party of a die can reach a place now: a device address at its home, another through a host port. -/
def State.reach (s : State) (die tgt home : Nat) : Bool := if tgt = 0 then !s.cutOff die home else !s.hostShut die
/-- A die changed. -/
def State.modDie (s : State) (d : Nat) (f : Die → Die) : State := { s with dies := modAt s.dies d f }
/-- A host port changed. -/
def State.modPort (s : State) (i : Nat) (f : Port → Port) : State := { s with ports := modAt s.ports i f }
/-- A fascine of a polder changed. -/
def Polder.modF (p : Polder) (i : Nat) (g : Fascine → Fascine) : Polder := { p with fs := modAt p.fs i g }
/-- A polder changed; no change when there is none. -/
def State.modPolder (s : State) (h : Nat) (g : Polder → Polder) : State :=
  match s.polder? h with
  | some p => s.setPolder (g p)
  | none => s
/-- A fascine of a placed polder changed. -/
def State.modFasc (s : State) (h f : Nat) (g : Fascine → Fascine) : State := s.modPolder h (fun p => p.modF f g)
/-- A fascine of a placed polder. -/
def State.fasc? (s : State) (h f : Nat) : Option Fascine := (s.polder? h).bind (·.fs[f]?)

/-! ## The issue view -/

/-- The sub-group that issues, with its fascine and polder (R18). -/
structure V where
  s : State
  l : Latch
  p : Polder
  f : Fascine
  e : SplitEntry
  deriving DecidableEq, Repr

/-- The sub-group that the issue latch names, when it is in use. -/
def State.view (s : State) : Option V :=
  match s.cur with
  | none => none
  | some l =>
    match s.polder? l.h with
    | none => none
    | some p =>
      match p.fs[l.f]? with
      | none => none
      | some f =>
        match f.r.ents[l.g]? with
        | none => none
        | some e => if e.val then some ⟨s, l, p, f, e⟩ else none

/-- The fascine of a view with its split-table entry put back. -/
def V.fasc (v : V) : Fascine := { v.f with r := { v.f.r with ents := setAt v.f.r.ents v.l.g v.e } }
/-- The polder of a view with its fascine put back. -/
def V.polder (v : V) : Polder := { v.p with fs := setAt v.p.fs v.l.f v.fasc }
/-- The state of a view: its parts put back, the issue latch empty, the free values of this step used up. -/
def V.put (v : V) : State := { v.s.setPolder v.polder with cur := none, free := v.s.free + 1 }

/-- The running threads of an entry, live(G) (R124, R158). -/
def SplitEntry.running (e : SplitEntry) : Mask := e.mask &&& ~~~e.park
/-- Mode fields (R43): ETYPE. -/
def etype (m : BitVec 24) : Nat := bits m.toNat 4 4
/-- RND. -/
def modeRnd (m : BitVec 24) : Nat := bits m.toNat 8 3
/-- SATF. -/
def modeSat (m : BitVec 24) : Bool := m.getLsbD 11
/-- PREC. -/
def modePrec (m : BitVec 24) : Nat := bits m.toNat 12 3
/-- FTZ. -/
def modeFtz (m : BitVec 24) : Bool := m.getLsbD 15
/-- Trap enables, in the layout of EXC (R43, R138). -/
def modeTen (m : BitVec 24) : BitVec 5 := m.extractLsb' 16 5
/-- ASCOPE. -/
def modeScope (m : BitVec 24) : Nat := bits m.toNat 21 3

/-- A sub-group sent to a slot; `entry` says that it enters the bundle there (R28). -/
def SplitEntry.goto (e : SplitEntry) (pc : Word) (entry : Bool) : SplitEntry :=
  { e with pc := pc, entry := entry, arrived := false, passed := false }

/-- slot_index of R24. -/
def slotIndex (o : Nat) : Nat := 3 * (o / 16) + (o / 4 % 4 - 1)
/-- slot_offset of R24. -/
def slotOffset (k : Nat) : Nat := 16 * (k / 3) + 4 * (k % 3 + 1)
/-- Whether an access is a closing store to a window (R187). -/
def Access.closes (a : Access) (window : Nat) : Bool :=
  match a.loc with
  | .culvert w c _ => c && w == window
  | _ => false
/-- A valid slot offset (R24). -/
def validSlot (o : Nat) : Bool := o % 4 == 0 && o / 4 % 4 != 0
/-- The slot after a slot in the order of R25. -/
def nextSlot (pc : Word) : Word := BitVec.ofNat 32 (slotOffset (slotIndex pc.toNat + 1))

/-! ## Notices and notifications -/

/-- A notification record for a port (R406): it waits in the device; past 1024 waiting, kinds 1 and 3 are lost. -/
def Port.notify (p : Port) (r : NRec) : Port :=
  if p.wait.length ≥ 1024 && (r.kind == 1 || r.kind == 3) then { p with lost := p.lost + 1 }
  else { p with wait := p.wait ++ [r] }

/-- Whether a step has put a record in line past the 1024 that a port holds: no record of kinds 1 and 3, which are discarded there, but
of a kind that holds the event that raised it (R406). -/
def State.crowds (s t : State) : Bool := (s.ports.zip t.ports).any fun (a, b) => decide (1024 < b.wait.length) && decide (a.wait.length < b.wait.length)
/-- An event that a full line of records holds does not take place yet (R406): its beats pass. -/
def State.unlessHeld (s : State) : Host.Outcome State Fault Refusal → Host.Outcome State Fault Refusal
  | .next t => .next (if s.crowds t then s.idle else t)
  | o => o

/-- A notification of a context on its notification port (R405, R406). -/
def State.notify (s : State) (kind c q det0 det1 : Nat) : State :=
  match s.ctx? c with
  | none => s
  | some x => s.modPort x.port (·.notify ⟨kind, c, q, s.time, det0, det1⟩)

/-- A notice for a context waits to become an event packet (R364): past 64 waiting, it merges into the newest waiting
one of its class, and one of a class of which none waits is lost (log 80). -/
def State.notice (s : State) (c : Nat) (n : Notice) : State :=
  match s.ctx? c with
  | none => s
  | some x =>
    let evq :=
      if x.evq.length < 64 then x.evq ++ [n]
      else
        match x.evq.reverse.findIdx? (·.cls == n.cls) with
        | some i => (modAt x.evq.reverse i fun m => { m with ovf := true }).reverse
        | none => x.evq
    s.setCtx { x with evq := evq }

/-! ## Barriers (R225 to R227) -/

/-- complete_check (R225). -/
def Bar.check (b : Bar) : Bar :=
  if !b.err && b.exparr ≤ b.arr && b.bytes == 0 then
    { b with phase := (b.phase + 1) % 65536, arr := 0, scope := 2,
             wide := (if 2 < b.scope then [(b.phase, b.scope)] else []) ++ b.wide.filter (·.1 != b.phase) }
  else b
/-- The widest scope of the landings counted in the phases since `snap` (R218, R229). -/
def Bar.scopeSince (b : Bar) (snap : Nat) : Nat :=
  b.wide.foldl (fun a x => if (x.1 + 65536 - snap) % 65536 < (b.phase + 65536 - snap) % 65536 then max a x.2 else a) 2
/-- The counting part of arrive (R225). -/
def Bar.arrive (b : Bar) : Bar :=
  if b.arr == 0xFFFF then { b with err := true } else Bar.check { b with arr := b.arr + 1 }
/-- A landing of n bytes (R227), a release at a scope (R218): counted while in range, in ERRED too (R228); one on a ring barrier
sets ERR (R230). -/
def Bar.land (b : Bar) (n : Int) (scope : Nat) : Bar :=
  let b := { b with scope := max b.scope scope, err := b.err || b.ring }
  if b.bytes - n < -(2 ^ 31) then { b with err := true } else Bar.check { b with bytes := b.bytes - n }
/-- A barrier as its 16 bytes of storage (R223). -/
def Bar.bytes16 (b : Bar) : List Byte :=
  leBytes 2 b.exparr ++ leBytes 2 b.arr ++ leBytes 4 (wrap 32 b.bytes) ++ leBytes 2 b.phase ++
    leBytes 1 ((if b.auto then 1 else 0) + (if b.ring then 2 else 0) + (if b.err then 4 else 0)) ++ leBytes 5 0
/-- A barrier from its storage (R223). -/
def Bar.ofBytes (r : List Byte) : Bar :=
  { exparr := field r 0 16, arr := field r 16 16, bytes := signed 32 (field r 32 32), phase := field r 64 16,
    auto := flag r 80, ring := flag r 81, err := flag r 82 }

end Sys2Proof.Machine
end

