-- ==== Sys2Proof/Machine/Mem.lean ====
section
/-! DEFINITION. Memory as the parties reach it: page walks and cached translations (spec/16_page.md), the L1s, far ways
and home slices (spec/07_polder_ring.md R189 to R192), poison (R130), and engine accesses (R218, R246, R400). -/
namespace Sys2Proof.Machine

/-! ## Translation -/

/-- Bytes of device memory (R394). -/
def deviceSize : Nat := 2 ^ 37
/-- Space selector of a generic address (R186). -/
def spaceOf (a : Nat) : Nat := a / 2 ^ 56
/-- Whether a generic address lies in the global space (R186). -/
def isGlobal (a : Nat) : Bool := a < 2 ^ 52
/-- Whether n bytes at a generic address lie below `size` in the space with selector `sel` and offsets of `w` bits. -/
def inWindow (sel w a n size : Nat) : Bool :=
  spaceOf a == sel && a % 2 ^ 56 < 2 ^ w && a % 2 ^ w + n ≤ size

/-- Lowest address bit that a leaf of a level maps (R393). -/
def levelShift : Nat → Nat
  | 0 => 16
  | 1 => 21
  | 2 => 30
  | _ => 39
/-- The index of a virtual address at a level (R393). -/
def levelIndex (va : Nat) : Nat → Nat
  | 0 => bits va 16 5
  | 1 => bits va 21 9
  | 2 => bits va 30 9
  | _ => bits va 39 13

/-- A failed translation: address, cause and level of R395, and whether it was a write. -/
structure PFault where
  va : Nat
  cause : Nat
  level : Nat
  write : Bool
  deriving DecidableEq, Repr

/-- The first check that a page table entry fails apart from the leaf's rights, in the order of R395; 0: none. -/
def entryCause (c : Ctx) (lvl e : Nat) : Nat :=
  let leaf := bit e 1
  let tgt := bits e 9 2
  let addr := if leaf then bits e 16 48 * 2 ^ 16 else bits e 12 52 * 2 ^ 12
  if !bit e 0 then 1
  else if bit e 11 || (leaf && bits e 12 4 != 0) || tgt == 3 || (!leaf && tgt != 0) || (leaf && lvl == 3)
      || (!leaf && lvl == 0) || (leaf && addr % 2 ^ levelShift lvl != 0) then 4
  else if !(leaf && bit e 6) && (c.pdie (bits e 7 2)).isNone then 6
  else if (if tgt == 0 then deviceSize else 2 ^ 52) < addr + (if leaf then 2 ^ levelShift lvl else 4096) then 5
  else 0

/-- A walk from a table (R393) for a party of die `die`: the leaf and its level, or the cause and level of the entry that
fails (R395); cause 0: its table's home cannot be reached, and the walk waits (R22). Entries are read at the home slice
(R397), which is on the virtual die `vd`. -/
def walkFrom (s : State) (c : Ctx) (die va : Nat) : Nat → Nat → Nat → Except (Nat × Nat) (Nat × Nat)
  | fuel, vd, table =>
    if s.cutOff die ((c.pdie vd).getD 0) then .error (0, fuel) else
    let e := leNat (s.dev.readN (table + 8 * levelIndex va fuel) 8)
    match entryCause c fuel e, fuel with
    | 0, 0 => .ok (e, 0)
    | 0, l + 1 => if bit e 1 then .ok (e, l + 1) else walkFrom s c die va l (bits e 7 2) (bits e 12 52 * 2 ^ 12)
    | k, l => .error (k, l)

/-- The walk of a virtual address, PTROOT first (R395). -/
def walk (s : State) (c : Ctx) (die va : Nat) : Except (Nat × Nat) (Nat × Nat) :=
  if bits c.ptroot 2 14 != 0 then .error (4, 3)
  else if (c.pdie (c.ptroot % 4)).isNone then .error (6, 3)
  else if deviceSize < c.ptroot / 2 ^ 16 * 2 ^ 16 + 2 ^ 16 then .error (5, 3)
  else walkFrom s c die va 3 (c.ptroot % 4) (c.ptroot / 2 ^ 16 * 2 ^ 16)

/-- The generation of an address space (R397). -/
def State.gen (s : State) (asid : Nat) : Nat := SMap.get 0 s.gens asid

/-- Cached translations of the current generation that cover an address, in the caches of a die and its cores (R397). -/
def State.cached (s : State) (c : Ctx) (die va : Nat) : List Tlb :=
  s.tlb.filter fun t => t.die == die % 100 && t.asid == c.asid && t.gen == s.gen c.asid && t.base ≤ va && va < t.base + t.size

/-- The place of a virtual address under a leaf (R191, R393). -/
def leafLoc (c : Ctx) (leaf base va : Nat) : Loc :=
  let x := bits leaf 16 48 * 2 ^ 16 + (va - base)
  let v := if bit leaf 6 then (x / 2 ^ 11) % c.vdt.length else bits leaf 7 2
  .glob (bits leaf 9 2) x ((c.pdie v).getD 0)

/-- Translation of a virtual address for a read (0), a write (1) or a fetch (2) by a party of die `die` (R393 to R397): the
place, the leaf's page for the caches, or the fault; cause 0: it waits (R22). Whether a walk serves it or a translation that the
die's caches hold, and which of these, is free (log 4). -/
def State.translate (s : State) (c : Ctx) (va kind tag : Nat) (die : Nat := atHome) : Except PFault (Loc × Tlb) :=
  let fresh : Except (Nat × Nat) Tlb :=
    match walk s c die va with
    | .error e => .error e
    | .ok (leaf, lvl) =>
      let size := 2 ^ levelShift lvl
      .ok ⟨die % 100, c.asid, s.gen c.asid, va / size * size, size, leaf⟩
  let old := s.cached c die va
  let got := match old[s.choose (tag + 2 ^ 36) (old.length + 1)]? with
    | none => fresh
    | some t => .ok t
  match got with
  | .error (k, l) => .error ⟨va, k, l, kind == 1⟩
  | .ok t =>
    let lvl := if t.size = 2 ^ 16 then 0 else if t.size = 2 ^ 21 then 1 else 2
    if kind == 1 && !bit t.leaf 2 then .error ⟨va, 2, lvl, true⟩
    else if kind == 2 && !bit t.leaf 3 then .error ⟨va, 3, lvl, false⟩
    else .ok (leafLoc c t.leaf t.base va, t)

/-- A translation kept in the caches (R397). -/
def State.keepTlb (s : State) (t : Tlb) : State := if s.tlb.contains t then s else { s with tlb := t :: s.tlb }

/-! ## Device memory, sectors and poison -/

/-- The home address of a sector (R130: 32 bytes). -/
def sectorOf (x : Nat) : Nat := x / 32 * 32
/-- The memory behind a target (R394). -/
def State.memOf (s : State) : Nat → Memory
  | 0 => s.dev
  | 1 => s.host
  | _ => s.peer
/-- The memory behind a target replaced. -/
def State.setMem (s : State) (tgt : Nat) (m : Memory) : State :=
  match tgt with
  | 0 => { s with dev := m }
  | 1 => { s with host := m }
  | _ => { s with peer := m }
/-- Whether a sector of device memory is poisoned. -/
def State.poisoned (s : State) (x : Nat) : Bool := s.pois.contains (sectorOf x)
/-- What an engine reads of host or peer memory: all-ones for a request that times out (R404). -/
def State.hostRead (s : State) (tgt x n : Nat) : List Byte :=
  if s.timed = some s.free then List.replicate n 0xFF else (s.memOf tgt).readN x n
/-- A sector address added to or taken from a list of poisoned sectors. -/
def markSector (l : List Nat) (x : Nat) (p : Bool) : List Nat :=
  let r := l.filter (· != sectorOf x)
  if p then sectorOf x :: r else r

/-- A sector is written: a collective whose SEND it belongs to runs meanwhile (R257). -/
def Coll.touch (c : Coll) (tgt x : Nat) : Coll :=
  let y := (tgt, sectorOf x)
  if c.seen.contains y && !c.dirt.contains y then { c with dirt := y :: c.dirt } else c

/-- n bytes at a place have been written: a bundle among them has held what the memory `m` behind it holds now (R27). -/
def CodeLog.touch (h : CodeLog) (tgt x n : Nat) (m : Memory) : CodeLog :=
  if h.tgt = tgt ∧ x < h.x + 16 ∧ h.x < x + n then
    let b := m.readN h.x 16
    if h.seen.contains b then h else { h with seen := b :: h.seen }
  else h

/-- A bundle that a launch may fetch from now on, with what it holds now (R27). -/
def State.noteCode (s : State) (launch tgt x : Nat) : State :=
  if s.codes.any fun h => h.launch == launch && h.tgt == tgt && h.x == x then s
  else { s with codes := ⟨launch, tgt, x, [(s.memOf tgt).readN x 16]⟩ :: s.codes }

/-- Bytes within one sector written at the home of a place: they land, cached copies of `die` follow (R192), and
poison is set, kept or, by a write of a whole sector, cleared (R130). -/
def State.writeHome (s : State) (tgt x : Nat) (bs : List Byte) (die : Option Nat) (pois : Bool) : State :=
  let m := Memory.writeN (s.memOf tgt) x bs
  let s := { s.setMem tgt m with colls := s.colls.map fun (c : Coll) => c.touch tgt x,
                                 codes := s.codes.map fun (h : CodeLog) => h.touch tgt x bs.length m }
  if tgt ≠ 0 then s
  else
    let whole := bs.length == 32
    { s with pois := if pois then markSector s.pois x true else if whole then markSector s.pois x false else s.pois,
             far := s.far.map fun c =>
               if some c.owner = die ∧ c.x = sectorOf x then
                 { c with bytes := patch c.bytes (x - c.x) bs, pois := pois || (c.pois && !whole) }
               else c }

/-- The fields of a context's descriptor that the device writes: CSTATE, QUOTA, DBG and HOLD (R366). The table lies at
translated device addresses (log 15). -/
def State.putDescriptor (s : State) (c cstate quota dbg : Nat) (hold : Bool) : State :=
  let a := s.ctxbase.toNat + 128 * c
  let b0 := (s.dev.read a).toNat / 8 * 8 + cstate
  let s := s.writeHome 0 a (leBytes 1 b0) none false
  let s := s.writeHome 0 (a + 20) (leBytes 4 quota) none false
  s.writeHome 0 (a + 58) (leBytes 1 (dbg % 8 + if hold then 8 else 0)) none false
/-- A context put back, with those fields. -/
def State.putCtx (s : State) (x : Ctx) : State :=
  (s.setCtx x).putDescriptor x.c (if x.dead then 3 else if x.hold then 2 else 1) x.quota.toNat x.dbg x.hold

/-- The polders of a ring that are placed. -/
def State.ringOf (s : State) (p : Polder) : List Polder := s.polders.filter (fun x => x.ctx == p.ctx && x.ring == p.ring)

/-- The core whose L1 holds an address for a polder (R185, R189). -/
def Polder.l1Core (p : Polder) (x : Nat) : Nat :=
  if p.fuse && 1 < p.rcores then p.kcores.getD (x / 128 % max 1 p.kcores.length) p.core else p.core

/-- The far copy or the home sector of a device address as die `die` reads it; whether a far copy that exists still
serves is free, since the ways may have evicted it (R192, R194; log 4). A tag of 2^39 or more asks for it when it exists. -/
def State.l2Sector (s : State) (die home x tag : Nat) (skipFar : Bool) : List Byte × Bool :=
  let own := (s.dev.readN (sectorOf x) 32, s.poisoned x)
  if die = home || skipFar then own
  else
    match s.far.find? fun c => c.owner == die && c.x == sectorOf x with
    | none => own
    | some c => if 2 ^ 39 ≤ tag || Config.freeBool (s.draw (tag + 2 ^ 37)) then (c.bytes, c.pois) else own

/-- A copy of a sector kept by an owner, replacing the one it held. -/
def putSector (l : List Sector) (c : Sector) : List Sector :=
  c :: l.filter fun d => !(d.owner == c.owner && d.x == c.x && d.tgt == c.tgt)
/-- A copy of a sector dropped by an owner. -/
def dropSector (l : List Sector) (owner tgt x : Nat) : List Sector :=
  l.filter fun d => !(d.owner == owner && d.x == sectorOf x && d.tgt == tgt)

/-- The page class of a leaf (R193, R393). -/
def pageClass (leaf : Nat) : Nat := bits leaf 4 2
/-- Whether the quotas of a context keep a far copy of a line of a page class (R193, R194). -/
def Ctx.keepsFar (c : Ctx) (cls : Nat) : Bool := bits c.quota.toNat 20 5 != 0 && bits c.quota.toNat (5 * cls) 5 != 0
/-- The sector that a read by die `die` leaves in its far ways; where it keeps none, an older copy is gone too (R192, R194). -/
def State.leaveFar (s : State) (keep : Bool) (die home x : Nat) (b : List Byte) (q : Bool) : State :=
  if die = home then s
  else if keep then { s with far := putSector s.far { owner := die, x := sectorOf x, bytes := b, pois := q } }
  else { s with far := s.far.filter fun d => !(d.owner == die && d.x == sectorOf x && d.tgt == 0) || (d.bytes == b && d.pois == q) }

/-- A thread's read of n bytes within one sector of global memory (R189, R192, R197): through the L1, which holds data of
device, host and peer pages alike, or past it, which drops the L1's copy (R206); `skipFar` for an LDA at package scope or
wider; `keep` says that the quotas allow a far copy (R194). Answers the bytes, their poison and the state with its
caches filled. Whether an L1 copy that exists still serves is free (log 4). -/
def State.readGlob (s : State) (p : Polder) (l1 skipFar keep : Bool) (tgt x home n tag : Nat) : List Byte × Bool × State :=
  let sx := sectorOf x
  let core := p.l1Core x
  let cut (b : List Byte) := (b.drop (x - sx)).take n
  let miss : List Byte × Bool × State :=
    let (b, q) : List Byte × Bool := if tgt ≠ 0 then ((s.memOf tgt).readN sx 32, false) else s.l2Sector p.die home x tag skipFar
    let s := if tgt ≠ 0 || skipFar then s else s.leaveFar keep p.die home x b q
    let s := { s with l1 := if l1 then putSector s.l1 ⟨core, sx, b, q, tgt⟩ else dropSector s.l1 core tgt x }
    (cut b, q, s)
  match if l1 then s.l1.find? fun c => c.owner == core && c.x == sx && c.tgt == tgt else none with
  | none => miss
  | some c => if Config.freeBool (s.draw (tag + 2 ^ 38)) then (cut c.bytes, c.pois, s) else miss

/-- A thread's store of bytes within one sector of global memory: written through to the home slice, updating the
copies that the core's L1 and the die's far ways hold (R189, R192). -/
def State.writeGlob (s : State) (p : Polder) (tgt x : Nat) (bs : List Byte) : State :=
  let s := s.writeHome tgt x bs (some p.die) false
  let core := p.l1Core x
  { s with l1 := s.l1.map fun c =>
      if c.owner = core ∧ c.x = sectorOf x ∧ c.tgt = tgt then { c with bytes := patch c.bytes (x - c.x) bs } else c }

/-- An acquire's invalidations by a polder at a scope (R190, R192). -/
def State.invalidate (s : State) (p : Polder) (scope : Nat) : State :=
  let fused := p.fuse && 1 < p.rcores
  let cores := if fused then p.kcores else [p.core]
  let s := if (if fused then 4 else 3) ≤ scope then { s with l1 := s.l1.filter fun c => !cores.contains c.owner } else s
  if 5 ≤ scope then { s with far := s.far.filter fun c => c.owner != p.die } else s

/-- n bytes of a polder's scratchpad and whether a sector read is poisoned. -/
def Polder.spRead (p : Polder) (o n : Nat) : List Byte × Bool :=
  (p.spad.readN o n, p.spois.any fun x => decide (x < o + n) && decide (o < x + 32))
/-- Bytes written to a polder's scratchpad; a write of whole sectors clears or sets their poison, a part of one
sets it or leaves it (R130). -/
def Polder.spWrite (p : Polder) (o : Nat) (bs : List Byte) (pois : Bool) : Polder :=
  let n := bs.length
  let touched := (List.range ((n + 62) / 32)).map (fun i => sectorOf o + 32 * i) |>.filter (· < o + n)
  { p with spad := Memory.writeN p.spad o bs,
           spois := touched.foldl
             (fun l x => if pois then markSector l x true
               else if o ≤ x && x + 32 ≤ o + n then markSector l x false else l) p.spois }

/-! ## Engine accesses -/

/-- The size of the piece of n bytes at address x that lies in one sector. -/
def piece (x n : Nat) : Nat := min n (32 - x % 32)

/-- An engine's read of n bytes of the global space by a context (R218, R246): past every L1, through the far ways of
its die. Cause 0 says that the home cannot be reached now, for which the access waits (R8, R22). -/
def State.gread (s : State) (c : Ctx) (die tag : Nat) : Nat → Nat → Nat → Except PFault (List Byte × Bool)
  | 0, _, _ => .ok ([], false)
  | fuel + 1, va, n =>
    if n = 0 then .ok ([], false)
    else
      match s.translate c va 0 (tag + fuel) die with
      | .error e => .error e
      | .ok (.glob tgt x home, _) =>
        if !s.reach die tgt home then .error ⟨va, 0, 0, false⟩ else
        let k := piece x n
        let here : List Byte × Bool :=
          if tgt ≠ 0 then (s.hostRead tgt x k, false)
          else (let (b, q) := s.l2Sector die home x (tag + fuel) false; ((b.drop (x - sectorOf x)).take k, q))
        match State.gread s c die tag fuel (va + k) (n - k) with
        | .error e => .error e
        | .ok (bs, q) => .ok (here.1 ++ bs, here.2 || q)
      | .ok _ => .ok ([], false)

/-- The far copies that an engine's read of n bytes by a die leaves there (R192, R194). -/
def State.gfill (s : State) (c : Ctx) (die tag : Nat) : Nat → Nat → Nat → State
  | 0, _, _ => s
  | fuel + 1, va, n =>
    if n = 0 then s
    else
      match s.translate c va 0 (tag + fuel) die with
      | .ok (.glob 0 x home, t) =>
        let (b, q) := s.l2Sector die home x (tag + fuel) false
        let k := piece x n
        State.gfill (s.leaveFar (c.keepsFar (pageClass t.leaf)) die home x b q) c die tag fuel (va + k) (n - k)
      | _ => s

/-- Far copies left in a die's ways by reads of an engine that the model does not list one by one: any of those at the virtual
addresses that `va` gives, where the quotas of their page's class keep one (R192, R194; log 4). -/
def State.strayFar (s : State) (c : Ctx) (die : Nat) (va : Nat → Option Nat) : State :=
  if bits c.quota.toNat 20 5 = 0 then s
  else
    (List.range (s.choose (2 ^ 39 + 2 ^ 38) (2 ^ 22))).foldl (fun (z : State) i =>
      match (va i).map fun a => z.translate c a 0 0 with
      | some (.ok (.glob 0 x home, t)) =>
        if c.keepsFar (pageClass t.leaf) then z.leaveFar true die home x (z.dev.readN (sectorOf x) 32) (z.poisoned x) else z
      | _ => z) s
/-- A free address in one of some ranges (first byte, bytes). -/
def State.strayAt (s : State) (rs : List (Nat × Nat)) (i : Nat) : Option Nat :=
  (rs[s.choose (2 ^ 39 + 2 ^ 38 + 2 ^ 37 + 2 * i) rs.length]?).bind fun r =>
    if r.2 = 0 then none else some (r.1 + s.choose (2 ^ 39 + 2 ^ 38 + 2 ^ 37 + 2 * i + 1) r.2)

/-- An engine's write of bytes to the global space: it updates its die's far copy and the home (R246). -/
def State.gwrite (s : State) (c : Ctx) (die tag : Nat) (pois : Bool) : Nat → Nat → List Byte → Except PFault State
  | 0, _, _ => .ok s
  | fuel + 1, va, bs =>
    if bs.isEmpty then .ok s
    else
      match s.translate c va 1 (tag + fuel) die with
      | .error e => .error e
      | .ok (.glob tgt x home, _) =>
        if !s.reach die tgt home then .error ⟨va, 0, 0, true⟩ else
        let k := piece x bs.length
        State.gwrite (s.writeHome tgt x (bs.take k) (some (die % 100)) pois) c die tag pois fuel (va + k) (bs.drop k)
      | .ok _ => .ok s

/-- The L1 copies that a polder's cores hold of n bytes of the global space dropped: after the release of an engine's writes at
polder scope, no load of the polder may return an older value (R210, R218). -/
def State.dropL1 (s : State) (c : Ctx) (p : Polder) (die tag : Nat) : Nat → Nat → Nat → State
  | 0, _, _ => s
  | fuel + 1, va, n =>
    if n = 0 then s
    else
      match s.translate c va 1 (tag + fuel) die with
      | .ok (.glob tgt x _, _) =>
        let k := piece x n
        let cores := if p.fuse && 1 < p.rcores then p.kcores else [p.core]
        State.dropL1 { s with l1 := s.l1.filter fun z => !(cores.contains z.owner && z.tgt == tgt && z.x == sectorOf x) } c p die tag fuel
          (va + k) (n - k)
      | _ => s

/-- Where the scratchpad image of a save image begins: it is the last section (R379); none: its header cannot be read now. -/
def State.spImage (s : State) (c : Ctx) (img : Nat) : Option Nat :=
  match s.gread c atHome 0 40 img 32 with
  | .ok (h, _) => some (img + field h 80 32 - field h 192 32)
  | .error _ => none

/-- Bytes of the scratchpad of a polder that is placed or saved (R382). -/
def State.spRead (s : State) (h o n : Nat) : Option (List Byte × Bool) :=
  match s.polder? h with
  | some p => some (p.spRead o n)
  | none =>
    match s.saved.find? (·.p.h == h) with
    | none => none
    | some z =>
      match s.ctx? z.p.ctx with
      | none => none
      | some c => (s.spImage c z.img).bind fun a => (s.gread c atHome 0 (n / 32 + 2) (a + o) n).toOption
/-- Bytes written to the scratchpad of a polder that is placed, or to the image of a saved one (R382); none: the image cannot
be written now. -/
def State.spPut (s : State) (h o : Nat) (bs : List Byte) (pois : Bool) : Option State :=
  match s.polder? h with
  | some p => some (s.setPolder (p.spWrite o bs pois))
  | none =>
    match s.saved.find? (·.p.h == h) with
    | none => some s
    | some z =>
      match s.ctx? z.p.ctx with
      | none => some s
      | some c => (s.spImage c z.img).bind fun a => (s.gwrite c atHome 0 pois (bs.length / 32 + 2) (a + o) bs).toOption
/-- The same, where it can be written. -/
def State.spWrite (s : State) (h o : Nat) (bs : List Byte) (pois : Bool) : State := (s.spPut h o bs pois).getD s

/-- An engine's read at a generic address for polder h: scratchpad, or global (R186). -/
def State.eread (s : State) (c : Ctx) (h die tag a n : Nat) : Except PFault (List Byte × Bool) :=
  if spaceOf a = 0xFE then
    match s.spRead h (a % 2 ^ 32) n with
    | some x => .ok x
    | none => .error ⟨a, 0, 0, false⟩
  else s.gread c die tag (n / 32 + 2) a n
/-- An engine's write at a generic address for polder h. -/
def State.ewrite (s : State) (c : Ctx) (h die tag a : Nat) (bs : List Byte) (pois : Bool) : Except PFault State :=
  if spaceOf a = 0xFE then
    match s.spPut h (a % 2 ^ 32) bs pois with
    | some s => .ok s
    | none => .error ⟨a, 0, 0, true⟩
  else s.gwrite c die tag pois (bs.length / 32 + 2) a bs

/-- A held access (R400): recorded once per owner, and notified once per page and cause. -/
def State.holdFault (s : State) (c : Ctx) (o : Owner) (f : PFault) : State :=
  let page := f.va / 2 ^ 16 * 2 ^ 16
  if f.cause == 0 || s.faults.any (fun a => a.owner == o && a.va == page) then s
  else
    let seen := s.faults.any fun a => a.ctx == c.c && a.va == page && a.cause == f.cause && !a.ended
    let s := { s with faults := s.faults ++ [{ ctx := c.c, va := page, write := f.write, cause := f.cause, owner := o,
                                               ended := c.dead }] }
    if seen then s else s.notify 5 c.c 0 f.va f.cause

/-- The access that an owner holds (R400). -/
def State.heldBy (s : State) (o : Owner) : Option Fault400 := s.faults.find? (·.owner == o)
/-- The held accesses of an owner forgotten. -/
def State.clearFaults (s : State) (o : Owner) : State := { s with faults := s.faults.filter (·.owner != o) }

end Sys2Proof.Machine
end

