-- ==== Sys2Proof/Machine/Ops.lean ====
section
/-! DEFINITION. Named operations: the barriers of placed and saved polders (spec/09_barrier.md), exits and retirement, and
taking a trap and returning from one (spec/15_context.md R371 to R376). -/
namespace Sys2Proof.Machine

/-! ## Barriers of placed and saved polders (R226, R230, R231) -/

/-- Fascines of a polder that still hold a thread. -/
def Polder.live (p : Polder) : Nat := (p.fs.filter (fun f => !f.retired)).length
/-- A saved polder (R382). -/
def State.saved? (s : State) (h : Nat) : Option Saved := s.saved.find? (·.p.h == h)

/-- Barrier b of polder h, placed or saved: a saved one stands in its scratchpad image (R231, R382). -/
def State.bar? (s : State) (h b : Nat) : Option Bar :=
  match s.polder? h with
  | some p => p.bars[b]?
  | none =>
    match s.saved? h with
    | none => none
    | some z => if b < z.p.bars.length then (s.spRead h (z.p.spsize + 16 * b) 16).map fun x => Bar.ofBytes x.1 else none
/-- Barrier b of polder h changed; none: it stands in an image that cannot be read or written now. -/
def State.modBar? (s : State) (h b : Nat) (f : Bar → Bar) : Option State :=
  match s.polder? h with
  | some p => some (s.setPolder { p with bars := modAt p.bars b f })
  | none =>
    match s.saved? h, s.bar? h b with
    | some z, some x => s.spPut h (z.p.spsize + 16 * b) (f x).bytes16 false
    | none, _ => some s
    | _, none => none
/-- An event that a saved polder's image cannot take now: it is counted when the image can, at the latest at the restore (R231,
R382). -/
def State.owe (s : State) (h : Nat) (e : Owed) : State :=
  { s with saved := s.saved.map fun (z : Saved) => if z.p.h = h then { z with owed := z.owed ++ [e] } else z }
/-- Whether a polder was sampled for its save in this very beat (R383). -/
def State.inSample (s : State) (h : Nat) : Bool :=
  match s.saved? h with
  | some z => z.beat == s.beat
  | none => s.sampled.any fun x => x.h == h && x.beat == s.beat
/-- An event at barrier b of a polder that is placed, or of which the image can take it; else it is owed. -/
def State.barEvent (s : State) (h b : Nat) (f : Bar → Bar) (e : Owed) : State :=
  match s.saved? h with
  | some z => if !z.owed.isEmpty || z.beat == s.beat then s.owe h e else (s.modBar? h b f).getD (s.owe h e)
  | none => (s.modBar? h b f).getD s

/-- The leader of a polder's ring: its polder with the lowest `pl`, placed or saved (R230, R231). -/
def State.leader (s : State) (p : Polder) : Nat :=
  let all := (s.ringOf p).map (fun x => (x.pl, x.h)) ++
    (s.saved.filter fun z => z.p.ctx == p.ctx && z.p.ring == p.ring).map fun z => (z.p.pl, z.p.h)
  (all.foldl (fun a x => if x.1 < a.1 then x else a) (p.pl, p.h)).2
/-- Live fascines of a polder's ring, saved polders included (R226, R230). -/
def State.ringLive (s : State) (p : Polder) : Nat :=
  (s.ringOf p).foldl (fun n x => n + x.live) 0 +
    (s.saved.filter fun z => z.p.ctx == p.ctx && z.p.ring == p.ring).foldl (fun n z => n + z.live) 0

/-- EXPARR of a barrier with AUTO set follows `n` retirements and `m` revivals (R226). -/
def Bar.follow (n m : Nat) (b : Bar) : Bar := Bar.check { b with exparr := b.exparr + m - n }
/-- A ring barrier with AUTO set counts the live fascines of its ring (R226). -/
def Bar.recount (live : Nat) (b : Bar) : Bar := if b.auto && b.ring then Bar.check { b with exparr := live } else b
/-- R226: `n` fascines have retired, `m` returned: every polder barrier with AUTO set follows. -/
def Polder.autoBars (p : Polder) (n m : Nat) : Polder :=
  { p with bars := p.bars.map fun b => if b.auto && !b.ring then b.follow n m else b }
/-- The ring barriers of the leader follow the fascines of the whole ring (R226). -/
def State.ringBars (s : State) (p : Polder) (n m : Nat) : State :=
  let ld := s.leader p
  let k := match s.polder? ld with
    | some q => q.bars.length
    | none => ((s.saved? ld).map (·.p.bars.length)).getD 0
  (List.range k).foldl (fun s b => s.barEvent ld b (fun x => if x.auto && x.ring then x.follow n m else x) (.follow b n m)) s

/-- Whether fascine f's wait record for a barrier says that the phase it saw has passed (R225). -/
def Fascine.passed (f : Fascine) (b : Nat) (x : Bar) : Bool :=
  let r := f.wrec.getD b {}
  r.wv && r.snap != x.phase
/-- Whether a fascine of a polder that waits at a barrier may go on (R228, R230, R231). -/
def State.barPassed (s : State) (p : Polder) (f : Fascine) (b : Nat) (ring : Bool) : Bool :=
  match s.bar? (if ring then s.leader p else p.h) b with
  | some x => f.passed b x
  | none => false

/-- The later of two places in the writes of each b-register. -/
def joinB (a b : List Nat) : List Nat := (List.range (max a.length b.length)).map fun n => max (a.getD n 0) (b.getD n 0)
/-- An acquire at polder scope or wider: the b-register writes that the release it matches orders precede the fascine's later
reads (R134, log 19). -/
def Fascine.acquireB (f : Fascine) (pub : List Nat) : Fascine :=
  if pub.isEmpty then f else { f with bseen := joinB f.bseen pub, bord := joinB f.bord pub }
/-- The key of barrier b in `Polder.bbars`. -/
def barKey (b : Nat) (ring : Bool) : Nat := if ring then 64 + b else b
/-- The b-register writes that the arrivals at a barrier order. -/
def Polder.barPub (p : Polder) (k : Nat) : List Nat := ((findKey Prod.fst k p.bbars).map Prod.snd).getD []
/-- An arrival at a barrier publishes what its fascine has ordered (R134). -/
def Polder.publishBar (p : Polder) (k : Nat) (pub : List Nat) : Polder :=
  if pub.all (· == 0) then p else { p with bbars := insertKey Prod.fst (k, joinB (p.barPub k) pub) p.bbars }

/-- Whether a polder's steps are logged (R389). -/
def Polder.logs (p : Polder) : Bool := p.debug && p.ureg.isSome

/-! ## Exits and retirement (R126, R133, R157, R162, R183) -/

/-- The split table of a fascine in which nothing is in use. -/
def noEntry : SplitEntry := {}
/-- The lowest fascine of a polder that still holds a thread (R133). -/
def Polder.firstLive (p : Polder) : Option Nat := p.fs.findIdx? (fun f => !f.retired)

/-- The open records of a fascine when threads `m` leave it: those of a record discarded, unless an operation in flight still
closes it (R356). -/
def Fascine.leaveRecs (f : Fascine) (m : Mask) : List OpenRec :=
  f.orecs.filterMap fun r =>
    if r.op.isSome || !m.getLsbD r.t then some r
    else (f.ops.find? fun o => o.ep == f.epoch && o.acc.any fun a => a.t == r.t && a.closes r.win).map fun o => { r with op := some o.id }

/-- A fascine whose last thread has gone: its entries and chains are freed, its results in flight are discarded and
its open records dropped (R126, R106, R157, R356). -/
def Fascine.retire (f : Fascine) : Fascine :=
  { f with retired := true, chains := [], haz := [], orecs := f.leaveRecs 0xFFFF,
           ops := f.ops.map (fun o => { o with wmask := 0 }),
           r := { f.r with
             exmask := 0xFFFF, hmask := 0,
             ents := modAt (f.r.ents.map (fun e => { e with val := false, mask := 0, park := 0, hold := .none })) 0 fun e =>
               { e with mode := ((f.r.ents.find? (·.val)).getD e).mode },
             vb := [] } }

/-- Every barrier with AUTO set of a polder and its ring follows `n` retirements and `m` revivals that take place together
(R226). -/
def State.barsFollow (s : State) (h n m : Nat) : State :=
  match s.polder? h with
  | none => s
  | some p => ((s.setPolder (p.autoBars n m)).barTurn atRetirement).ringBars p n m

/-- Fascine i of a polder leaves, the barriers apart: the lease passes (R133), and with the last fascine the polder drains
(R183) and its inlet and outlet cores stop (R260). -/
def State.leave (s : State) (h i : Nat) : State :=
  match s.polder? h with
  | none => s
  | some p =>
    if ((p.fs[i]?).getD { retired := true }).retired then s
    else
      let p := p.modF i Fascine.retire
      let p := if p.lease = i then
          -- the exit releases the holder's writes; the barriers that count it see it leave (R133, R226)
          (p.bars.zipIdx.filter fun x => x.1.auto && !x.1.ring).foldl (fun p x => p.publishBar x.2 (p.breg.map List.length))
            { p with lease := (p.firstLive).getD p.lease, brel := p.breg.map List.length } else p
      let p := if p.live = 0 then
          { p with life := .draining, io := p.io.map fun c => { c with run := 2 } } else p
      let s := s.setPolder p
      { s with rays := s.rays.map (fun (x : Ray) => if x.iss.h = h ∧ x.iss.f = i then { x with keep := false, held := none } else x),
               walks := s.walks.map (fun (x : Walk) => if x.iss.h = h ∧ x.iss.f = i then { x with keep := false } else x) }

/-- Fascine i of a polder retires: it leaves, and the barriers follow (R226). -/
def State.retireFasc (s : State) (h i : Nat) : State :=
  if ((s.fasc? h i).map (·.retired)).getD true then s else (s.leave h i).barsFollow h 1 0

/-- R157: every fascine of a polder retires, as if every thread exited. -/
def State.retireAll (s : State) (h : Nat) : State :=
  match s.polder? h with
  | none => s
  | some p =>
    (List.range p.fs.length).foldl (fun s i => s.retireFasc h i)
      (s.setPolder { p with life := .running, halt := none, dieHalt := false })

/-- A last-read of a v-register name by the threads of a mask (R124). -/
def Regs.lastRead (r : Regs) (n : Nat) (m : Mask) : Regs :=
  { r with vb := r.vb.filterMap fun b =>
      if b.name = n then (let l := b.live &&& ~~~m; if l = 0 then none else some { b with live := l }) else some b }

/-- The threads of a chain's AMASK that have not exited (R106). -/
def Chain.live (c : Chain) : Mask := c.amask &&& ~~~c.gone

/-- Whether a key names something of every thread: a v-register or a predicate. -/
def perThreadKey (k : Nat) : Bool := decide (k < 160) || decide (256 ≤ k)

/-- What stood in a register or predicate before a write put back for threads `x.2`; a name that the write bound is free again
(R124). -/
def Regs.unwrite (r : Regs) (x : Hazard × Mask) : Regs :=
  let (h, m) := x
  let key := h.key
  if key < 160 then
    if h.fresh then { r with vb := r.vb.filter (·.name != key) }
    else
      { r with vb := r.vb.map fun (b : VBind) =>
          if b.name = key then
            { b with words := (List.range 16).map fun t => if m.getLsbD t then h.old.getD t 0 else b.words.getD t 0,
                     pois := (b.pois &&& ~~~m) ||| (h.pois &&& m) }
          else b }
  else if key < 208 then
    { r with s := setAt r.s (key - 160) (h.old.getD 0 0), spois := setAt r.spois (key - 160) (h.pois != 0) }
  else if key < 256 then r
  else { r with preds := (List.range 16).map fun t =>
      let x := r.preds.getD t 0
      let q := BitVec.ofNat 8 (2 ^ (key - 256))
      if m.getLsbD t then (if h.old.getD t 0 != 0 then x ||| q else x &&& ~~~q) else x }

/-- Of the writes of a fascine, newest first, those that are not made, each with the threads for which what stood there before
stands again: `lost` says for which threads a write is not made; it stays hidden behind a later one that is made, as
`top` lists them, and behind a sibling's that has completed (R32, R106, R131). -/
def lostWrites (lost : Hazard → Nat → Mask) : List (Nat × Mask) → List Hazard → List (Hazard × Mask)
  | _, [] => []
  | top, h :: hs =>
    let later := top.filter fun x => x.1 == h.key && x.2 != 0
    let hid := later.foldl (fun a x => a ||| x.2) (0 : Mask)
    let l := lost h hs.length
    let not := l &&& h.mask
    let back := if perThreadKey h.key then not &&& ~~~hid else if hid == 0 && !h.past && l != 0 then h.mask else 0
    (if back = 0 then [] else [({ h with fresh := h.fresh && later.isEmpty && back == h.mask }, back)]) ++
      lostWrites lost ((h.key, h.mask &&& ~~~(if perThreadKey h.key then not else back)) :: top) hs

/-- What stood in b-registers before writes that are not made (R134). -/
def Polder.unwrite (p : Polder) (l : List (Hazard × Mask)) : Polder :=
  l.foldl (fun (p : Polder) (x : Hazard × Mask) =>
    if 208 ≤ x.1.key && x.1.key < 224 then
      let n := x.1.key - 208
      let h := p.breg.getD n []
      { p with breg := setAt p.breg n (modAt h (h.length - 1 - x.1.pos) fun _ => x.1.old.getD 0 0),
               bpois := if h.length = x.1.pos + 1 then setAt p.bpois n (x.1.pois != 0) else p.bpois }
    else p) p

/-- The writes of chains in flight of entry g that threads `m` have not made when they exit, or are discarded (R106): of those whose
distance has not passed (R32), which are made by then is free. `whole` names the chains of which no thread remains. -/
def Fascine.exitLost (f : Fascine) (g : Nat) (m : Mask) (whole : Nat → Bool) (unmade : Nat → Bool) : List (Hazard × Mask) :=
  lostWrites (fun h n =>
    match h.chain with
    | none => 0
    | some (c, _) =>
      if h.g ≠ g || h.left = 0 || !f.chains.any (·.id == c) then 0
      else if perThreadKey h.key then h.mask &&& m &&& maskOf fun t => unmade (h.key * 4096 + t * 256 + n)
      else if whole c && unmade (h.key * 4096 + n) then h.mask else 0) [] f.haz
/-- The chains of a fascine of which no thread remains when threads `m` have exited. -/
def Fascine.wholly (f : Fascine) (m : Mask) (id : Nat) : Bool := f.chains.any fun c => c.id == id && (c.live &&& ~~~m) == 0

/-- Threads exit from entry g (R162, R173): their bits leave MASK and PARK, their names are released and their pending
results discarded; chains run on for the rest (R106). `lost` are the writes of its chains that had not been made. -/
def Fascine.exitThreads (f : Fascine) (g : Nat) (m : Mask) (lost : List (Hazard × Mask)) : Fascine :=
  let f := { f with r := lost.foldl Regs.unwrite f.r }
  let r := { f.r with exmask := f.r.exmask ||| m,
                      hmask := f.r.hmask &&& ~~~m,
                      vb := f.r.vb.filterMap fun b =>
                        let l := b.live &&& ~~~m; if l = 0 then none else some { b with live := l },
                      ents := modAt f.r.ents g fun e =>
                        let e := { e with mask := e.mask &&& ~~~m, park := e.park &&& ~~~m }
                        if e.running != 0 then e
                        else if e.park = 0 then { e with val := false, mask := 0 }
                        else if !e.rjf then { e with park := 0 }.goto e.rpc true
                        else { { e with park := 0, rjf := false }.goto e.rpc true with wj := true, arrived := true } }
  { f with r := r,
           ops := f.ops.map (fun o => { o with wmask := o.wmask &&& ~~~m }),
           orecs := f.leaveRecs m,
           chains := f.chains.filterMap fun c =>
             if c.g = g then (if (c.live &&& ~~~m) = 0 then none else some { c with gone := c.gone ||| m }) else some c }

/-- Threads exit from entry g of fascine i, which retires when none is left (R157, R173). -/
def State.exitFrom (s : State) (h i g : Nat) (m : Mask) : State :=
  let lost := ((s.fasc? h i).map fun f => f.exitLost g m (f.wholly m) fun n => Config.freeBool (s.draw (n + 2 ^ 37))).getD []
  let s := s.modPolder h fun p => (p.unwrite lost).modF i (·.exitThreads g m lost)
  let s := { s with rays := s.rays.map (fun (x : Ray) => if x.iss.h = h ∧ x.iss.f = i ∧ m.getLsbD x.t then { x with keep := false } else x),
                    walks := s.walks.map (fun (x : Walk) => if x.iss.h = h ∧ x.iss.f = i ∧ m.getLsbD x.t then { x with keep := false } else x) }
  match s.fasc? h i with
  | some f =>
    if f.r.ents.any (·.val) then s
    else  -- entry 0 keeps the mode of the last entry, for a REGROUP that revives the fascine (R180)
      let m := ((f.r.ents[g]?).getD {}).mode
      (s.modFasc h i fun f => { f with r := { f.r with ents := modAt f.r.ents 0 (fun e => { e with mode := m }) } }).retireFasc h i
  | none => s

/-! ## Traps (R371 to R376) -/

/-- A trap with what its record says of the cause (R375). -/
structure TrapInfo where
  t : Trap
  sub : Nat := 0
  addr : Nat := 0
  data : Nat := 0
  deriving DecidableEq, Repr

/-- A queue stops on an error (R343, R346). -/
def Queue.stop (q : Queue) (code : Nat) : Queue := { q with st := .error, err := true, ecode := code, pkt := none }

/-- Whether the write of a queue's descriptor is still owed: its memory could not be reached (R22). -/
def State.owesQueue (s : State) (q : Nat) (late : Bool) : State :=
  { s with queues := s.queues.map fun (x : Queue) => if x.q = q then { x with late := late } else x }
/-- Bytes of a queue's descriptor, from its byte `o` on. -/
def State.queueBytes (s : State) (c : Ctx) (q o : Nat) (b : List Byte) : State :=
  match s.gwrite c atHome o false 4 (c.qtab + 64 * q + o) b with
  | .ok s => s
  | .error e => if e.cause ≠ 0 then s else s.owesQueue q true
/-- The device's own fields of a queue written to its descriptor in memory (R342); a write that fails to translate is
dropped (log 20), and one whose home is in reset waits until it returns (R22). RD, WR and DONE count without wrapping in the model. -/
def State.writeQueue (s : State) (q : Queue) : State :=
  match s.ctx? q.ctx with
  | none => s
  | some c =>
    let b := leBytes 1 ((if q.priv then 1 else 0) + (if q.err then 2 else 0))
    let w := leBytes 4 (q.wr % 2 ^ 32) ++ leBytes 4 (q.rd % 2 ^ 32) ++ leBytes 4 (q.done % 2 ^ 32) ++ leBytes 4 q.sig ++ leBytes 1 q.ecode
    (((s.owesQueue q.q false).queueBytes c q.q 9 b).queueBytes c q.q 12 w).queueBytes c q.q 32 (leBytes 8 q.dts ++ leBytes 8 q.sts)
/-- A queue put back, with its descriptor. -/
def State.putQueue (s : State) (q : Queue) : State := (s.setQueue q).writeQueue q

/-- A polder of a context that becomes DEAD or FREE stops and retires without further effect (R367): what its threads, its
matrix engines and its cores have issued is dropped, and it drains until its other engine work has ended (R21, R183).
`c` is its context from then on. -/
def State.quench (s : State) (h c : Nat) : State :=
  let n := ((s.polder? h).map (·.fs.length)).getD 0
  ((List.range n).foldl (fun s i => s.leave h i) s).modPolder h fun p =>
    { p with ctx := c, life := .draining, halt := none, dieHalt := false, stopReq := none, tself := none, tags := [],
             fs := p.fs.map fun f => { f with ops := [] }, engines := p.engines.map fun e => { e with q := [] },
             io := p.io.map fun k => { k with run := 2 } }

/-- The rings of a context that can hold no restored polder any more keep no cores (R433). -/
def State.forget (s : State) (c : Nat) : State :=
  { s with reserved := s.reserved.filter fun x =>
      !(s.polders.any fun p => p.ctx == c && p.ring == x.1) && !(s.saved.any fun z => z.p.ctx == c && z.p.ring == x.1) }

/-- The context that a number past the last one names: none (R366). -/
def noCtx : Nat := 4096

/-- A context becomes DEAD (R367, R371): its polders retire without further effect, its queues stop with code 7, every
held access ends, and the host is notified by one kind 6 record. -/
def State.contextDead (s : State) (c : Nat) : State :=
  match s.ctx? c with
  | none => s
  | some x =>
    if x.dead then s
    else
      let s := s.putCtx { x with dead := true, evq := [] }
      let s := (s.polders.filter (·.ctx == c)).foldl (fun s p => s.quench p.h c) s
      let s := s.forget c
      let s := { s with restores := s.restores.filter (·.ctx != c),
                        pending := s.pending.filter (·.ctx != c),
                        queues := s.queues.map (fun (q : Queue) => if q.ctx = c then q.stop 7 else q),
                        faults := s.faults.map (fun (a : Fault400) => if a.ctx = c then { a with ended := true } else a) }
      ((s.queues.filter (·.ctx == c)).foldl State.writeQueue s).notify 6 c 0 0 0

/-- A write of the device for a context, which waits when its home is in reset (R22); one that fails to translate is dropped. -/
def State.deviceWrite (s : State) (c va : Nat) (bs : List Byte) : State :=
  match s.ctx? c with
  | none => s
  | some y =>
    match s.gwrite y atHome va false (bs.length / 32 + 2) va bs with
    | .ok s => s
    | .error e => if e.cause = 0 then { s with owedW := s.owedW ++ [(c, va, bs)] } else s
/-- The writes that waited are made, in their order (R22). -/
def State.payWrites (s : State) : State :=
  s.owedW.foldl (fun s w => s.deviceWrite w.1 w.2.1 w.2.2) { s with owedW := [] }

/-- NSEC of a trap record that has been written follows a secondary trap (R372, R375). -/
def State.countSecondary (s : State) (c : Nat) (x : Halt) : State :=
  match x.tself, s.ctx? c with
  | some t, some y => s.deviceWrite c (y.tring + 64 * t + 3) (leBytes 1 (min 255 (x.nsec + 1)))
  | _, _ => s

/-- Whether an entry waits in a round (R157). -/
def SplitEntry.inRound (e : SplitEntry) : Bool :=
  match e.hold with
  | .voterk _ _ _ _ => true
  | .regroup _ _ _ => true
  | _ => false
/-- A round that has not completed is abandoned: its fascine stands at the slot of the VOTERK or REGROUP, and issues no more
before the halt ends (R157, R179). -/
def Fascine.abandon (f : Fascine) : Fascine :=
  if f.r.ents.any (·.inRound) then
    { f with stop := { f.stop with stopped := true },
             r := { f.r with ents := f.r.ents.map fun e => if e.inRound then { e with hold := .none } else e } }
  else f

/-- Whether a trap of fascine i comes before the one that halted its polder: of the same beat, and of a lower fascine (R372). -/
def Halt.yields (x : Halt) (i now : Nat) : Bool := x.tself.isNone && x.time == now && decide (i < x.f)

/-- TAKING A TRAP (R371, R372): POISON makes the context DEAD. Any other trap stops fascine i with the saved PC in its
entry g; the first one halts the polder, and the halt is broadcast; a later one, raised in a sibling's skid, is
counted as secondary, but becomes the primary one when it is of the same beat and of a lower fascine. `slot` is the slot of
the trapping instruction. -/
def State.takeTrap (s : State) (h i g : Nat) (slot saved : Word) (t : TrapInfo) : State :=
  match s.polder? h with
  | none => s
  | some p =>
    if t.t = .poison then s.contextDead p.ctx
    else
      let first := p.halt.isNone
      let p := if first then { p with fs := p.fs.map Fascine.abandon } else p
      let prim := (p.halt.map (·.yields i s.time)).getD true
      let p := p.modF i fun f =>
        { f with stop := { f.stop with stopped := true, code := t.t.code, primary := prim, slot := slot },
                 r := { f.r with ents := modAt f.r.ents g (fun e => e.goto saved true) } }
      let halt : Halt := { code := t.t.code, sub := t.sub, f := i, g := g, pc := saved, addr := t.addr, data := t.data, time := s.time }
      match p.halt with
      | none => s.setPolder { p with life := .halted, halt := some halt }
      | some x =>
        if prim then
          s.setPolder { p.modF x.f fun f => { f with stop := { f.stop with primary := false } } with
                        halt := some { halt with nsec := min 255 (x.nsec + 1) } }
        else (s.setPolder { p with halt := some { x with nsec := min 255 (x.nsec + 1) } }).countSecondary p.ctx x

/-- A polder stopped by a halt of its die, or let go (R388); bit 10 of each stop word says so (R380). -/
def Polder.setDieHalt (p : Polder) (b : Bool) : Polder :=
  { p with dieHalt := b, fs := p.fs.map fun f => { f with stop := { f.stop with dieHalt := b } } }

/-- A fascine goes on from its saved PC after a halt: chains were frozen and resume, distances are satisfied, and it issues
when every earlier register write has arrived (R31); the next slots are entry slots (R28), and a REJOIN at one is arrived at
anew (log 86). -/
def Fascine.resume (f : Fascine) : Fascine :=
  { f with stop := { dieHalt := f.stop.dieHalt }, settle := true,
           haz := (f.haz.filter fun h => h.op.isSome || h.chain.isSome).map fun h => if h.op.isSome then h else { h with left := 0 },
           r := { f.r with ents := f.r.ents.map (fun e => { e with entry := true, arrived := e.wj && e.arrived, passed := false, issued := 0, elig := false, waited := true, stuck := false }) } }

/-- The chains of entry g of fascine i are discarded: of their writes, those not made yet are not made (R106). -/
def Polder.discard (p : Polder) (i g : Nat) (unmade : Nat → Bool) : Polder :=
  let f := (p.fs[i]?).getD {}
  let lost := f.exitLost g 0xFFFF (fun id => f.chains.any fun c => c.id == id && c.g == g) unmade
  (p.unwrite lost).modF i fun f => { f with r := lost.foldl Regs.unwrite f.r, chains := f.chains.filter (·.g != g) }

/-- RETURNING FROM A TRAP (R376): the halted polder h resumes; action 1 first sends entry TENT of the primary fascine
to `rpc`, its chains discarded under R106; action 2 retires the polder. -/
def State.resumePolder (s : State) (h action : Nat) (rpc : Word) : State :=
  match s.polder? h with
  | none => s
  | some p =>
    match p.halt with
    | none => s
    | some x =>
      if action = 2 then s.retireAll h
      else
        let p := if action = 1 then
            (p.discard x.f x.g fun n => Config.freeBool (s.draw (n + 2 ^ 32))).modF x.f fun f =>
              { f with r := { f.r with ents := modAt f.r.ents x.g (fun e => { e.goto rpc true with hold := .none }) } }
          else p
        s.setPolder { p with life := .running, halt := none, fs := p.fs.map Fascine.resume }

end Sys2Proof.Machine
end

