-- ==== Sys2Proof/Machine/Operands.lean ====
section
/-! DEFINITION. Operands: reading and writing every operand code (R39), the register rules of spec/05_registers.md, the
hazards of R32, and the decode checks of every field kind (R37, R41). -/
namespace Sys2Proof

/-- The operand code k above another, in a pair, quad or block. -/
def Opnd.plus (o : Opnd) (k : Nat) : Opnd := Opnd.ofByte (BitVec.ofNat 8 (o.code + k))

/-- A per-thread operand (R39), which a uniform instruction may not read (R41). -/
def Opnd.perThread : Opnd → Bool
  | .v _ => true
  | .ln => true
  | .qd => true
  | .tid => true
  | _ => false

/-- A register code (R37: aligned pairs and quads never cross a class). -/
def Opnd.isReg : Opnd → Bool
  | .v _ => true
  | .s _ => true
  | .b _ => true
  | .c _ => true
  | _ => false

/-- Operands of R37 kind e2 or e4: `zero` stands for a group of zeros and discards. -/
def Opnd.group (o : Opnd) (k : Nat) : Opnd := if o = .zero then .zero else o.plus k

end Sys2Proof

namespace Sys2Proof.Machine

/-! ## Register files -/

/-- The entry of a v-register name, when it is bound (R124). -/
def Regs.bind? (r : Regs) (n : Nat) : Option VBind := findKey VBind.name n r.vb
/-- The word of thread t of a v-register: 0 when unbound (R124). -/
def Regs.vword (r : Regs) (n t : Nat) : Word :=
  match r.bind? n with
  | some b => b.words.getD t 0
  | none => 0
/-- Whether the word of thread t of a v-register is poisoned. -/
def Regs.vpois (r : Regs) (n t : Nat) : Bool :=
  match r.bind? n with
  | some b => b.pois.getLsbD t
  | none => false

/-- A write to a v-register by a sub-group with running threads `live`: threads of `m` are written, their poison set as
given (R124, R130). -/
def Regs.writeV (r : Regs) (n : Nat) (live m : Mask) (val : Nat → Word) (pois : Mask) : Regs :=
  let old := r.bind? n
  let words := (List.range 16).map fun t => if m.getLsbD t then val t else r.vword n t
  let b : VBind :=
    match old with
    | some b => ⟨n, b.live ||| live, (b.pois &&& ~~~m) ||| (pois &&& m), words⟩
    | none => ⟨n, live, pois &&& m, words⟩
  { r with vb := insertKey VBind.name b r.vb }

/-- Predicate p of thread t; p7 reads true (R123). -/
def Regs.pred (r : Regs) (p t : Nat) : Bool := p == 7 || (r.preds.getD t 0).getLsbD p
/-- A predicate written for the threads of a mask; predicate 7 discards (R38). -/
def Regs.writeP (r : Regs) (p : Nat) (m : Mask) (val : Nat → Bool) : Regs :=
  if p = 7 then r
  else
    { r with preds := (List.range 16).map fun t =>
        let x := r.preds.getD t 0
        if m.getLsbD t then (if val t then x ||| BitVec.ofNat 8 (2 ^ p) else x &&& ~~~BitVec.ofNat 8 (2 ^ p)) else x }

/-- The value of a b-register after its writes, newest first: 0 before the first (R123). -/
def bvalue (h : List Word) (i : Nat) : Word := h.getD i 0

/-! ## Reading -/

/-- Whether a write waits for its completion flag: its operation is in flight (R32). -/
def Fascine.flagged (f : Fascine) (h : Hazard) : Bool := f.ops.any fun o => h.op == some o.id

/-- Whether a write of a fascine may be in flight in a beat: its operation is, or its chain is, or its beats have not passed
(R32, R97, R146). -/
def Fascine.inFlight (f : Fascine) (beat : Nat) (h : Hazard) : Bool :=
  match h.op, h.chain with
  | some _, _ => f.flagged h
  | none, some c => f.chains.any (·.id == c.1)
  | none, none => decide (beat < h.due)

/-- Of the writes to a key that may be in flight for thread t, newest first, the one whose old value is read; none: the
current value. A write of the sub-group itself is open until the distances have passed, a sibling's while it is in flight
(R32, R146). Source `k` of an instruction makes a choice of its own (free, log 6). -/
def pickOld (s : State) (f : Fascine) (g key t k : Nat) : List Hazard → Option Word
  | [] => none
  | h :: hs =>
    if h.key = key ∧ h.mask.getLsbD t ∧ 0 < h.left ∧ (h.g = g ∨ (perThreadKey key ∧ f.inFlight s.beat h)) then
      if Config.freeBool (s.draw (key * 65536 + t * 4096 + k * 1024 + hs.length)) then some (h.old.getD (if perThreadKey key then t else 0) 0)
      else pickOld s f g key t k hs
    else pickOld s f g key t k hs

/-- The writes that the sub-group's chain holds back (R104), newest first. -/
def V.heldOf (v : V) (key : Nat) : List Held :=
  (v.f.chains.filter (·.g == v.l.g)).flatMap fun c => (c.mems.reverse.filterMap (·.writes)).filter (·.key == key)

/-- The value that source `k` reads for a key whose register holds `cur` (R32). -/
def V.settle (v : V) (key t k : Nat) (cur : Word) : Word :=
  let base := (pickOld v.s v.f v.l.g key t k v.f.haz).getD cur
  match (v.heldOf key).find? (fun h => h.mask.getLsbD t) with
  | some h => if Config.freeBool (v.s.draw (key * 65536 + t * 4096 + k * 1024 + 1023)) then h.words.getD t 0 else base
  | none => base

/-- How many writes newer than the one it reads a b-register has, for the issuing fascine: none for the leaseholder,
else a free choice among those not known to precede the read (R134). -/
def V.bpick (v : V) (n : Nat) : Nat :=
  if v.p.lease = v.l.f then 0
  else v.s.choose (n + 2 ^ 35) ((v.p.breg.getD n []).length - v.f.bseen.getD n 0 + 1)

/-- A constant register: the value at placement, or the memory's now, when they differ (R137); poison of the window is not
read (log 63). -/
def V.const (v : V) (n : Nat) : Word :=
  let old := v.p.cw.getD n 0
  if v.p.cwlen < 4 * n + 4 then old
  else
    match v.s.ctx? v.p.ctx with
    | none => old
    | some c =>
      match v.s.gread c v.p.die 0 2 (v.p.cwin + 4 * n) 4 with
      | .error _ => old
      | .ok (b, _) =>
        let new := wordAt b 0
        if new = old then old else if Config.freeBool (v.s.draw (n + 2 ^ 34)) then new else old

/-- The value of an operand code for thread t (R39): source `k` of the instruction, 0 to 2 its fields A to C. -/
def V.rd (v : V) (o : Opnd) (t : Nat) (k : Nat := 0) : Word :=
  match o with
  | .v n => v.settle n.val t k (v.f.r.vword n.val t)
  | .s n => v.settle (160 + n.val) t k (v.f.r.s.getD n.val 0)
  | .b n => v.settle (208 + n.val) t k (bvalue (v.p.breg.getD n.val []) (v.bpick n.val))
  | .c n => v.const n.val
  | .zero => 0
  | .ln => BitVec.ofNat 32 t
  | .qd => BitVec.ofNat 32 (t / 4)
  | .fc => BitVec.ofNat 32 (v.l.f % 8)
  | .rk => BitVec.ofNat 32 (v.l.f / 8)
  | .pl => BitVec.ofNat 32 v.p.pl
  | .tid => BitVec.ofNat 32 (16 * v.l.f + t)
  | .vdie => BitVec.ofNat 32 (((v.s.ctx? v.p.ctx).map (·.vdie v.p.die)).getD 0)
  | .core => BitVec.ofNat 32 v.p.core
  | .tick => BitVec.ofNat 32 v.s.time
  | .tickh => BitVec.ofNat 32 (v.s.time / 2 ^ 32)
  | .ch => 0
  | .rsv _ => 0

/-- The 64-bit value of a pair, low word first (R37). -/
def V.rd2 (v : V) (o : Opnd) (t : Nat) (k : Nat := 0) : Nat := (v.rd o t k).toNat + 2 ^ 32 * (v.rd (o.plus 1) t k).toNat

/-- Whether an operand's word for thread t is poisoned (R128, R129). -/
def V.pois (v : V) (o : Opnd) (t : Nat) : Bool :=
  match o with
  | .v n => v.f.r.vpois n.val t
  | .s n => v.f.r.spois.getD n.val false
  | .b n => v.p.bpois.getD n.val false
  | _ => false

/-- A predicate field for thread t, its negate bit applied (R37, R38): source `k`, 3 for the guard. -/
def V.rdP (v : V) (q : Pred) (t : Nat) (k : Nat := 0) : Bool :=
  (q.idx.val == 7 || v.settle (256 + q.idx.val) t k (if v.f.r.pred q.idx.val t then 1 else 0) != 0) != q.neg

/-- The guard of a mode register (R42). -/
def guardOf (m : BitVec 24) : Pred := ⟨m.getLsbD 3, Fin.ofNat 8 (m.toNat % 8)⟩
/-- active(G) (R6). -/
def V.active (v : V) : Mask :=
  v.e.running &&& maskOf (v.rdP (guardOf v.e.mode) · 3)
/-- Whether the guard's read consumes poison: it is read for every running thread (R129). -/
def V.guardPois (v : V) : Bool := (guardOf v.e.mode).idx.val != 7 && (v.e.running &&& v.f.r.ppois) != 0
/-- The lowest thread of a mask, 0 when it is empty. -/
def lowest (m : Mask) : Nat := (threadsOf m).headD 0

/-! ## Writing -/

/-- Earlier writes to a key that a write known to be complete has overtaken: writes take effect in program order (R32); a
sibling's to an s- or b-register is never seen again either, but by a reader that its own distance leaves free (R131). -/
def overtake (key g : Nat) (m : Mask) (hs : List Hazard) : List Hazard :=
  hs.filterMap fun (h : Hazard) =>
    if h.key = key ∧ (perThreadKey key ∨ h.g = g) then (if h.mask &&& ~~~m = 0 then none else some { h with mask := h.mask &&& ~~~m })
    else some (if h.key = key then { h with past := true } else h)

/-- A hazard recorded for a write with separation L that a member of chain `ch` makes, or that has been made 16 threads later
(R19, R32); with L = 0 the write is complete. `z` holds what the write finds: poison, whether it binds the name, its place. -/
def Fascine.note (f : Fascine) (key g : Nat) (m : Mask) (old : List Word) (L beat : Nat) (ch : Option (Nat × Nat) := none)
    (z : Mask × Bool × Nat := (0, false, 0)) : Fascine :=
  if L = 0 then { f with haz := overtake key g m f.haz }
  else { f with haz := { key := key, mask := m, old := old, left := L, g := g, chain := ch, due := beat + L + 16, pois := z.1,
                         fresh := z.2.1, pos := z.2.2 } :: f.haz }

/-- The codes of the registers that an operation in flight will write. -/
def MemOp.dstKeys (o : MemOp) : List Nat :=
  match o.dst with
  | some a => (List.range o.n).map fun i => (a.group i).code
  | none => []
/-- The result words of a thread of MARCH, MLOC or SAMPLE. -/
def Walk.width (w : Walk) : Nat := if w.kind = 2 then 4 else 8

/-- The results in flight for threads of `m` of fascine f, which is fascine i of polder h: each with a name of its own and the
codes that it writes. -/
def State.late (s : State) (h i : Nat) (f : Fascine) (m : Mask) : List (Nat × List Nat) :=
  (f.ops.filter fun x => (x.mask &&& m) != 0).map (fun x => (2 * x.id, x.dstKeys)) ++
    (s.rays.filter fun r => r.iss.h == h && r.iss.f == i && !r.done && m.getLsbD r.t).map
      (fun r => (2 * r.id + 1, (List.range 5).map (r.dst + ·))) ++
    (s.walks.filter fun r => r.iss.h == h && r.iss.f == i && m.getLsbD r.t).map
      (fun r => (2 * r.id + 1, (List.range r.width).map (r.dst + ·)))
/-- Those of the fascine of the latch. -/
def V.late (v : V) (m : Mask) : List (Nat × List Nat) := v.s.late v.l.h v.l.f v.f m

/-- The write of a key that a member holds back comes no more (R131). -/
def Chain.unhold (c : Chain) (k : Nat) : Chain :=
  { c with mems := c.mems.map fun (m : Member) => if (m.writes.map (·.key)) == some k then { m with writes := none } else m }

/-- A register is written for threads of `m`: a result in flight for it that was issued before comes no more after this write.
An s- or b-register has one copy, so results that sibling sub-groups issued before, and those that their chains hold back,
come no more either (R32, R131, R132). -/
def State.supersede (s : State) (h i : Nat) (f : Fascine) (k : Nat) (m : Mask) : Fascine :=
  let l := (s.late h i f (if perThreadKey k then m else 0xFFFF)).filter (·.2.contains k)
  let live := (s.late h i f 0xFFFF).map Prod.fst
  let stale := f.stale.filter fun x => live.contains x.1
  { f with
      stale := l.map (fun x => (x.1, k, if perThreadKey k then m else 0xFFFF)) ++ stale,
      chains := if perThreadKey k then f.chains else f.chains.map (·.unhold k) }
/-- The same for a write of the issuing sub-group. -/
def V.supersede (v : V) (o : Opnd) (m : Mask) : V := { v with f := v.s.supersede v.l.h v.l.f v.f o.code m }

/-- Threads for which a result in flight comes no more to a register. -/
def Fascine.taken (f : Fascine) (id key : Nat) : Mask :=
  (f.stale.filter fun x => x.1 == id && x.2.1 == key).foldl (fun m x => m ||| x.2.2) 0

/-- A register written by the sub-group: threads of `m` of a v-register, or an s- or b-register once, with its poison
(R39, R124, R131); `ch`: by a member of that chain. A fascine's own b-register write precedes its later reads (R134). -/
def V.write (v : V) (o : Opnd) (m : Mask) (val : Nat → Word) (pois : Nat → Bool) (L : Nat)
    (ch : Option (Nat × Nat) := none) : V :=
  let w := v.supersede o m
  match o with
  | .v n =>
    let old := (List.range 16).map (v.f.r.vword n.val)
    { w with f := { w.f.note n.val v.l.g m old L v.s.beat ch (maskOf fun t => v.f.r.vpois n.val t, (v.f.r.bind? n.val).isNone, 0) with r := v.f.r.writeV n.val v.e.running m val (maskOf pois) } }
  | .s n =>
    let x := val (lowest m)
    { w with f := { w.f.note (160 + n.val) v.l.g 0xFFFF [v.f.r.s.getD n.val 0] L v.s.beat ch
                      (if v.f.r.spois.getD n.val false then 0xFFFF else 0, false, 0) with
                      r := { v.f.r with s := setAt v.f.r.s n.val x, spois := setAt v.f.r.spois n.val (pois (lowest m)) } } }
  | .b n =>
    let x := val (lowest m)
    let h := v.p.breg.getD n.val []
    { w with f := { w.f.note (208 + n.val) v.l.g 0xFFFF [bvalue h 0] L v.s.beat ch
                      (if v.p.bpois.getD n.val false then 0xFFFF else 0, false, h.length) with
                      bseen := setAt v.f.bseen n.val (h.length + 1), bord := setAt v.f.bord n.val (h.length + 1) },
             p := { v.p with breg := setAt v.p.breg n.val (x :: h), bpois := setAt v.p.bpois n.val (pois (lowest m)) } }
  | _ => v

/-- A clean result written (R124). -/
def V.wr (v : V) (o : Opnd) (m : Mask) (val : Nat → Word) (L : Nat := 2) (ch : Option (Nat × Nat) := none) : V :=
  v.write o m val (fun _ => false) L ch

/-- A predicate destination written with separation L (R38, R32). -/
def V.wrP (v : V) (p : Nat) (m : Mask) (val : Nat → Bool) (L : Nat := 2) (ch : Option (Nat × Nat) := none) : V :=
  let old : List Word := (List.range 16).map fun t => if v.f.r.pred p t then 1 else 0
  { v with f := { v.f.note (256 + p) v.l.g m old (if p = 7 then 0 else L) v.s.beat ch with r := v.f.r.writeP p m val } }

/-- A register that a result for threads of `m` will be written to later: a v-register name is bound at issue (R125, R312,
R338), and results in flight for it come no more after this one (R32). -/
def V.bindDst (v : V) (m : Mask) (o : Opnd) : V :=
  let v := v.supersede o m
  match o with
  | .v n => { v with f := { v.f with r := v.f.r.writeV n.val v.e.running 0 (fun _ => 0) 0 } }
  | _ => v

/-- Whether writing these names keeps the fascine within its declared peak (R125). -/
def V.capOk (v : V) (os : List Opnd) : Bool :=
  let held := v.f.chains.flatMap fun c => (c.mems.filterMap (·.writes)).filterMap fun h => if h.key < 160 then some h.key else none
  let names := os.filterMap fun o => match o with | .v n => some n.val | _ => none
  decide (((v.f.r.vb.map VBind.name) ++ held ++ names).eraseDups.length ≤ v.p.regs)

/-! ## Field kinds and their checks (R37, R41) -/

/-- A field of an instruction with its kind. Three stand for A, B and C. -/
inductive FChk where
  | d (o : Opnd)                    -- destination
  | ds (o : Opnd)                   -- destination that is read
  | s (o : Opnd)                    -- source
  | sx (o : Opnd)                   -- source marked ‡ (R41)
  | lane (o : Opnd)                 -- source read across lanes (R33): its body consumes poison
  | lanex (o : Opnd)                -- such a source marked ‡
  | u (o : Opnd)                    -- uniform source
  | a2 (o : Opnd)                   -- address pair
  | a2u (o : Opnd)                  -- uniform address pair
  | g (o : Opnd)                    -- base and bound pair of the gather collector
  | ed (n : Nat) (o : Opnd)         -- e2 or e4 destination
  | es (n : Nat) (o : Opnd)         -- e2 or e4 source
  | vq (n : Nat) (o : Opnd)         -- block of n v-registers, read
  | vr (n : Nat) (rw : Bool) (o : Opnd) -- block of n v-registers, written, and read when rw
  | sreg (zero : Bool) (o : Opnd)   -- an s-register destination, or zero when allowed
  | vd (o : Opnd)                   -- a v-register destination
  | p (q : Pred)                    -- predicate source
  | pu (q : Pred)                   -- predicate source of an operation over the sub-group
  | lit (ok : Bool)                 -- literal in its range
  | any                             -- ignored, or checked by its decoding
  deriving DecidableEq, Repr

/-- The check of a written field: R37, and the lease of a b-register (R132). -/
def V.chkD (v : V) : Opnd → Option Trap
  | .v _ => none
  | .s _ => none
  | .zero => none
  | .b _ => if v.p.lease = v.l.f then none else some .lease
  | _ => some .illopnd
/-- The check of a readable field: R37 and R40. -/
def chkS : Opnd → Option Trap
  | .rsv _ => some .illopnd
  | .ch => some .illopnd
  | _ => none
/-- The check of a uniform source (R37). -/
def chkU (o : Opnd) : Option Trap := if o.perThread then some .illopnd else chkS o
/-- The check of a group of n registers from an aligned code (R37); a special code names none (log 58). -/
def chkE (n : Nat) (o : Opnd) : Option Trap := if o.isReg && o.code % n == 0 then none else some .illopnd

/-- A field's check; `uni` says that the instruction is uniform. -/
def V.chk (v : V) (uni : Bool) : FChk → Option Trap
  | .d o => v.chkD o
  | .ds o => v.chkD o
  | .s o => if uni then chkU o else chkS o
  | .sx o => chkS o
  | .lane o => if uni then chkU o else chkS o
  | .lanex o => chkS o
  | .u o => chkU o
  | .a2 o => if uni && o.perThread then some .illopnd else chkE 2 o
  | .a2u o => if o.perThread then some .illopnd else chkE 2 o
  | .g o => match o with
    | .s n => if n.val % 2 = 0 then none else some .illopnd
    | _ => some .illopnd
  | .ed n o => match v.chkD o with
    | some t => some t
    | none => if o = .zero || o.code % n == 0 then none else some .illopnd
  | .es n o => if uni && o.perThread then some .illopnd else if o = .zero then none else chkE n o
  | .vq n o => match o with
    | .v m => if m.val % 4 = 0 && m.val + roundUp n 4 ≤ 160 then none else some .illopnd
    | _ => some .illopnd
  | .vr n _ o => match o with
    | .v m => if m.val % 4 = 0 && m.val + roundUp n 4 ≤ 160 then none else some .illopnd
    | _ => some .illopnd
  | .sreg z o => match o with
    | .s _ => none
    | .zero => if z then none else some .illopnd
    | _ => some .illopnd
  | .vd o => match o with
    | .v _ => none
    | _ => some .illopnd
  | .p _ => none
  | .pu _ => none
  | .lit ok => if ok then none else some .illopnd
  | .any => none

/-- Whether a field is a destination that names an s- or b-register, which makes a t instruction uniform (R41). -/
def FChk.makesUniform : FChk → Bool
  | .d (.s _) => true
  | .d (.b _) => true
  | .ds (.s _) => true
  | .ds (.b _) => true
  | .ed _ (.s _) => true
  | .ed _ (.b _) => true
  | _ => false

/-- The operands that a field reads and that its threads consume (R129). -/
def FChk.reads : FChk → List Opnd
  | .ds o => [o]
  | .s o => [o]
  | .sx _ => []
  | .u o => [o]
  | .a2 o => [o, o.plus 1]
  | .a2u o => [o, o.plus 1]
  | .g o => [o, o.plus 1]
  | .es n o => (List.range n).map o.plus
  | .vq n o => (List.range n).map o.plus
  | .vr n true o => (List.range n).map o.plus
  | _ => []

/-- The operands that a field writes. -/
def FChk.dests : FChk → List Opnd
  | .d o => [o]
  | .ds o => [o]
  | .ed n o => (List.range n).map o.group
  | .vr n _ o => (List.range n).map o.group
  | .sreg _ o => [o]
  | .vd o => [o]
  | _ => []

/-- Whether a field is a predicate source that its threads consume. -/
def FChk.isPred : FChk → Bool
  | .p q => q.idx.val != 7
  | .pu q => q.idx.val != 7
  | _ => false

/-- The v-registers that a last-read bit on the field frees: those of a field that is read and not written (R34). -/
def FChk.freed : FChk → List Nat
  | .ds _ => []
  | .vr _ _ _ => []
  | .sx (.v n) => [n.val]
  | .lane (.v n) => [n.val]
  | .lanex (.v n) => [n.val]
  | f => f.reads.filterMap fun o => match o with | .v n => some n.val | _ => none

end Sys2Proof.Machine
end

