-- ==== Sys2Proof/Machine/Flags.lean ====
section
/-! DEFINITION. Flags: the combine of a compare (R38), carries and borrows (R143), integer comparison, and the sticky
exception bits with their trap (R81, R138, R139). -/
namespace Sys2Proof.Machine

/-- combine(p, c) of R38. -/
def combine (k : Comb) (p c : Bool) : Bool :=
  match k with
  | .set => c
  | .and => p && c
  | .or => p || c
  | .xor => p != c

/-- compare of R110 on integers; conditions 6 and 7 never reach it (R38). -/
def condInt (c : Cond) (a b : Int) : Bool :=
  match c with
  | .eq => a == b
  | .ne => a != b
  | .lt => decide (a < b)
  | .le => decide (a ≤ b)
  | .gt => decide (b < a)
  | .ge => decide (b ≤ a)
  | .ord => false
  | .unord => false

/-- A condition that only a floating type has (R38). -/
def condFloat : Cond → Bool
  | .ord => true
  | .unord => true
  | _ => false

/-- ADDC (R143): the sum word and the carry out. -/
def addCarry (b c : Word) (p6 : Bool) : Word × Bool :=
  let x := b.toNat + c.toNat + (if p6 then 1 else 0)
  (BitVec.ofNat 32 x, decide (2 ^ 32 ≤ x))

/-- SUBB (R143): the difference word and the borrow out. -/
def subBorrow (b c : Word) (p6 : Bool) : Word × Bool :=
  let x : Int := (b.toNat : Int) - c.toNat - (if p6 then 1 else 0)
  (BitVec.ofInt 32 x, decide (x < 0))

/-- Exceptions signalled by an instruction outside a chain (R81): the trap when one is enabled, else the view with the
sticky bits set. -/
def V.signal (w : V) (exc : BitVec 5) : Except TrapInfo V :=
  if exc &&& modeTen w.e.mode != 0 then .error { t := .arith, sub := exc.toNat }
  else .ok { w with f := { w.f with exc := w.f.exc ||| exc } }

/-- SETSR to EXC (R139): a 1 clears a sticky bit. -/
def clearExc (exc : BitVec 5) (x : Word) : BitVec 5 := exc &&& ~~~(x.extractLsb' 0 5)

/-- The union of exceptions signalled for the threads of a mask. -/
def excOver (m : Mask) (f : Nat → BitVec 5) : BitVec 5 := (threadsOf m).foldl (fun a t => a ||| f t) 0

end Sys2Proof.Machine
end

