-- ==== Sys2Proof/Machine/Issue.lean ====
section
/-! DEFINITION. Issue of one instruction by one sub-group: the checks of R59 in their order, the guard and the active set
(R42), chains that a new instruction joins or ends (R94 to R104), consumption of poison (R129), the last-read bits
(R34, R124), and what every completed issue leaves behind (R25, R31, R389). -/
namespace Sys2Proof.Machine

/-- What an instruction is, apart from its effect: its three fields or its immediate (R37), its kind (R41), whether it
uses the guard (R42), its privilege (R58), its element types (R43), whether it is a chain member (R94), whether it
crosses lanes (R33), whether it may write registers, predicates or memory, whether undo cannot pass it, and whether its threads
exit (R389). -/
structure Desc where
  a : FChk := .any
  b : FChk := .any
  c : FChk := .any
  unif : Bool := false
  guard : Bool := true
  priv : Bool := false
  tys : Option (List Nat) := none
  member : Bool := false
  cross : Bool := false
  log : Bool := true
  wall : Bool := false
  exits : Bool := false
  deriving DecidableEq, Repr

/-- The fields of an instruction in the order of their checks. -/
def Desc.fields (d : Desc) : List FChk := [d.a, d.b, d.c]
/-- Whether the instruction is uniform (R41). -/
def Desc.uniform (d : Desc) : Bool := d.unif || d.a.makesUniform

/-- How a body ends. `w` is the view it leaves; the last-read bits have been applied to it. -/
inductive Res where
  | next (w : V)                             -- the sub-group goes on at the slot that follows (R25)
  | jump (w : V)                             -- the body has placed the sub-group (R159)
  | nextThen (w : V) (k : State → State)     -- as next; then more happens to the package
  | trap (t : TrapInfo)                      -- a precise trap: no effect (R59)
  | trapAfter (t : TrapInfo)                 -- TRAP, BKPT and HALT: saved PC after the instruction (R176)
  | wait                                     -- the sub-group stays before the instruction
  | busy                                     -- its stage is occupied: it stays, and remains eligible (R91, R163)
  | again (w : V)                            -- the body has done a part; the sub-group stays
  | hold (w : V)                             -- the instruction has begun; its end moves the sub-group on

/-! ## Chains at issue -/

/-- Whether a chain's last member ended it: CHCLOSE or CHCANCEL (R94). -/
def Chain.ended (c : Chain) : Bool :=
  match c.mems.getLast? with
  | none => false
  | some m => m.word.toNat / 2 ^ 24 == 0x42 || m.word.toNat / 2 ^ 24 == 0x43

/-- The chain of the issuing sub-group that accepts members (R94, R99). -/
def V.chain? (v : V) : Option Chain := v.f.chains.find? fun c => c.g == v.l.g && c.st != 2
/-- Condition 5 of R94. -/
def V.cond5 (v : V) : Bool := !v.l.rejoin && v.l.wm0
/-- Whether the instruction co-streams, and so joins the chain of its predecessor (R94, R95). -/
def V.joins (v : V) (d : Desc) : Bool :=
  match v.chain? with
  | none => false
  | some c =>
    d.member && (0 < c.nopen || v.l.dist == 0) && !c.mems.isEmpty && !c.ended && c.unif == d.uniform && v.cond5
/-- Whether the instruction is the first member of an explicit chain (R95). -/
def V.opens (v : V) (d : Desc) : Bool :=
  match v.chain? with
  | none => false
  | some c => d.member && 0 < c.nopen && c.mems.isEmpty && v.cond5
/-- Whether the instruction breaks the sequence that CHOPEN announced (R95). -/
def V.breaks (v : V) (d : Desc) : Bool :=
  match v.chain? with
  | none => false
  | some c => 0 < c.nopen && !v.joins d && !v.opens d
/-- The codes of the registers that an instruction reads. -/
def Desc.sourceKeys (d : Desc) : List Nat :=
  (d.fields.flatMap fun x => x.reads ++ (match x with
    | .sx o => [o]
    | .lane o => [o]
    | .lanex o => [o]
    | _ => [])).map Opnd.code
/-- Whether a key names a register or predicate source of the instruction, its guard included (R32, R33, R42). -/
def V.isSource (v : V) (d : Desc) (key : Nat) : Bool :=
  d.sourceKeys.contains key || (d.guard && 256 + (guardOf v.e.mode).idx.val == key) ||
    d.fields.any fun x => match x with
      | .p q => 256 + q.idx.val == key
      | .pu q => 256 + q.idx.val == key
      | _ => false

/-- What a lane-crossing instruction still waits for: a result in flight for a register, or a predicate, that it reads
(R33). -/
def V.crossWaits (v : V) (d : Desc) : Bool :=
  d.cross && ((v.late v.e.running).any (·.2.any (v.isSource d)) ||
    v.f.haz.any fun h => h.g == v.l.g && v.isSource d h.key && v.f.flagged h)

/-- What the sub-group must see end before it issues this instruction: a chain under a trap enable (R104), or the writes of a
lane-crossing instruction's sources (R33). -/
def V.blocked (v : V) (d : Desc) : Bool :=
  (v.f.chains.any fun c => c.g == v.l.g && modeTen c.mode != 0 && !c.mems.isEmpty && (c.st == 2 || (c.st == 1 && !v.joins d))) ||
    v.crossWaits d
/-- An instruction that does not co-stream sends the sub-group's implicit chain to DRAINING (R99). -/
def V.endChain (v : V) : V :=
  { v with f := { v.f with chains := v.f.chains.map fun (c : Chain) => if c.g = v.l.g ∧ c.st = 1 then { c with st := 2 } else c } }

/-! ## The stages of an issue -/

/-- Writes of a fascine, newest first, after n beats of sub-group g: those that `now` completes, and those whose separation
has passed, go, and with them what they overtake (R32); a member's stays, without a say in what is read, while its chain is
in flight (R97). -/
def passHaz (f : Fascine) (g n : Nat) (now : Nat → Bool) : List Hazard → List Hazard
  | [] => []
  | h :: hs =>
    let rest := passHaz f g n now hs
    if h.g ≠ g || f.flagged h then h :: rest
    else if h.op.isSome || h.left ≤ n || now h.key then
      let rest := overtake h.key g h.mask rest
      if h.chain.any fun c => f.chains.any (·.id == c.1) then { h with left := 0 } :: rest else rest
    else { h with left := h.left - n } :: rest

/-- R32: the instruction's distance has passed for every earlier write of its sub-group; a distance of 0 counts as 1 (R31),
and co-streamed members are separated by 0 beats whatever their distance (R95, R96). A lane-crossing instruction waits for all writes of its sources (R33). What a completion flag
settles stays until its operation has ended. -/
def V.elapse (v : V) (d : Desc) (cs : Bool) : V :=
  let hs := passHaz v.f v.l.g (if cs then 0 else max 1 v.l.dist) (fun k => d.cross && v.isSource d k) v.f.haz
  { v with f := { v.f with haz := hs.filter fun (h : Hazard) => (h.g == v.l.g && 0 < h.left) || v.f.inFlight v.s.beat h } }

/-- Checks 3 to 5 of R59: privilege, fields, element type. -/
def V.decodeTrap (v : V) (d : Desc) : Option Trap :=
  if d.priv && !v.p.sys then some .priv
  else
    match d.fields.findSome? (v.chk d.uniform) with
    | some t => some t
    | none =>
      match d.tys with
      | some l => if l.contains (etype v.e.mode) then none else some .illopnd
      | none => none

/-- The threads the instruction acts for: active(G), or all running threads when it ignores the guard (R42). -/
def V.acts (v : V) (d : Desc) : Mask := if d.guard then v.active else v.e.running

/-- Whether the instruction consumes poison through a register or predicate field (R129); SEL reads both of its sources
(log 62). -/
def V.consumes (v : V) (d : Desc) (act : Mask) : Bool :=
  (d.fields.flatMap FChk.reads).any (fun o => (threadsOf act).any (v.pois o)) ||
    (d.fields.any FChk.isPred && (act &&& v.f.r.ppois) != 0)

/-- The v-register names that the last-read bits of the slot free (R34). -/
def V.freedNames (v : V) (d : Desc) : List Nat :=
  (d.fields.zipIdx.filter (fun x => v.l.last.getLsbD x.2)).flatMap (fun x => x.1.freed)

/-- Names freed by the issuing sub-group (R124). -/
def V.free (v : V) (names : List Nat) : V :=
  { v with f := { v.f with r := names.foldl (fun r n => r.lastRead n v.e.running) v.f.r } }

/-- The b-registers that the fields read: their reads never go back (R134). -/
def V.seen (v : V) (d : Desc) (w : V) : V :=
  let ns := (d.sourceKeys.filter fun k => 208 ≤ k && k < 224).map (· - 208)
  { w with f := { w.f with bseen := ns.foldl (fun l n =>
      let k := (v.p.breg.getD n []).length - v.bpick n
      setAt l n (max (l.getD n 0) k)) w.f.bseen } }

/-- What a split-table change changes: everything of the entries but their pc (R158, R389). -/
def splitPart (e : SplitEntry) : Mask × Mask × Word × Bool × Bool × BitVec 24 := (e.mask, e.park, e.rpc, e.rjf, e.val, e.mode)

/-- The registers and predicates that an instruction writes, now or when a result of it comes: by code, and 256 + number (R389). -/
def V.stepKeys (v w : V) (d : Desc) : List Nat :=
  let news := w.f.ops.filter fun o => v.f.nextOp ≤ o.id
  let held := if d.member then (w.f.chains.filter (·.g == v.l.g)).filterMap fun c => (c.mems.getLast?.bind Member.writes).map Held.key else []
  let ks := (d.fields.flatMap FChk.dests).map Opnd.code ++ ((w.f.haz.filter fun h => !v.f.haz.contains h).map Hazard.key) ++
    news.flatMap MemOp.dstKeys ++ held ++
    ((v.f.r.vb ++ w.f.r.vb).map VBind.name).filter fun n => v.f.r.bind? n != w.f.r.bind? n
  if v.acts d = 0 then [] else (ks.filter fun k => k < 224 || (256 ≤ k && k < 263)).eraseDups
/-- The steps, newest first, of which a ring of that many entries still holds all (R389). -/
def keepSteps : Nat → List UndoStep → List UndoStep
  | _, [] => []
  | room, u :: us => if u.n ≤ room then u :: keepSteps (room - u.n) us else []
/-- n entries appended to the log of fascine f: their bytes, which no rule gives, in the memory of its region (R389, log 25). -/
def V.logBytes (w : V) (n : Nat) : V :=
  let s := match w.p.ureg, w.s.ctx? w.p.ctx with
    | some r, some c => (List.range n).foldl (fun s i =>
        let k := (w.f.logPos + i) % 1024
        s.deviceWrite c.c (c.upool + 6 * 2 ^ 20 * r + 96 * 1024 * w.l.f + 96 * k)
          ((List.range 24).flatMap fun j => wordBytes (Config.freeWord (w.s.draw (2 ^ 36 + 24 * i + j))))) w.s
    | _, _ => w.s
  { w with s := s, f := { w.f with logPos := w.f.logPos + n, log := keepSteps 1024 w.f.log } }

/-- The undo log entries of an instruction (R389), when undo is on: of one that writes registers, predicates, the split table or memory,
or a wall. A chain is one step. A store or an atomic needs an entry for each thread, or for up to four (free, log 25). -/
def V.logStep (v w : V) (d : Desc) : V :=
  let split := d.exits && v.acts d != 0 || v.fasc.r.ents.map splitPart != w.fasc.r.ents.map splitPart
  let whole := match w.e.hold with
    | .regroup _ _ _ => true
    | _ => false
  let k := ((w.f.ops.filter fun o => v.f.nextOp ≤ o.id && (match o.kind with
    | .store => true
    | .atomic _ _ => true
    | _ => false)).map fun o => if o.uni then 1 else popcount 16 o.mask.toNat).foldl (· + ·) 0
  let keys := v.stepKeys w d
  if !v.p.logs || !(d.wall || split || d.log && (!keys.isEmpty || k != 0)) then w
  else
    let b := (keys.filter fun n => 208 ≤ n && n < 224).map fun n => (n - 208, bvalue (v.p.breg.getD (n - 208) []) 0, v.p.bpois.getD (n - 208) false)
    let lo := (k + 3) / 4
    let n := max 1 (keys.length + (if split then 1 else 0) + lo + v.s.choose (2 ^ 33 + 1) (k - lo + 1))
    let ch := if !d.member then none
      else if v.joins d || v.opens d then v.chain?.map (·.id) else w.f.chains.getLast?.map (·.id)
    let pc := ((w.f.chains.find? fun c => some c.id == ch).map (·.pc1)).getD v.e.pc
    let st : UndoStep := { wall := d.wall, pc := pc, g := v.l.g, chain := ch, regs := v.fasc.r, keys := keys, exits := d.exits, whole := whole,
                           n := n, breg := b, op := if w.f.nextOp = v.f.nextOp then none else some v.f.nextOp }
    let log := if ch.isSome && w.f.log.any (·.chain == ch) then
        w.f.log.map fun (u : UndoStep) => if u.chain != ch then u else
          { u with n := u.n + n, keys := (u.keys ++ keys).eraseDups, breg := u.breg ++ b.filter fun x => !u.breg.any (·.1 == x.1) }
      else st :: w.f.log
    { w with f := { w.f with log := log } }.logBytes n

/-- An entry that has issued in a beat (R31, R163): it may become eligible in the next, or after its sleep (R174). -/
def SplitEntry.hasIssued (e : SplitEntry) (beat : Nat) : SplitEntry :=
  { e with since := beat + max 1 e.sleep, elig := false, waited := false, stuck := false, issued := beat, urgent := false }

/-- Whether an issue leaves its bundle for another one (R166). -/
def V.leaves (v w : V) (adv : Bool) : Bool :=
  let pc := if adv then nextSlot v.e.pc else w.e.pc
  v.l.yieldh && pc.toNat / 16 != v.e.pc.toNat / 16

/-- The choice of a port recorded (R164). -/
def State.choseNow (s : State) (c : Option Chosen) : State :=
  match c with
  | none => s
  | some c => { s with chosen := c :: s.chosen.filter fun x => !(x.core == c.core && x.part == c.part && x.port == c.port) }

/-- What every issue that goes on leaves behind: the sub-group has issued, and its next slot (when `adv`) is no entry
slot (R25, R28, R157, R166, R372). -/
def V.finish (v w : V) (d : Desc) (adv : Bool) : V :=
  let w := v.logStep (v.seen d w) d
  let e := w.e.hasIssued v.s.beat
  let e := if adv then e.goto (nextSlot v.e.pc) false else e
  { w with s := w.s.choseNow v.l.chosen, e := e,
           f := { w.f with active := true, ready := v.s.beat + 1, settle := false,
                           yielded := if v.leaves w adv then v.s.beat else w.f.yielded,
                           stop := if v.p.halt.isSome then { w.f.stop with skid := w.f.stop.skid + 1 } else w.f.stop } }

/-- The state in which nothing of the instruction has happened. -/
def V.stay (v : V) : State := { v.s with cur := none, free := v.s.free + 1 }

/-- The sub-group waits before the instruction: it is not eligible in this beat (R163). -/
def V.delayed (v : V) : State := { v with e := { v.e with elig := false, waited := true, stuck := true, urgent := false } }.put

/-- A precise trap taken by the issuing sub-group (R59). -/
def V.trapped (v : V) (t : TrapInfo) : State := v.stay.takeTrap v.l.h v.l.f v.l.g v.e.pc v.e.pc t
/-- The trap of TRAP, BKPT or HALT, which has issued and left `w` behind: the saved PC is the slot after it (R176, R376). -/
def V.trappedAfter (v w : V) (t : TrapInfo) : State :=
  w.put.takeTrap v.l.h v.l.f v.l.g v.e.pc (nextSlot v.e.pc) t

/-- The instruction holds its sub-group, which is not eligible until it ends (R163). -/
def V.held (w : V) : V := { w with e := { w.e with waited := true } }

/-- Whether a failed translation stands for a memory that cannot be reached now: the instruction waits (R22). -/
def TrapInfo.waits (t : TrapInfo) : Bool := t.t == .page && t.sub % 16 == 0

/-- A word that traps whatever its guard, with no fields to check (R57). -/
def V.bare (v : V) (t : Trap) : State := if v.blocked {} then v.endChain.delayed else v.trapped { t := t }

/-- ISSUE of one instruction (R59). `v0` is the latched view; the body gets the view it reads from, the view with the
last-read bits applied that it writes to, and its threads. -/
def V.issue (v0 : V) (d : Desc) (body : V → V → Mask → Res) : State :=
  let cs := v0.joins d
  if v0.blocked d then v0.endChain.delayed
  else
    let v := v0.elapse d cs
    match v.decodeTrap d with
    | some t => v0.trapped { t := t }
    | none =>
      if v.breaks d then v0.trapped { t := .chseq }
      else if d.guard && v.guardPois then v0.trapped { t := .poison }
      else
        let act := v.acts d
        if v.consumes d act then v0.trapped { t := .poison }
        else
          let w := if cs then v else v.endChain
          let w := w.free (v.freedNames d)
          if act = 0 && !d.member then (v.finish w { d with log := false, wall := false } true).put
          else
            match body v w act with
            | .next w => (v.finish w d true).put
            | .jump w => (v.finish w d false).put
            | .nextThen w k => k (v.finish w d true).put
            | .hold w => (v.finish w d false).held.put
            | .trap t => if t.waits then v0.delayed else v0.trapped t
            | .trapAfter t => v0.trappedAfter (v.finish w d true) t
            | .again w => { w with f := { w.f with haz := v0.f.haz, active := true } }.delayed
            | .wait => v0.delayed
            | .busy => v0.endChain.put

/-- The meaning of an instruction word: it issues for the sub-group in the issue latch. -/
def issue (s : State) (d : V → Desc) (body : V → V → Mask → Res) : Host.Outcome State Fault Refusal :=
  match s.view with
  | none => .fault .noIssuer
  | some v => .next (v.issue (d v) body)

/-! ## Ways for a body to end -/

/-- A value taken once for a uniform instruction, else per thread (R41). -/
def lanes {α : Type} (u : Bool) (act : Mask) (f : Nat → α) : Nat → α := if u then fun _ => f (lowest act) else f

/-- Threads whose words a destination takes: those the instruction acts for (R41). -/
def V.result (_v w : V) (d : Desc) (o : Opnd) (act : Mask) (f : Nat → Word) (L : Nat := 2) : Res :=
  if !w.capOk [o] then .trap { t := .regcap } else .next (w.wr o act (lanes d.uniform act f) L)

/-- The trap of a failed translation of a generic address (R399). -/
def pageTrap (va : Nat) (f : PFault) (fetch : Bool) : TrapInfo :=
  { t := .page, sub := f.cause + 16 * f.level + (if f.write then 64 else 0) + (if fetch then 128 else 0), addr := va }

/-! ## Order -/

/-- Whether a location is a culvert window, which is no location of memory (R204). -/
def Loc.isCulvert : Loc → Bool
  | .culvert _ _ _ => true
  | _ => false
/-- A place in the global space: the only one that is translated. -/
def Loc.isGlob : Loc → Bool
  | .glob _ _ _ => true
  | _ => false
/-- Whether an operation still has accesses of R204 to perform. -/
def MemOp.accesses (o : MemOp) : Bool :=
  (match o.kind with
    | .load _ _ => true
    | .store => true
    | .atomic _ _ => true
    | _ => false) && o.acc.any (!·.loc.isCulvert)
/-- Whether an operation returns values to its issuer (R207). -/
def MemOp.reads (o : MemOp) : Bool :=
  match o.kind with
  | .load _ _ => true
  | .atomic _ _ => true
  | _ => false

/-- Whether an operation of fascine `q.f` is one that the thread issued there, in the epoch in which it was there (R205). -/
def Prior.holds (q : Prior) (o : MemOp) : Bool := decide (o.id < q.upto) && o.ep == q.ep && o.mask.getLsbD q.u
/-- An operation of the fascine where a REGROUP found a thread, as it stands in the thread's program order now (R205). -/
def MemOp.moved (o : MemOp) (q : Prior) : MemOp :=
  { o with mask := maskOf (· == q.t),
           acc := if o.uni then o.acc else (o.acc.filter (·.t == q.u)).map fun (x : Access) => { x with t := q.t } }
/-- The operations in flight that threads issued at the places `l` where REGROUPs found them (R205). -/
def Polder.priorOps (p : Polder) (l : List Prior) : List (Prior × MemOp) :=
  l.flatMap fun q => (((p.fs[q.f]?).getD {}).ops.filter fun o => q.holds o).map fun o => (q, o.moved q)
/-- The operations in flight that threads `m` of fascine i issued before a REGROUP moved them (R205). -/
def Polder.earlier (p : Polder) (i : Nat) (m : Mask) : List (Prior × MemOp) :=
  p.priorOps (((p.fs[i]?).getD {}).prior.filter (m.getLsbD ·.t))
/-- The operations in flight in the program order of the sub-group's threads: those of its fascine, and earlier ones. -/
def V.mine (v : V) : List MemOp := v.f.ops.filter fun o => o.ep == v.f.epoch && (o.mask &&& v.e.running) != 0

/-- No access of the sub-group's threads is still to be performed (R207, R218). -/
def V.quiet (v : V) : Bool := v.mine.all (!·.accesses) && (v.p.earlier v.l.f v.e.running).all fun x => !x.2.accesses

/-- A release at polder scope or wider: the holder's b-register writes so far are released (R134). -/
def V.releaseB (w : V) : V := if w.p.lease = w.l.f then { w with p := { w.p with brel := w.p.breg.map List.length } } else w
/-- An acquire's invalidation by the issuing fascine at a scope (R190, R192, R215). -/
def V.acquire (w : V) (scope : Nat) : V :=
  { w with s := w.s.invalidate w.p scope }

/-- Whether an operation is an SLSTAT. -/
def MemOp.isStatus (o : MemOp) : Bool :=
  match o.kind with
  | .status _ => true
  | _ => false
/-- An SLSTAT of the sub-group's threads is in flight: its result may be an acquire, which precedes their later accesses (R218,
R252). -/
def V.asking (v : V) : Bool := v.mine.any MemOp.isStatus || (v.p.earlier v.l.f v.e.running).any fun x => x.2.isStatus

/-- What the fences, acquire loads and SLSTATs before it ask of an access (R211, R215, R252): whether one of its threads' earlier
accesses must be performed before it issues. -/
def V.mustWait (v : V) : Bool :=
  let old := v.p.earlier v.l.f v.e.running
  v.asking || (v.mine.any fun o => decide (o.id < v.e.scBefore) && o.accesses) ||
    (old.any fun x => (0 < v.e.scBefore || decide (x.2.id < x.1.sc)) && x.2.accesses) ||
    match v.e.acq with
    | none => false
    | some (n, _) =>
      (v.mine.any fun o => decide (o.id < n) && o.reads && o.accesses) ||
        (old.any fun x => (0 < n || decide (x.2.id < x.1.acq)) && x.2.reads && x.2.accesses)
/-- The view in which a pending acquire has been carried out (R190, R215). -/
def V.ordered (v w : V) : V :=
  match v.e.acq with
  | none => w
  | some (_, scope) => { w with e := { w.e with acq := none, facq := false, scBefore := 0 } }.acquire scope
/-- The order of an access at its issue: none: it waits. -/
def V.order (v w : V) : Option V := if v.mustWait then none else some (v.ordered w)

/-- What an engine instruction, and a release that is no access, wait for: their threads' earlier accesses (R207, R218),
with a pending acquire. -/
def V.engineOrder (v w : V) : Option V := if v.quiet && !v.asking then some (v.ordered w) else none

end Sys2Proof.Machine
end

