-- ==== Sys2Proof/Machine/Element.lean ====
section
/-! DEFINITION. Element types and what an instruction computes on one element (spec/03_numbers.md R65 to R86,
spec/04_chain.md R107 to R112). -/
namespace Sys2Proof.Machine

/-! ## Element types (R43, R65, R67) -/

/-- Whether an ETYPE code is an integer type. -/
def isIntT (T : Nat) : Bool := T < 6
/-- Whether an integer type is signed. -/
def signedT (T : Nat) : Bool := T % 2 == 0
/-- Element width w(T). -/
def widthT (T : Nat) : Nat := (([32, 32, 16, 16, 8, 8, 32, 16, 16, 8, 8, 4] : List Nat)[T]?).getD 32
/-- Elements per word. -/
def countT (T : Nat) : Nat := 32 / widthT T
/-- The format of a floating type. -/
def fmtT (T : Nat) : Fmt :=
  match T with
  | 7 => .f16
  | 8 => .bf16
  | 9 => .e4m3
  | 10 => .e5m2
  | _ => .f32
/-- Type groups of R108. -/
def grpI : List Nat := [0, 1]
/-- Packed integers. -/
def grpK : List Nat := [2, 3, 4, 5]
/-- f32. -/
def grpF : List Nat := [6]
/-- 16-bit floats. -/
def grpH : List Nat := [7, 8]
/-- 8-bit floats. -/
def grpE : List Nat := [9, 10]
/-- I K F H. -/
def grpIKFH : List Nat := grpI ++ grpK ++ grpF ++ grpH
/-- F H. -/
def grpFH : List Nat := grpF ++ grpH

/-- P of R77. -/
def keepP (T prec : Nat) : Nat :=
  if T = 6 then min 24 (32 - 4 * prec) else if T = 7 || T = 8 then min (fmtT T).p (16 - 2 * prec) else (fmtT T).p
/-- Q of R77. For the 8-bit float types the manual states none (log 17). -/
def keepQ (T prec : Nat) : Nat :=
  if T = 6 then 40 - 4 * prec else if T = 7 || T = 8 then 20 - 2 * prec else 4 + Config.streamBits8 % 37

/-- Element j of a word, as bits. -/
def elemBits (T : Nat) (w : Word) (j : Nat) : Nat := bits w.toNat (widthT T * j) (widthT T)
/-- Element j of a word of an integer type. -/
def elemInt (T : Nat) (w : Word) (j : Nat) : Int :=
  if signedT T then signed (widthT T) (elemBits T w j) else (elemBits T w j : Int)
/-- A word from its elements. -/
def packT (T : Nat) (f : Nat → Nat) : Word :=
  BitVec.ofNat 32 ((List.range (countT T)).foldl (fun a j => a + (f j % 2 ^ widthT T) * 2 ^ (widthT T * j)) 0)

/-- An element of a floating operand: its value, its bits when it comes from a register, and whether it is a signalling
NaN. -/
structure FEl where
  v : Fv
  raw : Option Nat := none
  snan : Bool := false
  deriving DecidableEq, Repr

/-- Element j of a register word read as a floating type, flushed under FTZ (R79, R107). -/
def elemF (T : Nat) (ftz : Bool) (w : Word) (j : Nat) : FEl :=
  let F := fmtT T
  let x := elemBits T w j
  let v := F.decode x
  { v := if ftz && F.isSub x then .zero (F.sign x) false else v, raw := some x, snan := F.isSnan x }

/-- reduce_int (R66, R107): the encoding of an exact integer in a type. -/
def reduceInt (T : Nat) (satf : Bool) (x : Int) : Nat :=
  let w := widthT T
  let lo : Int := if signedT T then -(2 ^ (w - 1)) else 0
  let hi : Int := if signedT T then 2 ^ (w - 1) - 1 else 2 ^ w - 1
  wrap w (if satf then max lo (min hi x) else x)

/-- The rounding of an instruction from its mode register. -/
def rndOf (m : BitVec 24) (draw : Nat) : Rnd := { mode := modeRnd m, satf := modeSat m, ftz := modeFtz m, draw := draw }

/-! ## Operations (R108, R109) -/

/-- The members of a chain (R94). -/
inductive COp where
  | add | sub | mul | mad | msb | nmad | nmsb | min | max | abs | neg | div | sqrt | rcp | rsq | exp2 | log2 | sin | cos
  | dot2 | dot4 | lerp | clamp | frac | roundi | cvt | sat | scale | cmp | cmps | sel | class | dec | close | cancel
  deriving DecidableEq, Repr

/-- The online delay (R93). -/
def COp.delay : COp → Nat
  | .close | .cancel => 0
  | .mul | .mad | .msb | .nmad | .nmsb | .dot2 | .dot4 | .lerp => 2
  | .div | .sqrt | .rcp | .rsq => 3
  | .exp2 | .log2 | .sin | .cos => 4
  | _ => 1

/-- The element types an operation takes (R108, R112, R115, R116); none: no check. -/
def COp.types : COp → Option (List Nat)
  | .add | .sub | .mul | .mad | .msb | .nmad | .nmsb | .min | .max | .abs | .neg | .clamp | .cmp | .cmps | .dec => some grpIKFH
  | .div | .sqrt | .rcp | .rsq | .exp2 | .log2 | .sin | .cos | .lerp | .frac | .roundi | .sat | .scale | .class => some grpFH
  | .dot2 => some (grpH ++ [2, 3])
  | .dot4 => some ([4, 5] ++ grpE)
  | .cvt => some (grpIKFH ++ grpE)
  | .sel => some (grpIKFH ++ grpE ++ [11])
  | .close => some (grpIKFH ++ grpE)
  | .cancel => none

/-- Whether the output of a member is a value of the chain's element type, so that the next may read `ch` (R96). -/
def COp.streams : COp → Bool
  | .cmp | .class | .dot2 | .dot4 | .close | .cancel => false
  | _ => true

/-- The result type Tr (R108). -/
def COp.resultT (op : COp) (T : Nat) : Nat :=
  match op with
  | .dot2 | .dot4 => if !isIntT T then 6 else if signedT T then 0 else 1
  | _ => T

/-- An operation on exact integers: B, C and A of one element (R108). -/
def intOp (op : COp) (T : Nat) (a b c : Int) : Int :=
  match op with
  | .add => b + c
  | .sub => b - c
  | .mul => b * c
  | .mad => b * c + a
  | .msb => b * c - a
  | .nmad => -(b * c + a)
  | .nmsb => a - b * c
  | .min => min b c
  | .max => max b c
  | .abs => if signedT T then b.natAbs else b
  | .neg => -b
  | .clamp => min (max a b) c
  | .cmps => if b < c then -1 else if b = c then 0 else 1
  | _ => b

/-- The exact product with a flag when a factor is a signalling NaN left to the caller. -/
def fvSub (mode : Nat) (a b : Fv) : Fv × BitVec 5 := Fv.add mode a b.negate

/-- B minus the greatest integer not above it (R108, R109). -/
def fvFrac (mode : Nat) (b : Fv) : Fv × BitVec 5 :=
  match b with
  | .nan _ => (.nan false, 0)
  | .inf _ => (.nan false, xInv)
  | .zero _ _ => (.zero (mode == 3) false, 0)
  | .fin q => (Fv.ofQ (q.sub (Q.int q.floor)) (mode == 3), 0)

/-- LERP (R108, R109). -/
def fvLerp (mode : Nat) (a b c : FEl) : Fv × BitVec 5 :=
  let special (x : FEl) : Bool := x.v.isNan || x.v.isInf
  if special a || special b || special c then
    let quiet := [a, b, c].any fun x => x.v.isNan && !x.snan
    (.nan false, if quiet then 0 else xInv)
  else
    let d := (fvSub mode b.v a.v).1
    Fv.add mode a.v (Fv.mul c.v d).1

/-- A root or power on a value, special cases of R109 first. -/
def transOp (op : COp) (b : Fv) : Ex × BitVec 5 :=
  match op, b with
  | _, .nan _ => (.val (.nan false), 0)
  | .sqrt, .zero s k => (.val (.zero s k), 0)
  | .sqrt, .inf s => if s then (.val (.nan false), xInv) else (.val (.inf false), 0)
  | .sqrt, .fin q => if q.num < 0 then (.val (.nan false), xInv) else (exSqrt q, 0)
  | .rsq, .zero s _ => (.val (.inf s), xDz)
  | .rsq, .inf s => if s then (.val (.nan false), xInv) else (.val (.zero false false), 0)
  | .rsq, .fin q => if q.num < 0 then (.val (.nan false), xInv) else (exSqrt ((Q.int 1).div q), 0)
  | .exp2, .zero _ _ => (.val (.fin (Q.int 1)), 0)
  | .exp2, .inf s => (.val (if s then .zero false false else .inf false), 0)
  | .exp2, .fin q => (exExp2 q, 0)
  | .log2, .zero _ _ => (.val (.inf true), xDz)
  | .log2, .inf s => if s then (.val (.nan false), xInv) else (.val (.inf false), 0)
  | .log2, .fin q => if q.num < 0 then (.val (.nan false), xInv) else (exLog2 q, 0)
  | .sin, .zero s _ => (.val (.zero s false), 0)
  | .sin, .fin q => (exSin q (.zero false false), 0)
  | .cos, .zero _ _ => (.val (.fin (Q.int 1)), 0)
  | .cos, .fin q => (exSin (q.add (Q.of 1 4)) (.zero false false), 0)
  | _, .inf _ => (.val (.nan false), xInv)
  | _, v => (.val v, 0)

/-- An operation on exact floating values: A, B and C of one element, with the exceptions of the stage (R108, R109).
`k` is the integer of field C of SCALE. -/
def floatOp (op : COp) (mode : Nat) (a b c : FEl) (k : Int) : Ex × BitVec 5 :=
  let sig (l : List FEl) (r : Fv × BitVec 5) : Ex × BitVec 5 :=
    let v := if r.1.isNan then .nan false else r.1
    (.val v, if l.any (·.snan) then r.2 ||| xInv else r.2)
  match op with
  | .add => sig [b, c] (Fv.add mode b.v c.v)
  | .sub => sig [b, c] (fvSub mode b.v c.v)
  | .mul => sig [b, c] (Fv.mul b.v c.v)
  | .mad => let p := Fv.mul b.v c.v; let r := Fv.add mode p.1 a.v; sig [a, b, c] (r.1, p.2 ||| r.2)
  | .msb => let p := Fv.mul b.v c.v; let r := fvSub mode p.1 a.v; sig [a, b, c] (r.1, p.2 ||| r.2)
  | .nmad => let p := Fv.mul b.v c.v; let r := Fv.add mode p.1 a.v; sig [a, b, c] (r.1.negate, p.2 ||| r.2)
  | .nmsb => let p := Fv.mul b.v c.v; let r := fvSub mode a.v p.1; sig [a, b, c] (r.1, p.2 ||| r.2)
  | .min => sig [b, c] (Fv.min b.v c.v, 0)
  | .max => sig [b, c] (Fv.max b.v c.v, 0)
  | .clamp => sig [a, b, c] (Fv.min (Fv.max a.v b.v) c.v, 0)
  | .abs => (.val b.v.abs, 0)
  | .neg => (.val b.v.negate, 0)
  | .div => sig [b, c] (Fv.quot b.v c.v)
  | .rcp => sig [b] (Fv.quot (.fin (Q.int 1)) b.v)
  | .sqrt | .rsq | .exp2 | .log2 | .sin | .cos =>
    let r := transOp op b.v
    (r.1, if b.snan then r.2 ||| xInv else r.2)
  | .lerp => sig [] (fvLerp mode a b c)
  | .frac => sig [b] (fvFrac mode b.v)
  | .sat =>
    sig [b] (if b.v.isNan || b.v.isZero || b.v.neg? then (.zero false false, 0)
      else if Fv.lt false (.fin (Q.int 1)) b.v then (.fin (Q.int 1), 0) else (b.v, 0))
  | .scale =>
    sig [b] (match b.v with
      | .fin q => (.fin (q.mul (Q.pow2 (max (-20000) (min 20000 k)))), 0)
      | v => (v, 0))
  | .cmps =>
    sig [b, c] (if b.v.isNan || c.v.isNan then (.nan false, 0)
      else if Fv.lt false b.v c.v then (.fin (Q.int (-1)), 0)
      else if Fv.lt false c.v b.v then (.fin (Q.int 1), 0) else (.zero false false, 0))
  | _ => sig [b] (b.v, 0)

/-- ROUNDI (R109): B rounded with the unit exponent 0, every integer bit kept (log 59); zeros and infinities are kept. -/
def roundIntegral (T prec : Nat) (r : Rnd) (b : Fv) : Fv :=
  match b with
  | .fin q => (roundAt (fmtT T) (keepP T prec) { r with ftz := false } 0 q).1
  | .nan _ => .nan false
  | v => v

/-- deliver to a register (R107): the encoding of an exact floating result, and what its rounding signals. -/
def deliverF (T prec : Nat) (r : Rnd) (x : Ex) : Nat × BitVec 5 :=
  let (v, f) := x.round (roundFv (fmtT T) (keepP T prec) r)
  ((fmtT T).encode v, f)
/-- deliver to the stream (R84, R107). -/
def streamF (T prec : Nat) (x : Ex) : Fv × BitVec 5 := x.round (streamFv (keepQ T prec))

/-- A floating value to an integer type (R82): clamped whatever SATF says; NaN gives 0. -/
def toInt (T : Nat) (r : Rnd) (x : Fv) : Int × BitVec 5 :=
  let w := widthT T
  let lo : Int := if signedT T then -(2 ^ (w - 1)) else 0
  let hi : Int := if signedT T then 2 ^ (w - 1) - 1 else 2 ^ w - 1
  match x with
  | .nan _ => (0, xInv)
  | .inf s => (if s then lo else hi, xInv)
  | .zero _ _ => (0, 0)
  | .fin q =>
    let neg := decide (q.num < 0)
    let n : Int := roundUnits r.mode r.draw neg q.abs
    let y := if neg then -n else n
    if y < lo then (lo, xInv) else if hi < y then (hi, xInv)
    else (y, if (Q.int y).eqv q then 0 else xNx)

/-- CLASS of one element (R111): the number of the bit that is set. -/
def classBit (F : Fmt) (x : Nat) : Nat :=
  let s := F.sign x
  if F.isNan x then (if F.isSnan x then 0 else 1)
  else if F.isInf x then (if s then 2 else 9)
  else if F.expo x = 0 then (if F.frac x = 0 then (if s then 5 else 6) else (if s then 4 else 7))
  else if s then 3 else 8

/-! ## One thread of one member -/

/-- An operand of a member for one thread: a register word, or the stream (R107). -/
inductive MSrc where
  | word (w : Word)
  | str (f : List Fv) (i : Word)
  deriving DecidableEq, Repr

/-- Element j of an operand of a floating type. -/
def MSrc.elF (x : MSrc) (T : Nat) (ftz : Bool) (j : Nat) : FEl :=
  match x with
  | .word w => elemF T ftz w j
  | .str f _ => { v := (f[j]?).getD (.zero false false) }
/-- Element j of an operand of an integer type. -/
def MSrc.elI (x : MSrc) (T j : Nat) : Int :=
  match x with
  | .word w => elemInt T w j
  | .str _ i => elemInt T i j

/-- What a member computes for one thread: the word for its register, its stream (floating, integer), the condition of a
compare, and the exceptions of its stage and its write, and of its stream; sticky bits of its stream (R74). -/
structure MOut where
  word : Word := 0
  out : List Fv := []
  stk : List Bool := []
  outI : Word := 0
  cond : Bool := false
  exc : BitVec 5 := 0
  sexc : BitVec 5 := 0
  deriving DecidableEq, Repr

/-- The union of exceptions of a list. -/
def excAll (l : List (BitVec 5)) : BitVec 5 := l.foldl (· ||| ·) 0

/-- What is fixed for a member: its mode, whether it writes a register, and the index of its draws. -/
structure MEnv where
  mode : BitVec 24
  write : Bool
  draw : Nat
  deriving DecidableEq, Repr

/-- The draw of element j. -/
def MEnv.rnd (e : MEnv) (j : Nat) : Rnd := rndOf e.mode (Config.draw16 (e.draw * 8 + j) % 65536)

/-- Floating arithmetic on every element (R107 to R109). -/
def floatMember (e : MEnv) (op : COp) (a b c : MSrc) : MOut :=
  let T := etype e.mode
  let prec := modePrec e.mode
  let ftz := modeFtz e.mode
  let js := List.range (countT T)
  let one (j : Nat) : Nat × (Fv × Bool) × BitVec 5 × BitVec 5 :=
    let el (x : MSrc) := x.elF T ftz j
    let k : Int := match c with
      | .word w => signed (widthT T) (elemBits T w j)
      | .str _ _ => 0
    if (op = .abs || op = .neg) && (el b).v.isNan then
      -- only the sign bit changes (R109)
      let neg := if op = .abs then false else !(el b).v.neg?
      let enc := match (el b).raw with
        | some x => x % 2 ^ (widthT T - 1) + (if neg then 2 ^ (widthT T - 1) else 0)
        | none => (fmtT T).encode (.nan neg)
      (enc, (.nan neg, false), 0, 0)
    else if op = .roundi then
      let y := roundIntegral T prec (e.rnd j) (el b).v
      let (s, fs) := streamF T prec (.val y)
      ((fmtT T).encode y, (s, streamStk (keepQ T prec) y), if (el b).snan then xInv else 0, fs)
    else
      let (x, f) := floatOp op (modeRnd e.mode) (el a) (el b) (el c) k
      let (w, fw) := deliverF T prec (e.rnd j) x
      let (s, fs) := streamF T prec x
      (w, (s, x.stk (keepQ T prec)), if e.write then f ||| fw else f, fs)
  { word := packT T fun j => (one j).1, out := js.map fun j => (one j).2.1.1, stk := js.map fun j => (one j).2.1.2,
    exc := excAll (js.map fun j => (one j).2.2.1), sexc := excAll (js.map fun j => (one j).2.2.2) }

/-- Integer arithmetic on every element (R66, R85, R107). CMPS writes codes whatever SATF holds (R111). -/
def intMember (e : MEnv) (op : COp) (a b c : MSrc) : MOut :=
  let T := etype e.mode
  let w := packT T fun j => reduceInt T (modeSat e.mode && op != .cmps) (intOp op T (a.elI T j) (b.elI T j) (c.elI T j))
  { word := w, outI := w }

/-- DOT2 and DOT4 (R108): one exact sum, delivered once. -/
def dotMember (e : MEnv) (b c : MSrc) (a : Word) : MOut :=
  let T := etype e.mode
  let ftz := modeFtz e.mode
  let js := List.range (countT T)
  if isIntT T then
    let Tr := if signedT T then 0 else 1
    let x := js.foldl (fun s j => s + b.elI T j * c.elI T j) (elemInt Tr a 0)
    { word := BitVec.ofNat 32 (reduceInt Tr (modeSat e.mode) x) }
  else
    let a := elemF 6 ftz a 0
    let terms := js.map fun j => ((b.elF T ftz j), (c.elF T ftz j))
    let snan := a.snan || terms.any fun x => x.1.snan || x.2.snan
    let (x, f) := terms.foldl (fun (s, f) t =>
      let (p, g) := Fv.mul t.1.v t.2.v
      let (y, k) := Fv.add (modeRnd e.mode) s p
      (y, f ||| g ||| k)) (a.v, (0 : BitVec 5))
    let (w, fw) := deliverF 6 (modePrec e.mode) (e.rnd 0) (.val x)
    { word := BitVec.ofNat 32 w, sexc := (streamF 6 (modePrec e.mode) (.val x)).2,
      exc := f ||| (if snan then xInv else 0) ||| (if e.write then fw else 0) }

/-- compare over every element (R110), with what it signals. -/
def compareAll (T : Nat) (ftz : Bool) (k : Cond) (b c : MSrc) : Bool × BitVec 5 :=
  let js := List.range (countT T)
  if isIntT T then (js.all fun j => condInt k (b.elI T j) (c.elI T j), 0)
  else
    (js.all fun j => Fv.compare (b.elF T ftz j).v (c.elF T ftz j).v k,
      if js.any fun j => (b.elF T ftz j).snan || (c.elF T ftz j).snan then xInv else 0)

/-- The stream of an operand passed on unchanged. -/
def MSrc.pass (x : MSrc) (T : Nat) (ftz : Bool) : List Fv × Word :=
  match x with
  | .str f i => (f, i)
  | .word w => if isIntT T then ([], w) else if T = 11 then ([], w) else ((List.range (countT T)).map fun j => (elemF T ftz w j).v, w)

/-- SEL (R111): register bits are copied; a stream value is rounded once. Nothing is delivered into k4x8 (R70, log 17). -/
def selMember (e : MEnv) (x : MSrc) : MOut :=
  let T := etype e.mode
  let (f, i) := x.pass T false
  match x with
  | .word w => { word := w, out := f, outI := i }
  | .str f i =>
    if isIntT T then { word := i, outI := i }
    else if T = 11 then { word := Config.freeWord e.draw, out := f }
    else
      let d (j : Nat) := match f[j]? with
        | some (.nan s) => ((fmtT T).encode (.nan s), (0 : BitVec 5))
        | some v => deliverF T (modePrec e.mode) (e.rnd j) (.val v)
        | none => (0, 0)
      { word := packT T fun j => (d j).1, out := f,
        exc := if e.write then excAll ((List.range (countT T)).map fun j => (d j).2) else 0 }

/-- CHCLOSE (R116): the stream's value delivered once. -/
def closeMember (e : MEnv) (x : MSrc) : MOut :=
  let T := etype e.mode
  match x with
  | .word w => { word := w }
  | .str f i =>
    if isIntT T then { word := i }
    else
      let d (j : Nat) := deliverF T (modePrec e.mode) (e.rnd j) (.val ((f[j]?).getD (.zero false false)))
      { word := packT T fun j => (d j).1,
        exc := if e.write then excAll ((List.range (countT T)).map fun j => (d j).2) else 0 }

/-- CLASS (R111): raw bits; FTZ is ignored. -/
def classMember (e : MEnv) (b : Word) : MOut :=
  let T := etype e.mode
  { word := BitVec.ofNat 32 ((List.range (countT T)).foldl (fun a j => a + 2 ^ (16 * j + classBit (fmtT T) (elemBits T b j))) 0) }

/-- The bit of CLASS for a value of a stream, which is never subnormal (R84, R111). -/
def classFv : Fv → Nat
  | .nan _ => 1
  | .inf s => if s then 2 else 9
  | .zero s _ => if s then 5 else 6
  | .fin q => if q.num < 0 then 3 else 8
/-- CLASS of a stream (R96, R111). -/
def classStream (e : MEnv) (f : List Fv) : MOut :=
  let T := etype e.mode
  { word := BitVec.ofNat 32 ((List.range (countT T)).foldl (fun a j => a + 2 ^ (16 * j + classFv (f.getD j (.zero false false)))) 0) }

/-- Elements of a source type of CVT: integers, or floating values with signalling NaNs marked. -/
inductive CvtEl where
  | i (x : Int)
  | f (x : FEl)
  deriving DecidableEq, Repr

/-- CVT (R82, R112): `src` is the source element type; `book` the codebook table for k4x8 (R70). -/
def cvtMember (e : MEnv) (src : Nat) (book : List Byte) (b : MSrc) : MOut :=
  let T := etype e.mode
  let ftz := modeFtz e.mode
  let prec := modePrec e.mode
  let js := List.range (countT T)
  let el (j : Nat) : CvtEl :=
    match b with
    | .str f i => if isIntT src then .i (elemInt src i j) else .f { v := (f[j]?).getD (.zero false false) }
    | .word w =>
      if isIntT src then .i (elemInt src w j)
      else if src = 11 then
        let x := leNat ((book.drop (2 * elemBits 11 w j)).take 2)
        .f { v := Fmt.bf16.decode x, raw := some x, snan := Fmt.bf16.isSnan x }
      else .f (elemF src ftz w j)
  let one (j : Nat) : Nat × (Fv × Bool) × BitVec 5 × BitVec 5 :=
    if countT src ≤ j then (0, (.zero false false, false), 0, 0)
    else
      match el j with
      | .i x =>
        if isIntT T then (reduceInt T (modeSat e.mode) x, (.zero false false, false), 0, 0)
        else
          let v := Fv.ofQ (Q.int x) false
          let (w, fw) := deliverF T prec (e.rnd j) (.val v)
          let (s, fs) := streamF T prec (.val v)
          (w, (s, streamStk (keepQ T prec) v), if e.write then fw else 0, fs)
      | .f x =>
        let sn : BitVec 5 := if x.snan then xInv else 0
        if isIntT T then
          let (y, f) := toInt T (e.rnd j) x.v
          (wrap (widthT T) y, (.zero false false, false), sn ||| (if e.write then f else f &&& xInv), 0)
        else
          let v : Fv := if x.v.isNan then .nan false else x.v
          let (w, fw) := deliverF T prec (e.rnd j) (.val v)
          let (s, fs) := streamF T prec (.val v)
          (w, (s, streamStk (keepQ T prec) v), sn ||| (if e.write then fw else 0), fs)
  let w := packT T fun j => (one j).1
  { word := w, outI := w, out := if isIntT T then [] else js.map fun j => (one j).2.1.1,
    stk := if isIntT T then [] else js.map fun j => (one j).2.1.2,
    exc := excAll (js.map fun j => (one j).2.2.1), sexc := excAll (js.map fun j => (one j).2.2.2) }

/-- Arithmetic of a member with operands A, B and C (R107). -/
def arithMember (e : MEnv) (op : COp) (a : Word) (b c : MSrc) : MOut :=
  match op with
  | .dot2 | .dot4 => dotMember e b c a
  | _ => if isIntT (etype e.mode) then intMember e op (.word a) b c else floatMember e op (.word a) b c

end Sys2Proof.Machine
end

