-- ==== Sys2Proof/Machine/BitStage.lean ====
section
/-! DEFINITION. Bit-stage instructions, 0x50 to 0x6B (spec/05_registers.md R140 to R144). -/
namespace Sys2Proof.Machine

/-- The integer view of a mode (R140). -/
def viewT (m : BitVec 24) : Nat := if etype m < 6 then etype m else 0

/-- A bit-stage instruction with a register destination: one word per thread from the words of A, B and C (R140). -/
def bitOp (d : Desc) (a b c : Opnd) (f : V → Word → Word → Word → Word) (s : State) : Host.Outcome State Fault Refusal :=
  issue s (fun _ => d) fun v w act => v.result w d a act fun t => f v (v.rd a t) (v.rd b t 1) (v.rd c t 2)

/-- Two sources. -/
def bit2 (a b c : Opnd) (f : Word → Word → Word) (s : State) : Host.Outcome State Fault Refusal :=
  bitOp { a := .d a, b := .s b, c := .s c } a b c (fun _ _ x y => f x y) s
/-- One source. -/
def bit1 (a b : Opnd) (f : Word → Word) (s : State) : Host.Outcome State Fault Refusal :=
  bitOp { a := .d a, b := .s b } a b .zero (fun _ _ x _ => f x) s

/-- The shift count of R141. -/
def shiftCount (c : Word) : Nat := bits c.toNat 0 8
/-- SHL (R141). -/
def shlWord (b c : Word) : Word := if 32 ≤ shiftCount c then 0 else b <<< shiftCount c
/-- SHR (R141). -/
def shrWord (b c : Word) : Word := if 32 ≤ shiftCount c then 0 else b >>> shiftCount c
/-- SAR (R141). -/
def sarWord (b c : Word) : Word := b.sshiftRight (min 32 (shiftCount c))
/-- ROL (R141). -/
def rolWord (b c : Word) : Word := b.rotateLeft (shiftCount c % 32)
/-- POPC (R141). -/
def popWord (b : Word) : Word := BitVec.ofNat 32 (popcount 32 b.toNat)
/-- The number of zero bits above the highest set bit below position n. -/
def clzFrom (b : Word) : Nat → Nat
  | 0 => 0
  | n + 1 => if b.getLsbD n then 0 else 1 + clzFrom b n
/-- CLZ (R141). -/
def clzWord (b : Word) : Word := BitVec.ofNat 32 (clzFrom b 32)
/-- BREV (R141). -/
def brevWord (b : Word) : Word := b.reverse
/-- CTZ (R141). -/
def ctzWord (b : Word) : Word := clzWord (brevWord b)

/-- Position and width of BFE and BFI (R142). -/
def fieldOf (c : Word) : Nat × Nat :=
  let pos := bits c.toNat 0 5
  (pos, min (bits c.toNat 8 6) (32 - pos))
/-- BFE (R142). -/
def bfeWord (sgn : Bool) (b c : Word) : Word :=
  let (pos, w) := fieldOf c
  let f := bits b.toNat pos w
  if w = 0 then 0 else if sgn then BitVec.ofInt 32 (signed w f) else BitVec.ofNat 32 f
/-- BFI (R142). -/
def bfiWord (a b c : Word) : Word :=
  let (pos, w) := fieldOf c
  let m : Word := BitVec.ofNat 32 ((2 ^ w - 1) * 2 ^ pos)
  (a &&& ~~~m) ||| ((b <<< pos) &&& m)
/-- PRMT (R142). -/
def prmtWord (b : Word) (k : BitVec 8) : Word :=
  let byte (i : Nat) : Byte := b.extractLsb' (8 * bits k.toNat (2 * i) 2) 8
  byte 3 ++ byte 2 ++ byte 1 ++ byte 0
/-- IMULH on every element of a view (R142). -/
def imulhWord (T : Nat) (b c : Word) : Word :=
  packT T fun j => wrap (widthT T) (elemInt T b j * elemInt T c j / (2 ^ widthT T : Int))
/-- BMIN on every element of a view (R142). -/
def bminWord (T : Nat) (b c : Word) : Word := packT T fun j => wrap (widthT T) (min (elemInt T b j) (elemInt T c j))

/-- AND (R141). -/
def execAnd (a b c : Opnd) (s : State) : Host.Outcome State Fault Refusal := bit2 a b c (· &&& ·) s
/-- OR (R141). -/
def execOr (a b c : Opnd) (s : State) : Host.Outcome State Fault Refusal := bit2 a b c (· ||| ·) s
/-- XOR (R141). -/
def execXor (a b c : Opnd) (s : State) : Host.Outcome State Fault Refusal := bit2 a b c (· ^^^ ·) s
/-- ANDN (R141). -/
def execAndn (a b c : Opnd) (s : State) : Host.Outcome State Fault Refusal := bit2 a b c (fun x y => x &&& ~~~y) s
/-- NOT (R141). -/
def execNot (a b : Opnd) (s : State) : Host.Outcome State Fault Refusal := bit1 a b (fun x => ~~~x) s
/-- SHL (R141). -/
def execShl (a b c : Opnd) (s : State) : Host.Outcome State Fault Refusal := bit2 a b c shlWord s
/-- SHR (R141). -/
def execShr (a b c : Opnd) (s : State) : Host.Outcome State Fault Refusal := bit2 a b c shrWord s
/-- SAR (R141). -/
def execSar (a b c : Opnd) (s : State) : Host.Outcome State Fault Refusal := bit2 a b c sarWord s
/-- ROL (R141). -/
def execRol (a b c : Opnd) (s : State) : Host.Outcome State Fault Refusal := bit2 a b c rolWord s
/-- POPC (R141). -/
def execPopc (a b : Opnd) (s : State) : Host.Outcome State Fault Refusal := bit1 a b popWord s
/-- CLZ (R141). -/
def execClz (a b : Opnd) (s : State) : Host.Outcome State Fault Refusal := bit1 a b clzWord s
/-- CTZ (R141). -/
def execCtz (a b : Opnd) (s : State) : Host.Outcome State Fault Refusal := bit1 a b ctzWord s
/-- BREV (R141). -/
def execBrev (a b : Opnd) (s : State) : Host.Outcome State Fault Refusal := bit1 a b brevWord s
/-- BFE (R142). -/
def execBfe (a b c : Opnd) (s : State) : Host.Outcome State Fault Refusal :=
  bitOp { a := .d a, b := .s b, c := .s c } a b c (fun v _ x y => bfeWord (signedT (viewT v.e.mode)) x y) s
/-- BFI (R142). -/
def execBfi (a b c : Opnd) (s : State) : Host.Outcome State Fault Refusal :=
  bitOp { a := .ds a, b := .s b, c := .s c } a b c (fun _ z x y => bfiWord z x y) s
/-- PRMT (R142). -/
def execPrmt (a b : Opnd) (k : BitVec 8) (s : State) : Host.Outcome State Fault Refusal := bit1 a b (fun x => prmtWord x k) s
/-- IMULH (R142). -/
def execImulh (a b c : Opnd) (s : State) : Host.Outcome State Fault Refusal :=
  bitOp { a := .d a, b := .s b, c := .s c } a b c (fun v _ x y => imulhWord (viewT v.e.mode) x y) s
/-- LEA (R142). -/
def execLea (a b : Opnd) (k : BitVec 5) (s : State) : Host.Outcome State Fault Refusal :=
  bitOp { a := .ds a, b := .s b } a b .zero (fun _ z x _ => z + (x <<< k.toNat)) s
/-- BMIN (R142). -/
def execBmin (a b c : Opnd) (s : State) : Host.Outcome State Fault Refusal :=
  bitOp { a := .d a, b := .s b, c := .s c } a b c (fun v _ x y => bminWord (viewT v.e.mode) x y) s

/-- The thread whose predicate a uniform instruction reads, where the manual names none: a free choice among the threads
it acts for (log 18). -/
def V.someThread (v : V) (act : Mask) : Nat := ((threadsOf act)[v.s.choose (2 ^ 30) (threadsOf act).length]?).getD 0

/-- A carry instruction (R143): A takes the word, p6 the carry or borrow. -/
def carryOp (f : Word → Word → Bool → Word × Bool) (a b c : Opnd) (s : State) : Host.Outcome State Fault Refusal :=
  let d : Desc := { a := .d a, b := .s b, c := .s c }
  issue s (fun _ => d) fun v w act =>
    let p6 (t : Nat) : Bool := v.rdP ⟨false, 6⟩ t
    let one := v.someThread act
    let x : Nat → Word × Bool := fun t =>
      if d.uniform then f (v.rd b (lowest act) 1) (v.rd c (lowest act) 2) (p6 one) else f (v.rd b t 1) (v.rd c t 2) (p6 t)
    if (act &&& v.f.r.ppois) != 0 then .trap { t := .poison }
    else if !w.capOk [a] then .trap { t := .regcap }
    else .next ((w.wr a act fun t => (x t).1).wrP 6 act fun t => (x t).2)

/-- ADDC (R143). -/
def execAddc (a b c : Opnd) (s : State) : Host.Outcome State Fault Refusal := carryOp addCarry a b c s
/-- SUBB (R143). -/
def execSubb (a b c : Opnd) (s : State) : Host.Outcome State Fault Refusal := carryOp subBorrow a b c s

/-- The predicates of a thread as a byte, p7 set (R144). -/
def V.predByte (v : V) (t : Nat) : Word :=
  BitVec.ofNat 32 ((List.range 8).foldl (fun n i => if v.rdP ⟨false, Fin.ofNat 8 i⟩ t then n + 2 ^ i else n) 0)

/-- MOVP with L8 = 0 (R144): the predicates packed. -/
def execMovpPack (a : Opnd) (s : State) : Host.Outcome State Fault Refusal :=
  let d : Desc := { a := .d a }
  issue s (fun _ => d) fun v w act =>
    if (act &&& v.f.r.ppois) != 0 then .trap { t := .poison }
    else
      let one := v.someThread act
      v.result w d a act fun t => v.predByte (if d.uniform then one else t)

/-- MOVP with L8 = 1 (R144): p0 to p6 written together, which clears their poison (R129). -/
def execMovpUnpack (b : Opnd) (s : State) : Host.Outcome State Fault Refusal :=
  issue s (fun _ => { b := .s b }) fun v w act =>
    let w := (List.range 7).foldl (fun w i => w.wrP i act fun t => (v.rd b t).getLsbD i) w
    .next { w with f := { w.f with r := { w.f.r with ppois := w.f.r.ppois &&& ~~~act } } }

/-- A predicate instruction (R144). -/
def predOp (p : Fin 8) (qs : List Pred) (f : V → Nat → Bool) (s : State) : Host.Outcome State Fault Refusal :=
  let get (k : Nat) : FChk := match qs[k]? with
    | some q => .p q
    | none => .any
  issue s (fun _ => { b := get 0, c := get 1 }) fun v w act => .next (w.wrP p.val act (f v))

/-- PAND (R144). -/
def execPand (p : Fin 8) (q r : Pred) (s : State) : Host.Outcome State Fault Refusal :=
  predOp p [q, r] (fun v t => v.rdP q t 1 && v.rdP r t 2) s
/-- POR (R144). -/
def execPor (p : Fin 8) (q r : Pred) (s : State) : Host.Outcome State Fault Refusal :=
  predOp p [q, r] (fun v t => v.rdP q t 1 || v.rdP r t 2) s
/-- PXOR (R144). -/
def execPxor (p : Fin 8) (q r : Pred) (s : State) : Host.Outcome State Fault Refusal :=
  predOp p [q, r] (fun v t => v.rdP q t 1 != v.rdP r t 2) s
/-- PNOT (R144). -/
def execPnot (p : Fin 8) (q : Pred) (s : State) : Host.Outcome State Fault Refusal :=
  predOp p [q] (fun v t => !v.rdP q t 1) s
/-- PSET (R144). -/
def execPset (p : Fin 8) (x : BitVec 1) (s : State) : Host.Outcome State Fault Refusal :=
  predOp p [] (fun _ _ => x == 1) s

/-- ISETP (R144): compare of R110 in the integer view of R140; conditions 6 and 7 trap (R38). -/
def execIsetp (k : Pcc) (b c : Opnd) (s : State) : Host.Outcome State Fault Refusal :=
  issue s (fun _ => { a := .lit !(condFloat k.cond), b := .s b, c := .s c }) fun v w act =>
    let T := viewT v.e.mode
    if k.comb != .set && k.p.val != 7 && (act &&& v.f.r.ppois) != 0 then .trap { t := .poison }
    else .next (w.wrP k.p.val act fun t =>
      combine k.comb (v.rdP ⟨false, k.p⟩ t) (compareAll T false k.cond (.word (v.rd b t 1)) (.word (v.rd c t 2))).1)

end Sys2Proof.Machine
end

