-- ==== Sys2Proof/Machine/Chain.lean ====
section
/-! DEFINITION. The digit chain (spec/04_chain.md): members (R94 to R98, R107 to R117), CHOPEN and CHSTAT (R114, R118),
and what a chain does after its members have issued: decisions and the end of draining (R99 to R104). A member's
results are computed when it issues (log 11). -/
namespace Sys2Proof.Machine

/-! ## Members -/

/-- A member instruction: its operation, its fields (A a register, or a predicate), and the literal of CVT. -/
structure MIns where
  op : COp
  a : Opnd := .zero
  p : Option (Fin 8) := none             -- CMP and CHDEC
  cond : Cond := .eq
  comb : Comb := .set
  q : Option Pred := none                -- CHCANCEL
  rdA : Bool := false
  b : Option Opnd := none
  c : Option Opnd := none
  src : Nat := 0                         -- CVT
  deriving DecidableEq, Repr

/-- The operation of a member's word (R49). -/
def opOfWord (w : Word) : Option COp :=
  match w.toNat / 2 ^ 24 with
  | 0x33 => some .dot2 | 0x34 => some .dot4 | 0x3C => some .cmp | 0x3F => some .class
  | 0x41 => some .dec | 0x42 => some .close | 0x43 => some .cancel
  | _ => none

/-- Whether the last member of a chain passes on a value that `ch` may read (R96). -/
def Chain.gives (c : Chain) : Bool :=
  match c.mems.getLast? with
  | none => false
  | some m => match opOfWord m.word with
    | some op => op.streams
    | none => true

/-- A source field of a member: `ch` only where R40 and R96 allow it. -/
def chField (ok : Bool) (o : Option Opnd) : FChk :=
  match o with
  | none => .any
  | some .ch => .lit ok
  | some o => .s o

/-- The description of a member at issue. -/
def MIns.desc (i : MIns) (v : V) : Desc :=
  let fa : FChk :=
    match i.q, i.p with
    | some q, _ => .p q
    | _, some _ => .lit (!(condFloat i.cond && isIntT (etype v.e.mode)))
    | _, none => if i.rdA then .ds i.a else .d i.a
  let d0 : Desc := { a := fa, member := true }
  let joined := v.joins { d0 with unif := false }
  let ok := joined && (match v.chain? with
    | some c => c.gives
    | none => false)
  let okB := ok && (i.op != .cvt || i.src == etype v.e.mode)
  { d0 with
    b := if i.op = .close then (match i.b with
           | some .ch => .lit okB
           | _ => .lit false) else chField okB i.b,
    c := chField (ok && i.op != .scale) i.c,
    guard := i.op != .sel, tys := i.op.types }

/-- The thread whose value on the stream of a member thread t reads: of a uniform chain the one value (R91). -/
def Chain.lane (c : Chain) (m : Member) (t : Nat) : Nat := if c.unif then lowest m.act else t
/-- What the previous member left for thread t on the stream; where it did not act for the thread, a free value (log 29). -/
def Chain.str (c : Chain) (s : State) (t : Nat) : MSrc :=
  match c.mems.getLast? with
  | none => .str [] 0
  | some m =>
    let u := c.lane m t
    if m.act.getLsbD u then .str (m.out.getD u []) (m.outI.getD u 0)
    else
      let x (j : Nat) : Word := Config.freeWord (s.draw (t + 16 * j + 2 ^ 33))
      .str ((List.range 4).map fun j => Fmt.f32.decode (x j).toNat) (x 0)
/-- The sticky bits of that stream (R74). -/
def Chain.stk (c : Chain) (t : Nat) : List Bool :=
  match c.mems.getLast? with
  | none => []
  | some m => m.stky.getD (c.lane m t) []

/-- An operand of a member for thread t: its field k. -/
def V.msrc (v : V) (c : Chain) (o : Option Opnd) (t k : Nat) : MSrc :=
  match o with
  | some .ch => c.str v.s t
  | some o => .word (v.rd o t k)
  | none => .word 0

/-- Codebook table 0 that a fascine's vector instructions read (R70). -/
def V.codebook (v : V) : List Byte :=
  match v.p.ranks[v.l.f / 8]? with
  | none => []
  | some (part, _) =>
    match v.p.engines.find? (·.part == part) with
    | some e => e.books.getD 0 []
    | none => []

/-- One thread of a member from the values of its fields (R107, R110 to R117): `sel` is the selector of SEL, `q` the
predicate of CHCANCEL. -/
def MIns.compute (i : MIns) (e : MEnv) (book : List Byte) (sel q : Bool) (a : Word) (b x : MSrc) : MOut :=
  match i.op with
  | .cmp | .dec =>
    let T := etype e.mode
    let (k, f) := compareAll T (modeFtz e.mode) i.cond b x
    let (o, oi) := b.pass T (modeFtz e.mode)
    { cond := k, exc := f, out := if i.op = .dec then o else [], outI := oi }
  | .sel => selMember e (if sel then b else x)
  | .class => match b with
    | .word w => classMember e w
    | .str f _ => classStream e f
  | .cvt => cvtMember e i.src book b
  | .close => closeMember e b
  | .cancel => { cond := q }
  | op => arithMember e op a b x

/-- One thread of a member at issue. -/
def MIns.eval (i : MIns) (v : V) (c : Chain) (e : MEnv) (t : Nat) : MOut :=
  let sel := v.rdP (guardOf v.e.mode) t 3
  let o := i.compute e v.codebook sel (match i.q with
    | some q => v.rdP q t
    | none => false) (if i.rdA then v.rd i.a t else 0) (v.msrc c i.b t 1) (v.msrc c i.c t 2)
  -- CHDEC and SEL pass the stream that they read
  if i.op = .dec ∧ i.b = some .ch ∨ i.op = .sel ∧ (if sel then i.b else i.c) = some .ch then { o with stk := c.stk t } else o

/-- The threads for which a member writes its register: not those that a CHDEC before a CHCLOSE cancelled (R116). -/
def MIns.writers (i : MIns) (c : Chain) (m : Mask) : Mask :=
  match i.op, c.mems.getLast? with
  | .close, some p => if opOfWord p.word = some .dec then m &&& p.cond else m
  | _, _ => m

/-- 1 added to a counter of CHSTAT (R118). -/
def Fascine.count (f : Fascine) (n k : Nat) : Fascine :=
  { f with chstat := modAt f.chstat n (· + BitVec.ofNat 32 k) }

/-- Per-thread lists from a function of the thread. -/
def perThread {α : Type} (f : Nat → α) : List α := (List.range 16).map f

/-- The chain that a member joins or starts. AMASK is what `act` holds at its first member (R119): of SEL, the running threads
(log 61). -/
def V.memberChain (v : V) (d : Desc) (act : Mask) : Chain :=
  match v.chain? with
  | some c => if v.joins d then c else if v.opens d then { c with unif := d.uniform, mode := v.e.mode, amask := act } else
      { id := v.s.nextId, g := v.l.g, unif := d.uniform, mode := v.e.mode, amask := act, pc1 := v.e.pc }
  | none => { id := v.s.nextId, g := v.l.g, unif := d.uniform, mode := v.e.mode, amask := act, pc1 := v.e.pc }

/-- A chain put into a fascine's list. -/
def Fascine.putChain (f : Fascine) (c : Chain) : Fascine :=
  { f with chains := if f.chains.any (·.id == c.id) then f.chains.map (fun (x : Chain) => if x.id = c.id then c else x) else f.chains ++ [c] }

/-- The threads that a chain counts: one value when it is uniform (R91). -/
def Chain.lanes (c : Chain) : List Nat := if c.unif then (threadsOf c.live).take 1 else threadsOf c.live
/-- Whether the word of a member is that of CHDEC or CHCANCEL. -/
def Member.sender (m : Member) : Bool := opOfWord m.word == some .dec || opOfWord m.word == some .cancel
/-- Whether a cancel token stops a member: field A names `zero` and it writes no predicate (R101). -/
def Member.stops (m : Member) : Bool :=
  match opOfWord m.word with
  | some .cmp | some .dec => m.word.toNat / 2 ^ 16 % 8 == 7
  | _ => m.word.toNat / 2 ^ 16 % 256 == 0xF0
/-- Beats between two threads in a stage of the chain at the least (R92). -/
def Chain.occ (c : Chain) : Nat :=
  match etype c.mode with
  | 6 => (19 - 2 * modePrec c.mode) / 4
  | 7 | 8 => 2 * ((11 - modePrec c.mode) / 4)
  | _ => 4
/-- Whether a token may free the first stage for the next thread at once (R101). -/
def Chain.hurried (c : Chain) : Bool := c.mems.zipIdx.any fun x => x.1.sender && x.2 != 0 && (c.mems.take x.2).all Member.stops
/-- Whether a chain starts at stage 1: every implicit one does, and an explicit one of four members must (R91). -/
def Chain.fromFirst (c : Chain) : Bool := c.nopen == 0 || c.nopen == 4
/-- Whether stage 1 cannot take a new thread in the next beat, because a chain that stands there has still to take threads, or
took its last one less than its occupancy before (R91, R92). -/
def Chain.fills (c : Chain) : Bool :=
  c.fromFirst && !c.mems.isEmpty && decide (c.ran < c.lanes.length * (if c.hurried then 1 else c.occ))

/-- A member issues (R94 to R99, R91, R103 to R105). -/
def MIns.body (i : MIns) (d : Desc) (v w : V) (act0 : Mask) : Res :=
  let cs := v.joins d
  let first := v.opens d
  let act0 := if i.op = .sel then v.e.running else act0
  let c := v.memberChain d act0
  let act := if cs && i.op != .sel then act0 &&& c.live else act0
  let folds : Bool := match i.p with
    | some p => i.comb != .set && p.val != 7
    | none => false
  if folds && (act &&& v.f.r.ppois) != 0 then .trap { t := .poison }
  else if i.op = .sel && (guardOf v.e.mode).idx.val != 7 && (v.e.running &&& v.f.r.ppois) != 0 then .trap { t := .poison }
  else if !cs && !first && i.op = .cancel then
    -- a CHCANCEL that does not co-stream has no effect (R117)
    .next { w with f := if v.l.dist = 0 then w.f.count 3 1 else w.f }
  else if !cs && !first && 4 ≤ v.f.chains.length then .busy
  else if !cs && c.fromFirst && v.f.chains.any Chain.fills then .busy
  else if act != 0 && i.p.isNone && i.q.isNone && !w.capOk [i.a] then .trap { t := .regcap }
  else
    let writes := i.p.isNone && i.q.isNone && i.a != .zero
    let out := lanes d.uniform act fun t =>
      i.eval v c { mode := c.mode, write := writes, draw := v.s.draw (t + 16 * c.mems.length + 2 ^ 32) } t
    let held := modeTen c.mode != 0
    let L := i.op.delay + 4
    let mask := i.writers c act
    let pold (t : Nat) : Bool := match i.p with
      | some p => v.rdP ⟨false, p⟩ t 0
      | none => false
    let pnew (t : Nat) : Bool := combine i.comb (pold t) (out t).cond
    let hw : Option Held :=
      if !held || act = 0 then none
      else match i.p with
        | some p => some ⟨256 + p.val, act, perThread fun t => if pnew t then 1 else 0⟩
        | none => if writes then some ⟨i.a.code, mask, perThread fun t => (out t).word⟩ else none
    let on (t : Nat) : Bool := act.getLsbD t
    let val (o : Option Opnd) (t k : Nat) : Word := match o with
      | some .ch => 0
      | some o => if on t then v.rd o (if d.uniform then lowest act else t) k else 0
      | none => 0
    let m : Member :=
      { word := v.l.word, opa := perThread fun t => if i.rdA then val (some i.a) t 0 else 0,
        opb := perThread (val i.b · 1), opc := perThread (val i.c · 2), act := act, pois := perThread fun _ => 0,
        out := perThread fun t => if on t then (out t).out else [], outI := perThread fun t => if on t then (out t).outI else 0,
        stky := perThread fun t => if on t then (out t).stk else [],
        exc := perThread fun t => if on t && (i.op != .close || mask.getLsbD t) then (out t).exc else 0, sexc := perThread fun t => if on t then (out t).sexc else 0,
        cond := maskOf fun t => on t && (out t).cond, writes := hw,
        res := perThread fun t => match i.p with
          | some _ => if pnew t then 1 else 0
          | none => (out t).word,
        delay := i.op.delay, ran := if c.mems.isEmpty then 0 else c.ran }
    let n := c.mems.length + 1
    let tag := some (c.id, c.mems.length)
    let freed := v.f.r.vb.filterMap fun b =>
      let l := b.live &&& ~~~(((w.f.r.bind? b.name).map (·.live)).getD 0)
      if l = 0 then none else some { b with live := l }
    let st := if 0 < c.nopen then (if n = c.nopen then 2 else 0)
      else if n = 4 || i.op = .close || i.op = .cancel then 2 else 1
    let c := { c with mems := c.mems ++ [m], st := st, freed := c.freed ++ freed, left := L, ran := m.ran }
    let w := if cs || first then { w with f := w.f.putChain c }
      else { w with f := { w.f with chains := w.f.chains ++ [c] }, s := { w.s with nextId := w.s.nextId + 1 } }
    let w := if n = 2 then { w with f := w.f.count 2 1 } else w
    let w := if v.l.dist = 0 && !cs && !first then { w with f := w.f.count 3 1 } else w
    if held || act = 0 then .next w
    else match i.p with
      | some p => .next (w.wrP p.val act pnew L tag)
      | none => .next (if writes && mask != 0 then w.wr i.a mask (fun t => (out t).word) L tag else w)

/-- The meaning of a member. -/
def member (i : MIns) (s : State) : Host.Outcome State Fault Refusal :=
  issue s i.desc fun v => i.body (i.desc v) v

/-! ## CHOPEN and CHSTAT -/

/-- CHOPEN (R114). -/
def execChopen (n : BitVec 3) (s : State) : Host.Outcome State Fault Refusal :=
  issue s (fun _ => { a := .lit (1 ≤ n.toNat && n.toNat ≤ 4), unif := true }) fun v w _ =>
    if 4 ≤ v.f.chains.length then .busy
    else .next { w with
      f := { w.f with chains := w.f.chains ++ [{ id := w.s.nextId, g := v.l.g, st := 0, nopen := n.toNat, mode := v.e.mode, pc1 := v.e.pc }] },
      s := { w.s with nextId := w.s.nextId + 1 } }

/-- CHSTAT (R118). -/
def execChstat (a : Opnd) (n : BitVec 2) (s : State) : Host.Outcome State Fault Refusal :=
  let d : Desc := { a := .d a, unif := true }
  issue s (fun _ => d) fun v w act => v.result w d a act fun _ => v.f.chstat.getD n.toNat 0

/-! ## After issue -/

/-- The members that are CHDEC or CHCANCEL, with what follows each (R100). -/
def Chain.senders (c : Chain) : List (Member × Bool × Option Member) :=
  (c.mems.zipIdx.filter fun x => opOfWord x.1.word == some .dec || opOfWord x.1.word == some .cancel).map fun x =>
    (x.1, x.2 == 0, c.mems[x.2 + 1]?)

/-- Whether a cancel token is sent for thread t (R100): by a last CHDEC, unless it is a lone instruction, which acts as CMP
(R115); by a CHDEC before CHCLOSE when its condition is false; by a CHCANCEL that co-streams when its predicate holds. -/
def Chain.sends (c : Chain) (t : Nat) : Bool :=
  c.senders.any fun (m, first, next) =>
    if opOfWord m.word = some .cancel then !first && m.cond.getLsbD t
    else match next with
      | none => c.st == 2 && !first
      | some n => opOfWord n.word == some .close && !m.cond.getLsbD t


/-- Beats from the first member's issue until the chain's thread in place j starts member k, at the least (R91, R92, R97). -/
def Chain.startOf (c : Chain) (j k : Nat) : Nat :=
  if c.hurried then 1 + j else 1 + j * c.occ + ((c.mems.take k).map (·.delay)).foldl (· + ·) 0
/-- Beats that the chain has run before its last thread can be DONE or CANC in every member. -/
def Chain.soonest (c : Chain) : Nat := c.startOf (c.lanes.length - 1) (c.mems.length - 1)

/-- Digits of one thread that a member of a chain emits at most (R73, R74, R77). -/
def Chain.digits (c : Chain) (m : Member) : Nat :=
  let T := etype c.mode
  match opOfWord m.word with
  | some .dot2 | some .dot4 => 16
  | _ => if T = 6 then 16 - 2 * modePrec c.mode else if T = 7 || T = 8 then 2 * (8 - modePrec c.mode) else 16
/-- The digits that the members stopped by a token would have produced, from a sender's predecessor upstream: each one that
writes nothing is stopped, up to the first that writes a register or a predicate (R101). -/
def Chain.stopped (c : Chain) : List Member → Nat
  | [] => 0
  | m :: up => if m.stops then (if m.sender || opOfWord m.word == some .cmp then 0 else c.digits m) + c.stopped up else 0
/-- The same for the chain's last CHDEC or CHCANCEL. -/
def Chain.saved (c : Chain) : Nat :=
  let up := c.mems.reverse
  match up with
  | m :: p :: rest => if opOfWord m.word = some .close then c.stopped rest else c.stopped (p :: rest)
  | _ => 0

/-- Thread t is decided: its token, when one is sent, counts in THRCAN, and the digits it saves in DIGCAN, a free
number that is not above those that full evaluation would produce in the members that it stops (R101, R118). -/
def Fascine.decide (f : Fascine) (s : State) (c : Chain) (t : Nat) : Fascine :=
  if c.tokens.getLsbD t || !c.lanes.contains t then f
  else
    let sent := c.sends t
    let c' := { c with tokens := c.tokens ||| (if sent then maskOf (· == t) else 0),
                       mems := c.mems.map fun (m : Member) => if opOfWord m.word = some .dec then { m with decided := m.decided ||| maskOf (· == t) } else m }
    let f := f.putChain c'
    if !sent then f
    else (f.count 1 1).count 0 (s.choose (t + 16 * c.id + 2 ^ 31) (c.saved + 1))

/-- CHDEC_DECIDE (R100): once the thread may have started the member that decides (R97); a frozen chain decides nothing (R372). -/
def execChdecDecide (h f chain t : Nat) (s : State) : Host.Outcome State Fault Refusal :=
  .next ((s.modPolder h fun p => if p.frozen then p else p.modF f fun x =>
    match x.chains.find? (·.id == chain) with
    | none => x
    | some c =>
      match c.mems.findIdx? Member.sender, c.lanes.findIdx? (· == t) with
      | some k, some j => if c.startOf j k ≤ c.ran then x.decide s c t else x
      | _, _ => x).idle)

/-- The exceptions that member k of a chain signals for its remaining threads: its own, and its stream's when a member
follows (R84, R103, R106). -/
def Chain.excOf (c : Chain) (k : Nat) : BitVec 5 :=
  match c.mems[k]? with
  | none => 0
  | some m => (threadsOf c.live).foldl (fun a t =>
      a ||| m.exc.getD t 0 ||| (if k + 1 < c.mems.length then m.sexc.getD t 0 else 0)) 0

/-- The exceptions of a chain. -/
def Chain.excAll (c : Chain) : BitVec 5 := (List.range c.mems.length).foldl (fun a k => a ||| c.excOf k) c.exc

/-- A chain without an enabled exception leaves DRAINING (R99, R103). -/
def Fascine.drain (f : Fascine) (s : State) (c : Chain) : Fascine :=
  let f := c.lanes.foldl (fun x t => x.decide s ((x.chains.find? (·.id == c.id)).getD c) t) f
  { f with chains := f.chains.filter (·.id != c.id), exc := f.exc ||| c.excAll }

/-- Sub-group g comes to an instruction n beats after its predecessor: with n above 0 it does not co-stream, so the group's
implicit chain accepts no more members (R94, R99); and chains whose members have all made their writes by then (R97)
have left DRAINING. -/
def Fascine.passBeats (f : Fascine) (s : State) (g n : Nat) : Fascine :=
  let f := { f with chains := f.chains.map fun (c : Chain) =>
    if c.g = g then { c with left := c.left - n, st := if c.st = 1 ∧ n ≠ 0 then 2 else c.st } else c }
  f.chains.foldl (fun f c =>
    if c.g == g && c.left == 0 && !c.mems.isEmpty && modeTen c.mode == 0 && c.st == 2 && c.soonest ≤ c.ran then f.drain s c else f) f
/-- The same in the state; the chains of a halted polder are frozen (R372). -/
def State.passBeats (s : State) (h i g n : Nat) : State :=
  if ((s.polder? h).map Polder.frozen).getD true then s else s.modFasc h i (·.passBeats s g n)

/-- A result of a chain written for threads `m` of entry g of fascine i. -/
def Polder.putKey (p : Polder) (i g key : Nat) (m : Mask) (words : Nat → Word) : Polder :=
  let e := ((((p.fs[i]?).getD {}).r.ents[g]?).getD {})
  if m = 0 then p
  else if key < 160 then p.modF i fun f => { f with r := f.r.writeV key e.running m words 0 }
  else if key < 208 then p.modF i fun f =>
    { f with r := { f.r with s := setAt f.r.s (key - 160) (words (lowest m)), spois := setAt f.r.spois (key - 160) false } }
  else if key < 224 then
    let h := p.breg.getD (key - 208) []
    let p := { p with breg := setAt p.breg (key - 208) (words (lowest m) :: h), bpois := setAt p.bpois (key - 208) false }
    p.modF i fun f => { f with bseen := setAt f.bseen (key - 208) (h.length + 1), bord := setAt f.bord (key - 208) (h.length + 1) }
  else p.modF i fun f => { f with r := f.r.writeP (key - 256) m fun t => words t != 0 }

/-- A held write made (R104): it is the newest of its register, and results in flight that were issued before come no more
(R131). -/
def Polder.makeHeld (p : Polder) (s : State) (i : Nat) (c : Chain) (x : Held) : Polder :=
  let m := x.mask &&& ~~~c.gone
  let p := p.modF i fun f =>
    let f := if m = 0 then f else s.supersede p.h i f x.key m
    { f with haz := overtake x.key c.g (if perThreadKey x.key then m else 0xFFFF) f.haz }
  p.putKey i c.g x.key m fun t => x.words.getD t 0

/-- A name that a chain's last-read bits freed for the threads of `b.live` is bound again for them, with its old words (R104);
what siblings have written to the name since stays. -/
def Regs.rebind (r : Regs) (b : VBind) : Regs :=
  match r.bind? b.name with
  | some x =>
    let y : VBind :=
      { x with live := x.live ||| b.live, pois := (x.pois &&& ~~~b.live) ||| (b.pois &&& b.live),
               words := (List.range 16).map fun t => if b.live.getLsbD t then b.words.getD t 0 else x.words.getD t 0 }
    { r with vb := insertKey VBind.name y r.vb }
  | none => { r with vb := insertKey VBind.name b r.vb }

/-! ## The member instructions (R108 to R117) -/

/-- ADD (R108, R109). -/
def execAdd (a b c : Opnd) (s : State) : Host.Outcome State Fault Refusal := member { op := .add, a := a, b := some b, c := some c } s

/-- SUB (R108, R109). -/
def execSub (a b c : Opnd) (s : State) : Host.Outcome State Fault Refusal := member { op := .sub, a := a, b := some b, c := some c } s

/-- MUL (R108, R109). -/
def execMul (a b c : Opnd) (s : State) : Host.Outcome State Fault Refusal := member { op := .mul, a := a, b := some b, c := some c } s

/-- MAD (R108, R109). -/
def execMad (a b c : Opnd) (s : State) : Host.Outcome State Fault Refusal := member { op := .mad, a := a, rdA := true, b := some b, c := some c } s

/-- MSB (R108, R109). -/
def execMsb (a b c : Opnd) (s : State) : Host.Outcome State Fault Refusal := member { op := .msb, a := a, rdA := true, b := some b, c := some c } s

/-- NMAD (R108, R109). -/
def execNmad (a b c : Opnd) (s : State) : Host.Outcome State Fault Refusal := member { op := .nmad, a := a, rdA := true, b := some b, c := some c } s

/-- NMSB (R108, R109). -/
def execNmsb (a b c : Opnd) (s : State) : Host.Outcome State Fault Refusal := member { op := .nmsb, a := a, rdA := true, b := some b, c := some c } s

/-- MIN (R108, R109). -/
def execMin (a b c : Opnd) (s : State) : Host.Outcome State Fault Refusal := member { op := .min, a := a, b := some b, c := some c } s

/-- MAX (R108, R109). -/
def execMax (a b c : Opnd) (s : State) : Host.Outcome State Fault Refusal := member { op := .max, a := a, b := some b, c := some c } s

/-- ABS (R108, R109). -/
def execAbs (a b : Opnd) (s : State) : Host.Outcome State Fault Refusal := member { op := .abs, a := a, b := some b } s

/-- NEG (R108, R109). -/
def execNeg (a b : Opnd) (s : State) : Host.Outcome State Fault Refusal := member { op := .neg, a := a, b := some b } s

/-- DIV (R108, R109). -/
def execDiv (a b c : Opnd) (s : State) : Host.Outcome State Fault Refusal := member { op := .div, a := a, b := some b, c := some c } s

/-- SQRT (R108, R109). -/
def execSqrt (a b : Opnd) (s : State) : Host.Outcome State Fault Refusal := member { op := .sqrt, a := a, b := some b } s

/-- RCP (R108, R109). -/
def execRcp (a b : Opnd) (s : State) : Host.Outcome State Fault Refusal := member { op := .rcp, a := a, b := some b } s

/-- RSQ (R108, R109). -/
def execRsq (a b : Opnd) (s : State) : Host.Outcome State Fault Refusal := member { op := .rsq, a := a, b := some b } s

/-- EXP2 (R108, R109). -/
def execExp2 (a b : Opnd) (s : State) : Host.Outcome State Fault Refusal := member { op := .exp2, a := a, b := some b } s

/-- LOG2 (R108, R109). -/
def execLog2 (a b : Opnd) (s : State) : Host.Outcome State Fault Refusal := member { op := .log2, a := a, b := some b } s

/-- SIN (R108, R109). -/
def execSin (a b : Opnd) (s : State) : Host.Outcome State Fault Refusal := member { op := .sin, a := a, b := some b } s

/-- COS (R108, R109). -/
def execCos (a b : Opnd) (s : State) : Host.Outcome State Fault Refusal := member { op := .cos, a := a, b := some b } s

/-- DOT2 (R108, R109). -/
def execDot2 (a b c : Opnd) (s : State) : Host.Outcome State Fault Refusal := member { op := .dot2, a := a, rdA := true, b := some b, c := some c } s

/-- DOT4 (R108, R109). -/
def execDot4 (a b c : Opnd) (s : State) : Host.Outcome State Fault Refusal := member { op := .dot4, a := a, rdA := true, b := some b, c := some c } s

/-- LERP (R108, R109). -/
def execLerp (a b c : Opnd) (s : State) : Host.Outcome State Fault Refusal := member { op := .lerp, a := a, rdA := true, b := some b, c := some c } s

/-- CLAMP (R108, R109). -/
def execClamp (a b c : Opnd) (s : State) : Host.Outcome State Fault Refusal := member { op := .clamp, a := a, rdA := true, b := some b, c := some c } s

/-- FRAC (R108, R109). -/
def execFrac (a b : Opnd) (s : State) : Host.Outcome State Fault Refusal := member { op := .frac, a := a, b := some b } s

/-- ROUNDI (R108, R109). -/
def execRoundi (a b : Opnd) (s : State) : Host.Outcome State Fault Refusal := member { op := .roundi, a := a, b := some b } s

/-- SAT (R108, R109). -/
def execSat (a b : Opnd) (s : State) : Host.Outcome State Fault Refusal := member { op := .sat, a := a, b := some b } s

/-- SCALE (R108, R109). -/
def execScale (a b c : Opnd) (s : State) : Host.Outcome State Fault Refusal := member { op := .scale, a := a, b := some b, c := some c } s

/-- CMPS (R111). -/
def execCmps (a b c : Opnd) (s : State) : Host.Outcome State Fault Refusal := member { op := .cmps, a := a, b := some b, c := some c } s

/-- SEL (R111). -/
def execSel (a b c : Opnd) (s : State) : Host.Outcome State Fault Refusal := member { op := .sel, a := a, b := some b, c := some c } s

/-- CLASS (R111). -/
def execClassT (a b : Opnd) (s : State) : Host.Outcome State Fault Refusal := member { op := .class, a := a, b := some b } s

/-- CVT (R112). -/
def execCvt (a b : Opnd) (t : BitVec 4) (s : State) : Host.Outcome State Fault Refusal :=
  if 12 ≤ t.toNat then
    -- a source type above 11 fails the check of the literal, after those of A and B (R112)
    issue s (fun v => { ({ op := .cvt, a := a, b := some b } : MIns).desc v with c := .lit false }) fun _ _ _ => .wait
  else member { op := .cvt, a := a, b := some b, src := t.toNat } s

/-- CMP (R110). -/
def execCmp (k : Pcc) (b c : Opnd) (s : State) : Host.Outcome State Fault Refusal :=
  member { op := .cmp, p := some k.p, cond := k.cond, comb := k.comb, b := some b, c := some c } s

/-- CHDEC (R115). -/
def execChdec (k : Pcc) (b c : Opnd) (s : State) : Host.Outcome State Fault Refusal :=
  member { op := .dec, p := some k.p, cond := k.cond, comb := k.comb, b := some b, c := some c } s

/-- CHCLOSE (R116). -/
def execChclose (a : Opnd) (s : State) : Host.Outcome State Fault Refusal := member { op := .close, a := a, b := some .ch } s

/-- CHCANCEL (R117). -/
def execChcancel (p : Pred) (s : State) : Host.Outcome State Fault Refusal := member { op := .cancel, q := some p } s

end Sys2Proof.Machine
end

