-- ==== Sys2Proof/Machine/Control.lean ====
section
/-! DEFINITION. Control instructions (spec/06_fascine_rank.md R155 to R181, spec/02_instruction_word.md R45 to R47): branches
over the split table, calls, exits, waits, modes and literals, and the words that are no instruction (R57, R59). -/
namespace Sys2Proof.Machine

/-! ## Placing a sub-group (R159) -/

/-- The threads of a mask for which f holds. -/
def only (m : Mask) (f : Nat → Bool) : Mask := m &&& maskOf f

/-- Hazards of a sub-group that threads `m` leave for entry j: each group counts its own distances (R31, R32). -/
def splitHaz (g j : Nat) (m : Mask) (hs : List Hazard) : List Hazard :=
  hs.flatMap fun (h : Hazard) =>
    if h.g = g then
      if perThreadKey h.key then [{ h with mask := h.mask &&& ~~~m }, { h with mask := h.mask &&& m, g := j }] else [h, { h with g := j }]
    else [h]

/-- Offsets in rising order without repeats. -/
def insertNat (x : Nat) (l : List Nat) : List Nat := insertKey id x l

/-- The groups of running threads by next offset (R159): the taken groups in ascending offset, the fall-through group
last; threads that take a branch to the fall-through slot go with those that fall through. -/
def V.groups (v : V) (taken : Mask) (dest : Nat → Nat) : List (Nat × Mask) × Bool :=
  let fall := (nextSlot v.e.pc).toNat
  let run := v.e.running
  let down := run &&& ~~~taken
  let rest := if down = 0 then 0 else down ||| only (run &&& taken) (fun t => dest t == fall)
  let go := run &&& ~~~rest
  let offs := (threadsOf go).foldl (fun l t => insertNat (dest t) l) []
  (offs.map (fun o => (o, only go (fun t => dest t == o))) ++ (if rest = 0 then [] else [(fall, rest)]), rest != 0)

/-- Free split-table entries, lowest first. -/
def Fascine.freeEntries (f : Fascine) : List Nat := (f.r.ents.zipIdx.filter (fun x => !x.1.val)).map (·.2)

/-- A group that gets an entry of its own; RPC of the new entry, which R159 does not name, is 0 (log 64). -/
def V.fork (w : V) (entry : Bool) (j : Nat) (x : Nat × Mask) : V :=
  let n : SplitEntry := ({ w.e with mask := x.2, park := 0, rpc := 0, rjf := false, wj := false, val := true } : SplitEntry).hasIssued w.s.beat
  { w with e := { w.e with mask := w.e.mask &&& ~~~x.2 },
           f := { w.f with r := { w.f.r with ents := setAt w.f.r.ents j (n.goto (BitVec.ofNat 32 x.1) entry) },
                           haz := splitHaz w.l.g j x.2 w.f.haz } }

/-- place (R159); none: SPLITOV. -/
def V.place (w : V) (gs : List (Nat × Mask)) (hasFall : Bool) : Option V :=
  match gs with
  | [] => some w
  | g1 :: later =>
    let pc := w.e.pc
    let free := w.f.freeEntries
    let rest := later.drop free.length
    if !rest.isEmpty && (w.e.park != 0 || w.e.rjf) then none
    else
      let isFall (i : Nat) : Bool := hasFall && i + 1 == gs.length
      let w := (free.zip later).zipIdx.foldl (fun w x => w.fork (!isFall (x.2 + 1)) x.1.1 x.1.2) w
      let e := w.e.goto (BitVec.ofNat 32 g1.1) (!isFall 0)
      let e := match rest with
        | [] => e
        | (o, _) :: more =>
          { e with park := rest.foldl (fun a x => a ||| x.2) 0,
                   rpc := if hasFall && more.isEmpty then BitVec.ofNat 32 o else pc }
      some { w with e := e }

/-- A branch whose taken threads and targets are known. -/
def V.branch (v w : V) (taken : Mask) (dest : Nat → Nat) : Res :=
  let (gs, hasFall) := v.groups taken dest
  match w.place gs hasFall with
  | some w => .jump w
  | none => .trap { t := .splitov }

/-- The slot index that a direct branch names (R26). -/
def V.target (v : V) {n : Nat} (imm : BitVec n) : Int := (slotIndex v.e.pc.toNat : Int) + imm.toInt

/-- A direct branch (R171): a negative target traps when some thread takes it. -/
def V.direct (v w : V) (taken : Mask) (target : Int) : Res :=
  if taken != 0 && target < 0 then .trap { t := .misalign } else v.branch w taken (fun _ => slotOffset target.toNat)

/-- The lowest thread whose indirect target is no valid slot offset (R26, R172). -/
def badTarget (act : Mask) (dest : Nat → Word) : Option Nat := (threadsOf act).find? fun t => !validSlot (dest t).toNat

/-- v159, the link register (R172). -/
def linkReg : Opnd := .v 159

/-- A call: the link is written, then the branch (R172). -/
def V.callTo (v w : V) (act : Mask) (dest : Nat → Nat) : Res :=
  if !w.capOk [linkReg] then .trap { t := .regcap }
  else v.branch (w.wr linkReg act (fun _ => nextSlot v.e.pc)) act dest

/-! ## Branches -/

/-- NOP (R48). -/
def execNop (s : State) : Host.Outcome State Fault Refusal :=
  issue s (fun _ => { unif := true, guard := false, log := false }) fun _ w _ => .next w

/-- BRA (R171). -/
def execBra (i : BitVec 24) (s : State) : Host.Outcome State Fault Refusal :=
  issue s (fun _ => { log := false }) fun v w act => v.direct w act (v.target i)

/-- BRC (R171). -/
def execBrc (p : Pred) (i : BitVec 16) (s : State) : Host.Outcome State Fault Refusal :=
  issue s (fun _ => { a := .p p, log := false }) fun v w act => v.direct w (only act (v.rdP p)) (v.target i)

/-- DBNZ (R171). -/
def execDbnz (a : Opnd) (i : BitVec 16) (s : State) : Host.Outcome State Fault Refusal :=
  let d : Desc := { a := .ds a }
  issue s (fun _ => d) fun v w act =>
    let x := lanes d.uniform act fun t => v.rd a t - 1
    let taken := only act fun t => x t != 0
    if taken != 0 && v.target i < 0 then .trap { t := .misalign }
    else if !w.capOk [a] then .trap { t := .regcap }
    else v.direct (w.wr a act x) taken (v.target i)

/-- An indirect branch to `dest`; `link`: a call (R172). -/
def V.indirect (v w : V) (act : Mask) (dest : Nat → Word) (link : Bool) : Res :=
  match badTarget act dest with
  | some t => .trap { t := .misalign, addr := (dest t).toNat }
  | none =>
    if link then v.callTo w act (fun t => (dest t).toNat) else v.branch w act (fun t => (dest t).toNat)

/-- BRX (R172). -/
def execBrx (b : Opnd) (s : State) : Host.Outcome State Fault Refusal :=
  issue s (fun _ => { b := .s b, log := false }) fun v w act => v.indirect w act (v.rd b) false

/-- CALL (R172). -/
def execCall (i : BitVec 24) (s : State) : Host.Outcome State Fault Refusal :=
  issue s (fun _ => {}) fun v w act =>
    if v.target i < 0 then .trap { t := .misalign } else v.callTo w act (fun _ => slotOffset (v.target i).toNat)

/-- CALLX (R172). -/
def execCallx (b : Opnd) (s : State) : Host.Outcome State Fault Refusal :=
  issue s (fun _ => { b := .s b }) fun v w act => v.indirect w act (v.rd b) true

/-- RET (R172): it reads v159. -/
def execRet (s : State) : Host.Outcome State Fault Refusal :=
  issue s (fun _ => { log := false }) fun v w act =>
    if (threadsOf act).any (v.pois linkReg) then .trap { t := .poison } else v.indirect w act (v.rd linkReg) false

/-! ## Exits, helpers, waits -/

/-- EXIT (R173). -/
def execExit (s : State) : Host.Outcome State Fault Refusal :=
  issue s (fun _ => { exits := true }) fun v w act => .nextThen w fun s => s.exitFrom v.l.h v.l.f v.l.g act

/-- YIELD (R174): not eligible in the next beat, and from the beat after that. -/
def execYield (s : State) : Host.Outcome State Fault Refusal :=
  issue s (fun _ => { unif := true, guard := false, log := false }) fun _ w _ => .next { w with e := { w.e with sleep := 2 } }

/-- The beats from the issue of SLEEP n until its sub-group may be eligible: n + 1, and none of its own for SLEEP 0 (R174). -/
def sleepBeats (n : Nat) : Nat := if n = 0 then 0 else n + 1

/-- SLEEP (R174). -/
def execSleep (n : BitVec 24) (s : State) : Host.Outcome State Fault Refusal :=
  issue s (fun _ => { unif := true, guard := false, log := false }) fun _ w _ =>
    .next { w with e := { w.e with sleep := sleepBeats n.toNat } }

/-- SLEEP_EXPIRY (R174): the beats that remain pass, and the sub-group may issue again; one of a stopped polder keeps them
(R377). -/
def execSleepExpiry (h f g : Nat) (s : State) : Host.Outcome State Fault Refusal :=
  match s.polder? h with
  | none => .next s.idle
  | some p =>
    let k := ((((p.fs[f]?).getD {}).r.ents[g]?).getD {}).sleep
    if p.stopReq.isSome || p.dieHalt then .next s.idle else .next (s.passTo (s.beat + k)).idle

/-- WAITC (R175). -/
def execWaitc (l st c t : BitVec 6) (s : State) : Host.Outcome State Fault Refusal :=
  issue s (fun _ => { unif := true, guard := false, log := false }) fun v w _ =>
    let n := fun k => v.f.cnt.getD k 0
    if n 0 ≤ l.toNat ∧ n 1 ≤ st.toNat ∧ n 2 ≤ c.toNat ∧ n 3 ≤ t.toNat then .next w else .wait

/-- WAITF (R175). -/
def execWaitf (m : BitVec 12) (s : State) : Host.Outcome State Fault Refusal :=
  issue s (fun _ => { unif := true, guard := false, log := false }) fun v w _ =>
    if (List.range 12).all (fun i => !m.getLsbD i || (if i < 4 then v.f.cnt.getD i 0 == 0 else !v.f.tok.getLsbD (i - 4))) then .next w
    else .wait

/-- TRAP (R176). -/
def execTrap (i : BitVec 24) (s : State) : Host.Outcome State Fault Refusal :=
  issue s (fun _ => { unif := true, log := false }) fun _ _ _ => .trapAfter { t := .swtrap, data := i.toNat }

/-- BKPT (R176). -/
def execBkpt (i : BitVec 24) (s : State) : Host.Outcome State Fault Refusal :=
  issue s (fun _ => { unif := true, log := false }) fun _ _ _ => .trapAfter { t := .bkpt, data := i.toNat }

/-- HALT (R376, R377). -/
def execHalt (s : State) : Host.Outcome State Fault Refusal :=
  issue s (fun _ => { unif := true, guard := false, priv := true, log := false }) fun _ _ _ => .trapAfter { t := .halt }

/-- QFILL (R169): exited threads of quads with an active thread come back as helpers. -/
def execQfill (s : State) : Host.Outcome State Fault Refusal :=
  issue s (fun _ => { unif := true, log := false }) fun v w act =>
    let rev := only v.f.r.exmask fun t => (List.range 4).any fun k => act.getLsbD (t / 4 * 4 + k)
    .next { w with e := { w.e with mask := w.e.mask ||| rev },
                   f := { w.f with r := { w.f.r with exmask := w.f.r.exmask &&& ~~~rev, hmask := w.f.r.hmask ||| rev } } }

/-- DEMOTE (R168). -/
def execDemote (s : State) : Host.Outcome State Fault Refusal :=
  issue s (fun _ => {}) fun _ w act => .next { w with f := { w.f with r := { w.f.r with hmask := w.f.r.hmask ||| act } } }

/-! ## Modes and literals (R45 to R47) -/

/-- Whether a mode register value has no reserved code (R45). -/
def modeOk (m : BitVec 24) : Bool := modeRnd m != 7 && etype m < 12

/-- MODE (R45). -/
def execMode (i : BitVec 24) (s : State) : Host.Outcome State Fault Refusal :=
  issue s (fun _ => { a := .lit (modeOk i), unif := true, guard := false, log := false }) fun _ w _ =>
    .next { w with e := { w.e with mode := i } }

/-- The bits of the mode register that a MODEX field mask selects (R46). -/
def modexBits (k : BitVec 8) : BitVec 24 :=
  let part (i : Nat) (m : BitVec 24) : BitVec 24 := if k.getLsbD i then m else 0
  part 0 0x00000F ||| part 1 0x0000F0 ||| part 2 0x000700 ||| part 3 0x000800 ||| part 4 0x007000 ||| part 5 0x008000 |||
    part 6 0x1F0000 ||| part 7 0xE00000

/-- MODEX (R46). -/
def execModex (a b : Opnd) (k : BitVec 8) (s : State) : Host.Outcome State Fault Refusal :=
  issue s (fun _ => { a := .sreg true a, b := .u b, unif := true, guard := false }) fun v w act =>
    let old := v.e.mode
    let x : BitVec 24 := (v.rd b (lowest act)).setWidth 24
    let m := (old &&& ~~~modexBits k) ||| (x &&& modexBits k)
    if !modeOk m then .trap { t := .illopnd }
    else
      let w := w.wr a act fun _ => old.setWidth 32
      .next { w with e := { w.e with mode := m } }

/-- LIT (R47). -/
def execLit (a : Opnd) (i : BitVec 16) (s : State) : Host.Outcome State Fault Refusal :=
  let d : Desc := { a := .d a }
  issue s (fun _ => d) fun v w act => v.result w d a act fun _ => i.signExtend 32

/-- LITH (R47). -/
def execLith (a : Opnd) (i : BitVec 16) (s : State) : Host.Outcome State Fault Refusal :=
  let d : Desc := { a := .ds a }
  issue s (fun _ => d) fun v w act => v.result w d a act fun t => i ++ (v.rd a t).setWidth 16

/-! ## Words that are no instruction -/

/-- UNASSIGNED_OPCODE (R57): ILLINST in any slot, whatever the guard. -/
def execUnassignedOpcode (_w : Word) (s : State) : Host.Outcome State Fault Refusal :=
  match s.view with
  | none => .fault .noIssuer
  | some v => .next (v.bare .illinst)

/-- Opcodes that are privileged whatever their operands (R58). -/
def privOpcode (op : Nat) : Bool := [0x16, 0x17, 0xF2, 0xF3, 0xF4, 0xF5, 0xF6].contains op
/-- Opcodes with a destination register in field A (R37: kinds d and ds), for the lease check of R132. -/
def destOpcode (op : Nat) : Bool :=
  [0x39, 0x42, 0x44, 0x61, 0x75, 0x76, 0x77, 0x7B, 0x7E, 0x80, 0x81, 0x82, 0xB9, 0xC9, 0xCB, 0xF7].contains op

/-- RESERVED_FIELD_WORD (R59): an assigned opcode with a reserved or out-of-range field traps at the first check that
fails: PRIV, then LEASE where field A names a b-register it may not write, else ILLOPND. -/
def execReservedFieldWord (w : Word) (s : State) : Host.Outcome State Fault Refusal :=
  match s.view with
  | none => .fault .noIssuer
  | some v =>
    let op := w.toNat / 2 ^ 24
    let a := Opnd.ofByte (w.extractLsb' 16 8)
    let t : Trap :=
      if privOpcode op && !v.p.sys then .priv
      else if destOpcode op && v.chkD a == some .lease then .lease
      else .illopnd
    .next (v.bare t)

end Sys2Proof.Machine
end

