-- ==== Sys2Proof/Machine/Lanes.lean ====
section
/-! DEFINITION. Register and lane instructions, 0x70 to 0x87 (spec/05_registers.md R132 to R139, R145 to R153). -/
namespace Sys2Proof.Machine

/-! ## Moves and the lease -/

/-- MOV (R145). -/
def execMov (a b : Opnd) (s : State) : Host.Outcome State Fault Refusal :=
  let d : Desc := { a := .d a, b := .s b }
  issue s (fun _ => d) fun v w act => v.result w d a act (v.rd b)

/-- MOVS (R145): thread i's value, whether or not the thread is active. -/
def execMovs (a b : Opnd) (i : BitVec 4) (s : State) : Host.Outcome State Fault Refusal :=
  let d : Desc := { a := .sreg false a, b := .sx b, unif := true }
  issue s (fun _ => d) fun v w act =>
    if v.pois b i.toNat then .trap { t := .poison } else v.result w d a act fun _ => v.rd b i.toNat 1

/-- A b-register code. -/
def isB : Opnd → Bool
  | .b _ => true
  | _ => false

/-- The key in `Polder.bbars` of the release that MOVB makes with write number k of b-register n. -/
def movbKey (n k : Nat) : Nat := 128 + 16 * k + n
/-- The release of a MOVB to a b-register: its write publishes what the fascine has ordered (R134, R136). -/
def V.publishMovb (w : V) (a : Opnd) : V :=
  match a with
  | .b n => { w with p := w.p.publishBar (movbKey n.val ((w.p.breg.getD n.val []).length + 1)) w.f.bord }
  | _ => w
/-- The acquire of a MOVB from a b-register takes what the write that it reads published. -/
def V.takeMovb (v : V) (b : Opnd) (w : V) : V :=
  match b with
  | .b n => { w with f := w.f.acquireB (w.p.barPub (movbKey n.val ((v.p.breg.getD n.val []).length - v.bpick n.val))) }
  | _ => w

/-- MOVB (R136): a release at polder scope and a write of a b-register, or a read of one and an acquire. Of two b-register fields
the LEASE check of A stands before ILLOPND (log 85). -/
def execMovb (a b : Opnd) (s : State) : Host.Outcome State Fault Refusal :=
  let d : Desc :=
    if isB a then { a := .d a, b := if isB b then .lit false else .s b }
    else { a := if isB b then .d a else .lit false, b := .s b }
  issue s (fun _ => d) fun v w act =>
    if isB a then
      match v.engineOrder w with
      | none => .wait
      | some w => .next (w.releaseB.publishMovb a |>.wr a act fun _ => v.rd b (lowest act) 1)
    else if !w.capOk [a] then .trap { t := .regcap }
    else .next (v.takeMovb b w |>.wr a act fun _ => v.rd b (lowest act) 1)

/-- BLEASE (R135). -/
def execBlease (f : BitVec 6) (s : State) : Host.Outcome State Fault Refusal :=
  issue s (fun v => { c := .lit (decide (f.toNat < v.p.fs.length)), unif := true, log := false }) fun v w _ =>
    if v.p.lease != v.l.f then .trap { t := .lease }
    else if v.f.ops.any (·.accesses) then .wait
    else
    match v.engineOrder w with
    | none => .wait
    | some w =>
      let w := w.releaseB
      let alive := !((v.p.fs[f.toNat]?).getD { retired := true }).retired
      .next { w with p := { w.p with lease := if alive then f.toNat else (v.p.firstLive).getD v.l.f } }

/-! ## Lane crossing (R146) -/

/-- A delivery of source threads' words (R146): `u` gives the source thread of each thread. -/
def crossOp (d : Desc) (a b : Opnd) (u : V → Nat → Nat) (s : State) : Host.Outcome State Fault Refusal :=
  issue s (fun _ => d) fun v w act =>
    if (threadsOf act).any fun t => v.pois b (u v t) then .trap { t := .poison }
    else v.result w d a act fun t => v.rd b (u v t) 1

/-- SHFL (R146). -/
def execShfl (a b c : Opnd) (s : State) : Host.Outcome State Fault Refusal :=
  crossOp { a := .d a, b := .lane b, c := .s c, cross := true } a b
    (fun v t => let k := (v.rd c t 2).toNat; if 15 < k then t else k) s
/-- SHFLX (R146). -/
def execShflx (a b : Opnd) (m : BitVec 4) (s : State) : Host.Outcome State Fault Refusal :=
  crossOp { a := .d a, b := .lane b, cross := true } a b (fun _ t => t ^^^ m.toNat) s
/-- SHFLUP (R146). -/
def execShflup (a b : Opnd) (m : BitVec 4) (s : State) : Host.Outcome State Fault Refusal :=
  crossOp { a := .d a, b := .lane b, cross := true } a b (fun _ t => if t < m.toNat then t else t - m.toNat) s
/-- SHFLDN (R146). -/
def execShfldn (a b : Opnd) (m : BitVec 4) (s : State) : Host.Outcome State Fault Refusal :=
  crossOp { a := .d a, b := .lane b, cross := true } a b (fun _ t => if 15 < t + m.toNat then t else t + m.toNat) s
/-- QSWX (R146): the other pixel of the row. -/
def execQswx (a b : Opnd) (s : State) : Host.Outcome State Fault Refusal :=
  crossOp { a := .d a, b := .lane b, cross := true } a b (fun _ t => t ^^^ 1) s
/-- QSWY (R146): the other pixel of the column. -/
def execQswy (a b : Opnd) (s : State) : Host.Outcome State Fault Refusal :=
  crossOp { a := .d a, b := .lane b, cross := true } a b (fun _ t => t ^^^ 2) s
/-- QSWD (R146): the diagonal pixel. -/
def execQswd (a b : Opnd) (s : State) : Host.Outcome State Fault Refusal :=
  crossOp { a := .d a, b := .lane b, cross := true } a b (fun _ t => t ^^^ 3) s
/-- QBCAST (R146). -/
def execQbcast (a b : Opnd) (q : BitVec 2) (s : State) : Host.Outcome State Fault Refusal :=
  crossOp { a := .d a, b := .lane b, cross := true } a b (fun _ t => 4 * (t / 4) + q.toNat) s

/-- An elementwise operation of the mode on two words, delivered as the chain instruction delivers it (R83, R107). -/
def wordOp (op : COp) (m : BitVec 24) (draw : Nat) (x y : Word) : Word × BitVec 5 :=
  let o := arithMember { mode := m, write := true, draw := draw } op 0 (.word x) (.word y)
  (o.word, o.exc)

/-- A derivative (R146): B of the far thread minus B of the near one. -/
def derivOp (bitn : Nat) (a b : Opnd) (s : State) : Host.Outcome State Fault Refusal :=
  let d : Desc := { a := .d a, b := .lane b, tys := some grpFH, cross := true }
  issue s (fun _ => d) fun v w act =>
    let hi (t : Nat) : Nat := t ||| bitn
    let lo (t : Nat) : Nat := t - (t &&& bitn)
    let r : Nat → Word × BitVec 5 := lanes d.uniform act fun t =>
      -- both threads of a pair get the same result, so one draw serves them
      wordOp .sub v.e.mode (v.s.draw (lo t + 2 ^ 32)) (v.rd b (hi t)) (v.rd b (lo t))
    if (threadsOf act).any fun t => v.pois b (hi t) || v.pois b (lo t) then .trap { t := .poison }
    else
      match w.signal (excOver act fun t => (r t).2) with
      | .error t => .trap t
      | .ok w => if !w.capOk [a] then .trap { t := .regcap } else .next (w.wr a act fun t => (r t).1)

/-- DDX (R146). -/
def execDdx (a b : Opnd) (s : State) : Host.Outcome State Fault Refusal := derivOp 1 a b s
/-- DDY (R146). -/
def execDdy (a b : Opnd) (s : State) : Host.Outcome State Fault Refusal := derivOp 2 a b s

/-! ## Votes, matches, scans -/

/-- VOTE (R147). -/
def execVote (a : Opnd) (p : Pred) (k : BitVec 2) (s : State) : Host.Outcome State Fault Refusal :=
  let d : Desc := { a := .d a, b := .pu p, c := .lit (k.toNat ≤ 2), unif := true, cross := true }
  issue s (fun _ => d) fun v w act =>
    let m := only act (v.rdP p)
    v.result w d a act fun _ =>
      if k = 0 then (if m != 0 then 1 else 0) else if k = 1 then (if m = act then 1 else 0) else m.setWidth 32

/-- MATCH (R149). -/
def execMatchT (a b : Opnd) (s : State) : Host.Outcome State Fault Refusal :=
  let d : Desc := { a := .d a, b := .s b, cross := true }
  issue s (fun _ => d) fun v w act =>
    v.result w d a act fun t => (only act fun u => v.rd b u == v.rd b t).setWidth 32

/-- combine_op of R150: the accumulator and the next value. -/
def scanOp (o : Nat) (m : BitVec 24) (draw : Nat) (x y : Word) : Word × BitVec 5 :=
  match o with
  | 0 => wordOp .add m draw x y
  | 1 => wordOp .min m draw x y
  | 2 => wordOp .max m draw x y
  | 3 => (x &&& y, 0)
  | 4 => (x ||| y, 0)
  | _ => (x ^^^ y, 0)

/-- The running results of a fold over threads in ascending order (R150), last first, and what it signals. -/
def scanList (v : V) (o : Nat) (b : Opnd) : List Nat → List (Nat × Word) × BitVec 5 → List (Nat × Word) × BitVec 5
  | [], r => r
  | t :: ts, (l, f) =>
    let x := v.rd b t
    match l with
    | [] => scanList v o b ts ([(t, x)], f)
    | (_, acc) :: _ =>
      let (y, g) := scanOp o v.e.mode (v.s.draw (t + 2 ^ 32)) acc x
      scanList v o b ts ((t, y) :: l, f ||| g)

/-- SCANF and REDF (R150). `red`: only the last value is written. -/
def foldOp (red : Bool) (d : Desc) (a b : Opnd) (o : Nat) (s : State) : Host.Outcome State Fault Refusal :=
  issue s (fun _ => { d with tys := if o < 3 then some grpIKFH else none }) fun v w act =>
    let (l, f) := scanList v o b (threadsOf act) ([], 0)
    let last := (l.head?.map (·.2)).getD 0
    if (threadsOf act).any (v.pois b) then .trap { t := .poison }
    else
      match w.signal f with
      | .error t => .trap t
      | .ok w =>
        if !w.capOk [a] then .trap { t := .regcap }
        else .next (w.wr a act fun t => if red || d.uniform then last else ((l.find? (·.1 == t)).map (·.2)).getD 0)

/-- SCANF (R150). -/
def execScanf (a b : Opnd) (o : BitVec 3) (s : State) : Host.Outcome State Fault Refusal :=
  foldOp false { a := .d a, b := .lane b, c := .lit (o.toNat ≤ 5), cross := true } a b o.toNat s
/-- REDF (R150). -/
def execRedf (a b : Opnd) (o : BitVec 3) (s : State) : Host.Outcome State Fault Refusal :=
  foldOp true { a := .d a, b := .lanex b, c := .lit (o.toNat ≤ 5), unif := true, cross := true } a b o.toNat s

/-! ## Status registers (R138, R139) -/

/-- Status register n of the issuing fascine, sampled at issue (R138). -/
def V.status (v : V) (n : Nat) : Word :=
  let sat (k : Nat) : Nat := min 63 (v.f.cnt.getD k 0)
  match n with
  | 0 => v.f.exc.setWidth 32
  | 1 => v.e.park ++ v.e.mask
  | 2 => v.f.r.hmask.setWidth 32
  | 3 => BitVec.ofNat 32 (256 * v.p.regs + v.f.r.vb.length)
  | 4 => BitVec.ofNat 32 (v.p.lease + (if v.p.lease = v.l.f then 64 else 0))
  | 5 => BitVec.ofNat 32 (sat 0 + 2 ^ 6 * sat 1 + 2 ^ 12 * sat 2 + 2 ^ 18 * sat 3)
  | 6 => v.f.tok.setWidth 32
  | _ => BitVec.ofNat 32 (16 * v.l.g + (v.f.r.ents.filter (·.val)).length)

/-- GETSR (R139). -/
def execGetsr (a : Opnd) (i : BitVec 16) (s : State) : Host.Outcome State Fault Refusal :=
  let d : Desc := { a := .d a, b := .lit (i.toNat ≤ 7), unif := true }
  issue s (fun _ => d) fun v w act => v.result w d a act fun _ => v.status i.toNat

/-- SETSR (R139): only EXC can be written; a 1 clears. -/
def execSetsr (a : Opnd) (i : BitVec 16) (s : State) : Host.Outcome State Fault Refusal :=
  issue s (fun _ => { a := .u a, b := .lit (i == 0), unif := true, log := false }) fun v w act =>
    .next { w with f := { w.f with exc := clearExc w.f.exc (v.rd a (lowest act)) } }

/-! ## Time and queries -/

/-- TIME (R151). -/
def execTime (a b : Opnd) (s : State) : Host.Outcome State Fault Refusal :=
  issue s (fun _ => { a := .d a, b := if a == b && a != .zero then .lit false else .d b, unif := true }) fun v w act =>
    if !w.capOk [a, b] then .trap { t := .regcap }
    else .next ((w.wr a act fun _ => BitVec.ofNat 32 v.s.time).wr b act fun _ => BitVec.ofNat 32 (v.s.time / 2 ^ 32))

/-- DIEQ (R152). -/
def execDieq (a b c : Opnd) (s : State) : Host.Outcome State Fault Refusal :=
  let d : Desc := { a := .d a, b := .u b, c := .u c, unif := true }
  issue s (fun _ => d) fun v w act =>
    let x := (v.s.ctx? v.p.ctx).bind (·.pdie (v.rd b (lowest act) 1).toNat)
    let y := (v.s.ctx? v.p.ctx).bind (·.pdie (v.rd c (lowest act) 2).toNat)
    v.result w d a act fun _ =>
      match x, y with
      | some x, some y => BitVec.ofNat 32 (hops x y)
      | _, _ => 0xFFFFFFFF

/-- Scratchpad bytes of a core of a die (R11, R153). -/
def State.spadSize (s : State) (die : Nat) : Nat := if ((s.dies[die]?).getD {}).berm then 4194304 else 2097152

/-- A capacity figure (R153). -/
def V.capacity (v : V) (q : Nat) : Nat :=
  match q with
  | 0 => v.s.spadSize v.p.die
  | 1 => v.p.spsize
  | 2 => 262144 * (if v.p.fuse then max 1 v.p.rcores else 1)
  | 3 => max 1 v.p.rcores
  | 4 => v.p.ranks.length
  | 5 => ((v.s.ctx? v.p.ctx).map (·.vdt.length)).getD 0
  | 6 => 64
  | 7 => v.p.regs
  | 8 => v.p.bars.length
  | 9 => v.p.nslots
  | _ => if ((v.s.dies[v.p.die]?).getD {}).berm then 1 else 0

/-- CAPQ (R153). -/
def execCapq (a : Opnd) (q : BitVec 8) (s : State) : Host.Outcome State Fault Refusal :=
  let d : Desc := { a := .d a, c := .lit (q.toNat ≤ 10), unif := true }
  issue s (fun _ => d) fun v w act => v.result w d a act fun _ => BitVec.ofNat 32 (v.capacity q.toNat)

end Sys2Proof.Machine
end

