-- ==== Sys2Proof/Machine/Scoreboard.lean ====
section
/-! DEFINITION. The shapes of matrix operands (spec/11_operand_slot.md R266 to R270) and the range-overlap scoreboard of a
core's scratchpad: engine reads and writes of overlapping bytes are performed in the order in which their instructions
issued (spec/08_ordering.md R218). -/
namespace Sys2Proof.Machine

/-- K per step of a pair of element formats; none: not valid (R266). -/
def pairK (a b : Nat) : Option Nat :=
  if a < 2 && b < 2 then some 128
  else if (a == 2 && b < 2) || (a < 2 && b == 2) then some 128
  else if a == 2 && b == 2 then some 256
  else if a == 3 && b == 3 then some 64
  else if (a == 4 || a == 5) && (b == 4 || b == 5) then some 128
  else none

/-- K of a format block's pair. -/
def fmtK (f : List Byte) : Nat := (pairK (field f 0 4) (field f 4 4)).getD 128
/-- Block length BL (R270). -/
def fmtBL (f : List Byte) : Nat := if 3 ≤ field f 0 4 then 32 else if flag f 8 then 32 else 16
/-- Blocks per step. -/
def fmtNb (f : List Byte) : Nat := fmtK f / fmtBL f
/-- Bytes of one element of a drain format (R282). -/
def drainSize (f : List Byte) : Nat := match field f 16 3 with
  | 0 => 4 | 1 => 2 | 2 => 2 | 3 => 1 | 4 => 1 | _ => 4
/-- An offset that steps by a signed increment: base + i × inc (R275). -/
def stepOff (base inc i : Nat) : Int := (base : Int) + (i : Int) * signed 32 inc

/-- Scratchpad ranges (first byte, bytes) that step i of a dense or sparse loop reads under a format (R275, R277). -/
def loopReads (d f : List Byte) (sparse : Bool) (i : Nat) : List (Int × Nat) :=
  let w (k : Nat) : Nat := field d (32 * k) 32
  (if flag d 32 then [(stepOff (w 2) (w 3) i, 6144)] else []) ++
  (if flag d 33 then [(stepOff (w 4) (w 5) i, 6144)] else []) ++
  (if field f 9 2 = 0 then [] else [(stepOff (field f 32 32) (w 6) i, 32 * fmtNb f)]) ++
  (if field f 11 2 = 0 then [] else [(stepOff (field f 64 32) (w 7) i, 48 * fmtNb f)]) ++
  (if sparse then [(stepOff (w 8) (w 10) i, 4 * fmtK f), (stepOff (w 9) (w 11) i, 6 * fmtK f)] else [])

/-- A word of a polder's scratchpad. -/
def Polder.spWord (p : Polder) (o : Nat) : Nat := leNat (p.spad.readN o 4)

/-- Scratchpad ranges that a Gustavson product reads (R278, R279), from the pointers that memory holds now. -/
def gustReads (p : Polder) (d f : List Byte) : List (Int × Nat) :=
  let w (k : Nat) : Nat := field d (32 * k) 32
  let lo := p.spWord (w 0)
  let hi := p.spWord (w 0 + 128)
  let es := if field f 0 4 = 3 then 2 else 1
  let sp (a : Nat) : Bool := spaceOf a == 0xFE
  let bptr := field d 128 64
  let bent := field d 192 64
  [(((w 0 : Nat) : Int), 132), (((w 1 + 4 * lo : Nat) : Int), 4 * (hi - lo)), (((w 2 + es * lo : Nat) : Int), es * (hi - lo))] ++
    (if sp bptr then [(((bptr % 2 ^ 32 : Nat) : Int), 4 * (w 3 + 1))] else []) ++
    (if sp bent then
      (if sp bptr then
        let q0 := p.spWord (bptr % 2 ^ 32)
        [(((bent % 2 ^ 32 + 4 * q0 : Nat) : Int), 4 * (p.spWord (bptr % 2 ^ 32 + 4 * w 3) - q0))]
       else [(0, p.spsize)]) else [])

/-- Scratchpad ranges of a matrix operation, and whether it writes them. -/
def MOp.ranges (p : Polder) (o : MOp) : List (Int × Nat × Bool) :=
  match o.kind with
  | 0 => [((o.src : Int), 6144, false)]
  | 2 | 3 =>
    let i0 := o.pos / max 1 (fmtNb o.fmt)
    ((List.range (field o.desc 0 16 - i0)).flatMap fun k => loopReads o.desc o.fmt (o.kind == 3) (i0 + k)).map fun x => (x.1, x.2, false)
  | 4 => (gustReads p o.desc o.fmt).map fun x => (x.1, x.2, false)
  | 5 =>
    let dst := field o.desc 0 64
    if spaceOf dst ≠ 0xFE then []
    else (List.range (32 - o.pos)).map fun k =>
      (((dst % 2 ^ 32 + (o.pos + k) * field o.desc 64 32 : Nat) : Int), 48 * drainSize o.fmt, true)
  | _ => []

/-- Scratchpad ranges of polder h that a move of a record of polder `own` touches. -/
def Move.ranges (own h : Nat) (r : List Byte) : Move → List (Int × Nat × Bool)
  | .copy dh d a n =>
    (if dh = some h then [((d : Int), n, true)] else []) ++
      (if own = h ∧ spaceOf a = 0xFE then [(((a % 2 ^ 32 : Nat) : Int), n, false)] else [])
  | .parts dh d srcs =>
    (if dh = some h then [((d : Int), 16 * srcs.length, true)] else []) ++
      srcs.filterMap fun x => match x with
        | some a => if own = h ∧ spaceOf a = 0xFE then some (((a % 2 ^ 32 : Nat) : Int), 16, false) else none
        | none => none
  | .row i =>
    let n := field r 256 32
    let dst := field r 192 64
    let src := field r 128 64
    if own ≠ h then []
    else
      (if spaceOf dst = 0xFE then [(((dst % 2 ^ 32 + i * field r 352 32 : Nat) : Int), n, true)] else []) ++
      (if spaceOf src = 0xFE then [(((src % 2 ^ 32 : Nat) : Int), field r 448 32 * field r 320 32 + n, false)] else []) ++
      (if spaceOf (field r 384 64) = 0xFE then [(((field r 384 64 % 2 ^ 32 + 4 * i : Nat) : Int), 4, false)] else [])

/-- What a record that has not been taken will touch of its own polder's scratchpad, as whole ranges. -/
def recordRanges (r : List Byte) : List (Int × Nat × Bool) :=
  let src := field r 128 64
  let dst := field r 192 64
  let n := field r 256 32
  let rows := field r 288 32
  let (sn, dn) := match field r 65 3 with
    | 0 => (n, n)
    | 1 => ((rows - 1) * field r 320 32 + n, (rows - 1) * field r 352 32 + n)
    | 2 => (field r 448 32 * field r 320 32 + n, (rows - 1) * field r 352 32 + n)
    | _ => (n + 8 * rows, n + 8 * field r 320 32 + rows)
  (if spaceOf src = 0xFE then [(((src % 2 ^ 32 : Nat) : Int), sn, false)] else []) ++
    (if spaceOf dst = 0xFE then [(((dst % 2 ^ 32 : Nat) : Int), dn, true)] else []) ++
    (if field r 65 3 = 2 ∧ spaceOf (field r 384 64) = 0xFE then [(((field r 384 64 % 2 ^ 32 : Nat) : Int), 4 * rows, false)] else [])

/-- The address of the record that a chain takes next (R244, R245): of the one after the last in progress, when its NEXT
names one already. -/
def State.nextRec (s : State) (c : Ctx) (k : SChain) (h : Nat) : Option Nat :=
  match k.now.getLast? with
  | none => some k.next
  | some x =>
    match s.eread c h k.die 16 x.addr 8 with
    | .ok (b, _) => if leNat b = 0 then none else some (leNat b)
    | .error _ => none

/-- The ranges of the records of a chain that lie ahead and are ready for the engine, up to one that it meets again (R244, log 23). The
number bounds how many there can be. -/
def State.chainAhead (s : State) (c : Ctx) (k : SChain) : Nat → List Nat → Nat → List (Int × Nat × Bool)
  | 0, _, _ => []
  | fuel + 1, met, a =>
    if a = 0 || met.contains a then []
    else
      match s.eread c k.iss.h k.die 0 a 64 with
      | .error _ => []
      | .ok (r, _) => if !flag r 64 then [] else recordRanges r ++ State.chainAhead s c k fuel (a :: met) (field r 0 64)

/-- Accumulator n of an engine. -/
def Engine.acc (e : Engine) (n : Nat) : Accum := e.accs.getD n {}
/-- Whether a matrix operation of a draining polder can never start: its version cannot arrive (R273). -/
def Engine.stuck (e : Engine) (o : MOp) : Bool :=
  o.kind != 0 && !o.running && o.v != (e.acc o.a).ver &&
    !(e.q.any fun x => x.kind != 0 && x.a == o.a && (x.running || x.v == (e.acc o.a).ver))
/-- An engine of a polder, without the operations that are discarded once the polder drains (R273, R284). -/
def Polder.pruned (p : Polder) (e : Engine) : Engine :=
  if p.life == .draining then { e with q := e.q.filter fun o => !e.stuck o } else e

/-- The ranges of a job record in the scratchpad that a builder or compactor still reads or writes (R218, R300). -/
def Job.ranges (h : Nat) (j : Job) : List (Int × Nat × Bool) :=
  let a : Nat := j.addr % 2 ^ 32
  if spaceOf j.addr ≠ 0xFE || (j.iss.map fun (i : Issuer) => i.h) ≠ some h then []
  else (if j.st = 0 then [((a : Int), 64, false)] else []) ++ [((a : Int) + 29, 1, true), ((a : Int) + 32, 4, true)]

/-- The scratchpad ranges of polder h that engine work in flight still reads or writes, each with the place of its
instruction in the order of issue; those of the matrix engine of partition `but` left out. -/
def State.engineRanges (s : State) (h : Nat) (but : Option Nat := none) : List (Nat × Int × Nat × Bool) :=
  let chains := s.schains.flatMap fun k =>
    (k.now.flatMap fun r => (r.todo.flatMap (Move.ranges k.iss.h h r.bytes)).map fun x => (k.id, x)) ++
    (if k.iss.h = h then
      match (match k.cx with
        | some c => some c
        | none => s.ctx? k.ctx) with
      | some c => (s.chainAhead c k (2 ^ 58) [] ((s.nextRec c k h).getD 0)).map fun x => (k.id, x)
      | none => []
     else [])
  let chains := chains ++ (s.jobs.flatMap fun j => (j.ranges h).map fun x => (j.id, x)) ++
    (s.colls.filter fun x => x.st == 0 && x.iss.h == h && spaceOf x.addr == 0xFE).map fun x => (x.id, ((x.addr % 2 ^ 32 : Nat) : Int), 64, false)
  match s.polder? h with
  | none => chains
  | some p =>
    chains ++ ((p.engines.filter fun e => some e.part != but).flatMap fun e => (p.pruned e).q.flatMap fun o => (o.ranges p).map fun x => (o.id, x)) ++
      (p.fs.flatMap fun f => f.ops.flatMap fun o => match o.kind with
        | .copy d src n gid => if o.acc.isEmpty then [(gid, (d : Int), n, true), (gid, (src : Int), n, false)]
            else o.acc.filterMap fun x => match x.loc with
              | .spad a => some (gid, (a : Int), 4 * x.data.length, true)
              | _ => none
        | _ => [])

/-- Whether engine work issued before `id` still writes the n bytes at offset `o` of polder h, or, for a write, reads
them (R218). The order is between different engines: `but` names the matrix engine that asks. -/
def State.spadBusy (s : State) (h id : Nat) (o : Int) (n : Nat) (write : Bool) (but : Option Nat := none) : Bool :=
  (s.engineRanges h but).any fun (j, lo, m, w) =>
    decide (j < id) && (w || write) && decide (o < lo + m) && decide (lo < o + n) && decide (0 < n)

end Sys2Proof.Machine
end

