-- ==== Sys2Proof/Machine/Image.lean ====
section
/-! DEFINITION. The layout of a save image (spec/15_context.md R378, R379) and what still reaches a polder after it was saved:
landings, token clears and barrier counts (R382). -/
namespace Sys2Proof.Machine

/-- A polder by its handle, placed, or as the device keeps it while it is saved. -/
def State.body? (s : State) (h : Nat) : Option Polder :=
  match s.polder? h with
  | some p => some p
  | none => (s.saved? h).map (·.p)

/-- The polders of a ring, placed or saved. -/
def State.ringAll (s : State) (p : Polder) : List Polder :=
  s.ringOf p ++ ((s.saved.filter fun z => z.p.ctx == p.ctx && z.p.ring == p.ring).map (·.p))
/-- Polder q of a polder's ring (R351). -/
def State.member? (s : State) (p : Polder) (q : Nat) : Option Polder := (s.ringAll p).find? fun x => x.pl % max 1 x.ppr == q

/-- Sizes of the sections that follow an image's header, in order (R379). -/
def imgSizes (hd : List Byte) : List Nat :=
  [1024, 1024 * field hd 112 7, 80 * field hd 128 16, 4160 * field hd 144 9, 128 * field hd 160 16,
   131072 * field hd 119 4, 17920 * popcount 2 (field hd 123 2), 32768, 16384, field hd 192 32]
/-- The offset of section k: block, fascines, vector entries, chains, open records, engines, inlet and outlet, late
entries, pending entries, scratchpad. -/
def imgOffset (hd : List Byte) (k : Nat) : Nat :=
  roundUp (((imgSizes hd).take k).foldl (fun a n => roundUp a 64 + n) 256) 64
/-- The end of the last section, NEED (R379). -/
def imgNeed (hd : List Byte) : Nat := imgOffset hd 9 + field hd 192 32

/-- Bytes of an image of a context, and bytes written to it; the accesses are the device's own. -/
def State.imageRead (s : State) (ctx img o n : Nat) : List Byte :=
  match s.ctx? ctx with
  | none => []
  | some c => match s.gread c atHome 0 (n / 32 + 2) (img + o) n with
    | .ok (b, _) => b
    | .error _ => []
/-- Bytes written to an image of a context. -/
def State.imageWrite (s : State) (ctx img o : Nat) (b : List Byte) : State :=
  match s.ctx? ctx with
  | none => s
  | some c => (s.gwrite c atHome 0 false (b.length / 32 + 2) (img + o) b).toOption.getD s
/-- Bytes of the image of a saved polder. -/
def State.imgRead (s : State) (z : Saved) (o n : Nat) : List Byte := s.imageRead z.p.ctx z.img o n
/-- Bytes written to the image of a saved polder. -/
def State.imgWrite (s : State) (z : Saved) (o : Nat) (b : List Byte) : State := s.imageWrite z.p.ctx z.img o b
/-- The image's header. -/
def State.imgHead (s : State) (z : Saved) : List Byte := s.imgRead z 0 256

/-- Whether every block of 2 KiB, the least that has one home (R191), of a range of virtual addresses can be written now. -/
def State.reaches (s : State) (c : Ctx) : Nat → Nat → Nat → Bool
  | 0, _, _ => true
  | fuel + 1, va, n =>
    if n = 0 then true
    else
      let k := min n (2048 - va % 2048)
      match s.translate c va 1 0 with
      | .ok (.glob tgt _ home, _) => s.reach atHome tgt home && State.reaches s c fuel (va + k) (n - k)
      | _ => false
/-- Whether an image of a context can be written now. -/
def State.imageOpen (s : State) (ctx img : Nat) : Bool :=
  match s.ctx? ctx with
  | none => false
  | some c =>
    let need := imgNeed (s.imageRead ctx img 0 256)
    s.reaches c (need / 2048 + 2) img need
/-- Whether the image of a saved polder can be written now. -/
def State.imgOpen (s : State) (z : Saved) : Bool := s.imageOpen z.p.ctx z.img

/-- The image for which a polder was sampled in this very beat: its context and its address (R383). -/
def State.sampleOf (s : State) (h : Nat) : Option (Nat × Nat) :=
  match s.saved? h with
  | some z => if z.beat = s.beat then some (z.p.ctx, z.img) else none
  | none => (s.sampled.find? fun x => x.h == h && x.beat == s.beat).map fun x => (x.ctx, x.img)
/-- An event of the sample beat entered in the pending section of the polder's image, in the order of R225: kind, fascine, index and
value (R383); none: the section is full, or the image cannot be written now. -/
def State.pend (s : State) (h kind f i v : Nat) : Option State :=
  (s.sampleOf h).bind fun (c, img) =>
    let hd := s.imageRead c img 0 256
    let n := field hd 176 10
    if 1023 ≤ n || !s.imageOpen c img then none
    else
      let base := imgOffset hd 8
      let es := (List.range n).map fun k => s.imageRead c img (base + 16 * k) 16
      let k := if kind = 2 then (es.findIdx? fun e => field e 0 4 == 3).getD n else n
      let e := leBytes 4 (kind + 16 * f + 1024 * i) ++ leBytes 4 v ++ leBytes 8 s.time
      some ((s.imageWrite c img (base + 16 * k) (e ++ (es.drop k).flatten)).imageWrite c img 22 (leBytes 2 (n + 1)))

/-- The PHANDLE of a polder: a saved one keeps the one that its image names (R375, R382). -/
def State.phandle (s : State) (h : Nat) : Nat := ((s.saved? h).map (·.was)).getD h
/-- The late-landing entry of a chain in the image of polder h, when it has landed nothing yet (R382). -/
def State.lateBytes (s : State) (h : Nat) (k : SChain) : List Byte :=
  let foreign := k.iss.h != h
  leBytes 8 (k.tok + 8 * k.iss.f + if foreign then 2 ^ 11 else 0) ++ leBytes 8 (if foreign then s.phandle k.iss.h else 0)

/-- The late-landing entry of a chain in a saved polder's image changed (R382). -/
def State.lateEntry (s : State) (z : Saved) (chain : Nat) (f : List Byte → List Byte) : State :=
  let base := imgOffset (s.imgHead z) 7
  match z.late.findIdx? (· == some chain) with
  | some i => s.imgWrite z (base + 64 * i) (f (s.imgRead z (base + 64 * i) 16))
  | none =>  -- a chain of another polder is known to target this one when it lands
    match s.schains.find? (·.id == chain) with
    | none => s
    | some k =>
      let b := s.lateBytes z.p.h k
      let s := { s with saved := s.saved.map fun (y : Saved) => if y.p.h = z.p.h then { y with late := y.late ++ [some chain] } else y }
      s.imgWrite z (base + 64 * z.late.length) (f b)
/-- n bytes of a chain have landed in the scratchpad of polder h: a saved one's entry counts them (R382). -/
def State.lateLand (s : State) (h chain n : Nat) : State :=
  match s.saved? h with
  | some z => s.lateEntry z chain fun e => patch e 4 (leBytes 4 (field e 32 32 + n))
  | none => s
/-- A chain has ended: every late-landing entry of it says so (R382). -/
def State.lateEnd (s : State) (chain : Nat) : State :=
  s.saved.foldl (fun s z => if z.late.contains (some chain) then s.lateEntry z chain fun e => patch e 1 [e.getD 1 0 ||| 4] else s) s

/-- The offset of the record of an inlet (0) or outlet core (1) in the image of a saved polder (R379). -/
def State.ioOffset (s : State) (z : Saved) (k : Nat) : Nat :=
  imgOffset (s.imgHead z) 6 + (if k = 1 ∧ z.p.io.any (·.k == 0) then 17920 else 0)

/-- The leader's barrier as its first BRING makes it a ring barrier (R230). -/
def Bar.mark (x : Bar) (live : Nat) : Bar :=
  if x.ring then x else { x with ring := true, exparr := if x.auto then live else x.exparr }

/-- An event applied to the image of a saved polder (R382). -/
def State.imgApply (s : State) (z : Saved) (e : Owed) : State :=
  match e with
  | .token f k ts =>
    let o := imgOffset (s.imgHead z) 1 + 1024 * f
    let b := (s.imgRead z (o + 120) 1).map (· &&& ~~~(BitVec.ofNat 8 (2 ^ k)))
    let s := s.imgWrite z (o + 120) b
    match ts with
    | some w => s.imgWrite z (o + 128 + 4 * k) (wordBytes w)
    | none => s.imgWrite z (o + 128 + 4 * k) ((s.imgRead z (o + 128 + 4 * k) 1).map (· &&& 0xFE))
  | .ticket i t ts => s.imgWrite z (s.ioOffset z i + 192 + 4 * t) (wordBytes ts)
  | .land b n sc => (s.modBar? z.p.h b fun x => x.land n sc).getD s
  | .follow b n m => (s.modBar? z.p.h b fun x => if x.auto && x.ring then x.follow n m else x).getD s
  | .arrive b => (s.modBar? z.p.h b fun x => (x.mark (s.ringLive z.p)).arrive).getD s
/-- What is owed to the image of a saved polder is applied when it can be written, in its order; not in the beat of the sample
(R383). -/
def State.payOwed (s : State) (h : Nat) : State :=
  match s.saved? h with
  | none => s
  | some z =>
    if z.owed.isEmpty || z.beat == s.beat || !s.imgOpen z then s
    else
      let s := { s with saved := s.saved.map fun (y : Saved) => if y.p.h = h then { y with owed := [] } else y }
      z.owed.foldl (fun s e => s.imgApply z e) s
/-- An event for a saved polder: applied to its image, or owed to it. -/
def State.imgEvent (s : State) (h : Nat) (e : Owed) : State :=
  let s := s.payOwed h
  match s.saved? h with
  | none => s
  | some z => if !z.owed.isEmpty || z.beat == s.beat || !s.imgOpen z then s.owe h e else s.imgApply z e

/-- A landing at barrier b of polder h: n bytes (R227, R382). `scope` is that of the release (R218, R219). -/
def State.land (s : State) (h : Nat) (bar : Option Nat) (n scope : Nat) : State :=
  match bar with
  | none => s
  | some b =>
    let s := s.barTurn atLanding
    let p := s.pend h 2 0 b n
    match s.saved? h with
    | some _ => p.getD (s.imgEvent h (.land b n scope))
    | none => ((p.getD s).modBar? h b fun x => x.land n scope).getD s

/-- Token F(4 + k) of a fascine clears (R238, R251, R382). TS(k) takes `ts` when it is given. The clear is a release; the
acquire that matches it is carried out here, for the data has reached its home. -/
def State.clearToken (s : State) (h f k : Nat) (ts : Option Word) (scope : Nat) : State :=
  let s := (s.pend h 1 f k 0).getD s
  match s.polder? h with
  | some p =>
    (s.invalidate p scope).modFasc h f fun x =>
      { x with tok := x.tok &&& ~~~(BitVec.ofNat 8 (2 ^ k)), ts := match ts with
        | some w => setAt x.ts k w
        | none => x.ts }
  | none => s.imgEvent h (.token f k ts)

end Sys2Proof.Machine
end

