-- ==== Sys2Proof/Machine/Rounds.lean ====
section
/-! DEFINITION. Steps of several sub-groups or fascines together: merging at a rejoin point (R156, R161), the urgency of a
candidate (R164), VOTERK (R148) and REGROUP (R178 to R180) with the ends of their rounds. -/
namespace Sys2Proof.Machine

/-! ## Rejoin -/

/-- Entries numbered by their place that wait at one pc, the lowest of them first (R161). -/
def waitingAt (ents : List SplitEntry) (pc : Word) : List (SplitEntry × Nat) :=
  ents.zipIdx.filter fun x => x.1.val && x.1.wj && x.1.pc == pc

/-- The waiting entries of one pc merge into the lowest-numbered, unless two of them hold parked threads (R161). The
merged mode is one of theirs (R44); the distance counts from the latest of them (R31). -/
def Fascine.mergeAt (f : Fascine) (free : Nat → Nat → Nat) (pc : Word) : Fascine :=
  let es := waitingAt f.r.ents pc
  let held := es.filter (·.1.rjf)
  match es with
  | [] => f
  | [_] => f
  | (e0, i0) :: rest =>
    if 1 < held.length then f
    else
      let mode := ((es[free i0 es.length]?).map (·.1.mode)).getD e0.mode
      let mask := es.foldl (fun a x => a ||| x.1.mask) 0
      let h := (held.head?.map (·.1)).getD { park := 0, rpc := e0.rpc }
      let e := { e0 with mask := mask, park := h.park, rpc := h.rpc, rjf := !held.isEmpty, mode := mode,
                         relBefore := es.foldl (fun a x => max a x.1.relBefore) 0,
                         scBefore := es.foldl (fun a x => max a x.1.scBefore) 0,
                         acq := (es.filterMap (·.1.acq)).foldl (fun a x => match a with
                           | none => some x
                           | some y => some (max x.1 y.1, max x.2 y.2)) none,
                         facq := es.any (·.1.facq), bpub := es.foldl (fun a x => joinB a x.1.bpub) [],
                         bgot := es.foldl (fun a x => joinB a x.1.bgot) [],
                         issued := es.foldl (fun a x => max a x.1.issued) 0 }
      let gone := rest.map (·.2)
      let ents := gone.foldl (fun l j => modAt l j fun x => { x with val := false, mask := 0, wj := false }) (setAt f.r.ents i0 e)
      { f with r := { f.r with ents := ents },
               haz := f.haz.map fun (h : Hazard) => if gone.contains h.g then { h with g := i0 } else h,
               ops := f.ops.map fun (o : MemOp) => if gone.contains o.g then { o with g := i0 } else o,
               chains := f.chains.map fun (c : Chain) => if gone.contains c.g then { c with g := i0 } else c }

/-- R161: every pc's waiting entries merge; when every entry in use waits, all of them become eligible. -/
def Fascine.merge (f : Fascine) (free : Nat → Nat → Nat) : Fascine :=
  let f := (f.r.ents.map (·.pc)).eraseDups.foldl (fun f pc => f.mergeAt free pc) f
  if f.r.ents.all (fun e => !e.val || e.wj) then
    { f with r := { f.r with ents := f.r.ents.map fun e => { e with wj := false, elig := false, waited := true } } }
  else f

/-- REJOIN_MERGE (R161). -/
def execRejoinMerge (h f : Nat) (s : State) : Host.Outcome State Fault Refusal :=
  .next ((s.modFasc h f (·.merge s.choose)).idle)

/-- REJOIN_HOLD_EXPIRY (R156): the hold for coupling ends. -/
def execRejoinHoldExpiry (h f : Nat) (s : State) : Host.Outcome State Fault Refusal :=
  .next ((s.modFasc h f fun x => { x with rejoinHold := false }).idle)

/-- CANDIDATE_URGENT (R164): a candidate that has been eligible for 1024 beats without issuing becomes urgent; time in which
it was not eligible does not count (R161, R165, R174). -/
def execCandidateUrgent (h f g : Nat) (s : State) : Host.Outcome State Fault Refusal :=
  .next ((s.modFasc h f fun x =>
    { x with r := { x.r with ents := modAt x.r.ents g fun e =>
      { e with urgent := e.urgent || (e.val && e.elig && decide (e.since + 1024 ≤ s.beat)) } } }).idle)

/-! ## VOTERK -/

/-- Entries in use. -/
def Fascine.used (f : Fascine) : Nat := (f.r.ents.filter (·.val)).length
/-- The entry in use of a fascine that has one. -/
def Fascine.theEntry (f : Fascine) : Option (SplitEntry × Nat) := f.r.ents.zipIdx.find? (·.1.val)

/-- VOTERK (R148): the fascine joins the round of its rank. -/
def execVoterk (a : Opnd) (p : Pred) (k : BitVec 2) (s : State) : Host.Outcome State Fault Refusal :=
  let d : Desc := { a := .d a, b := .pu p, c := .lit (k.toNat ≤ 2), unif := true, cross := true }
  issue s (fun _ => d) fun v w act =>
    if 1 < v.f.used then .trap { t := .diverge }
    else if !w.capOk [a] then .trap { t := .regcap }
    else .hold { w with e := { w.e with hold := .voterk a act (only act (v.rdP p)) k.toNat } }

/-- The fascines of a rank, by number in the polder, that still hold a thread. -/
def Polder.rankLive (p : Polder) (rank : Nat) : List Nat :=
  (List.range p.fs.length).filter fun i => i / 8 == rank && !((p.fs[i]?).getD { retired := true }).retired

/-- What a fascine holds in the round it waits in. -/
def Fascine.holding (f : Fascine) : Hold := (f.theEntry.map (·.1.hold)).getD .none

/-- A register written outside an issue, when a round or an engine delivers it, for entry g: threads of `m` that are
still the entry's. The write is complete. -/
def Fascine.deliver (f : Fascine) (g : Nat) (o : Opnd) (m : Mask) (val : Nat → Word) (pois : Nat → Bool) : Fascine :=
  let e := (f.r.ents[g]?).getD {}
  let f := { f with haz := overtake o.code g (if perThreadKey o.code then m else 0xFFFF) f.haz }
  match o with
  | .v n => if m = 0 then f else { f with r := f.r.writeV n.val (if e.val then e.running else m) m val (maskOf pois) }
  | .s n => { f with r := { f.r with s := setAt f.r.s n.val (val (lowest m)), spois := setAt f.r.spois n.val (pois (lowest m)) } }
  | _ => f
/-- A register of fascine i, entry g, written outside an issue; a b-register's write precedes the fascine's later reads
(R134). -/
def Polder.deliver (p : Polder) (i g : Nat) (o : Opnd) (m : Mask) (val : Nat → Word) (pois : Nat → Bool) : Polder :=
  let q := p.modF i (·.deliver g o m val pois)
  match o with
  | .b n =>
    let h := p.breg.getD n.val []
    let q := { q with breg := setAt p.breg n.val (val (lowest m) :: h), bpois := setAt p.bpois n.val (pois (lowest m)) }
    q.modF i fun f => { f with bseen := setAt f.bseen n.val (h.length + 1), bord := setAt f.bord n.val (h.length + 1) }
  | _ => q

/-- A held entry goes on at the slot after its instruction. -/
def Fascine.release (f : Fascine) (g : Nat) : Fascine :=
  { f with r := { f.r with ents := modAt f.r.ents g fun e => { e with hold := .none }.goto (nextSlot e.pc) false } }

/-- Whether the rounds of a polder go on: none completes while it is halted or stops (R157). -/
def Polder.rounds (p : Polder) : Bool := p.halt.isNone && p.stopReq.isNone && !p.dieHalt

/-- VOTERK_ROUND_COMPLETE (R148): every fascine of the rank that holds a thread has arrived; each takes its result over
the union of the active sets. -/
def execVoterkRoundComplete (h rank : Nat) (s : State) : Host.Outcome State Fault Refusal :=
  match s.polder? h with
  | none => .next s.idle
  | some p =>
    let mem := p.rankLive rank
    let held := mem.map fun i => ((p.fs[i]?).getD {}).holding
    let votes := held.filterMap fun x => match x with
      | .voterk _ act m _ => some (act, m)
      | _ => none
    if mem.isEmpty || votes.length ≠ mem.length || !p.rounds then .next s.idle
    else
      let any := votes.any (fun x => x.2 != 0)
      let all := votes.all (fun x => x.1 == x.2)
      let cnt := votes.foldl (fun n x => n + (threadsOf x.2).length) 0
      let result (k : Nat) : Word :=
        if k = 0 then (if any then 1 else 0) else if k = 1 then (if all then 1 else 0) else BitVec.ofNat 32 cnt
      .next ((s.setPolder (mem.foldl (fun p i =>
        match ((p.fs[i]?).getD {}).theEntry with
        | some (e, g) =>
          match e.hold with
          | .voterk a act _ k =>
            let old : List Word := match a with
              | .v n => (List.range 16).map (((p.fs[i]?).getD {}).r.vword n.val)
              | .s n => [((p.fs[i]?).getD {}).r.s.getD n.val 0]
              | .b n => [bvalue (p.breg.getD n.val []) 0]
              | _ => []
            ((p.modF i fun f => s.supersede h i f a.code act).deliver i g a act (fun _ => result k) (fun _ => false)).modF i fun f =>
              (f.note a.code g act old (if a = .zero then 0 else 2) s.beat).release g
          | _ => p
        | none => p) p)).idle)

/-! ## REGROUP -/

/-- REGROUP (R178): the fascine joins the round of its rank (k = 0) or polder (k = 1). -/
def execRegroup (a : Opnd) (p : Pred) (k : BitVec 1) (s : State) : Host.Outcome State Fault Refusal :=
  issue s (fun _ => { a := .vd a, b := .pu p, unif := true }) fun v w act =>
    if 1 < v.f.used || v.e.park != 0 then .trap { t := .diverge }
    else .hold { w with e := { w.e with hold := .regroup a (only act (v.rdP p)) k.toNat } }

/-- Fascines of a round's scope that still hold a thread: a rank, or the whole polder. -/
def Polder.scopeLive (p : Polder) (rank k : Nat) : List Nat :=
  (List.range p.fs.length).filter fun i => (k == 1 || i / 8 == rank) && !((p.fs[i]?).getD { retired := true }).retired

/-- Whether every result in flight for the registers of a fascine has arrived (R31, R179). -/
def State.settled (s : State) (h i : Nat) (f : Fascine) : Bool :=
  f.ops.all (fun o => o.dst.isNone || o.wmask == 0) &&
    s.rays.all (fun r => !(r.iss.h == h && r.iss.f == i && r.keep)) && s.walks.all (fun r => !(r.iss.h == h && r.iss.f == i && r.keep))

/-- Threads received by resulting fascine j of a round: (new thread, source fascine, source thread), from the list of
selected threads in ascending tid (R180). -/
def received (sel : List (Nat × Nat)) (base j : Nat) : List (Nat × Nat × Nat) :=
  (sel.zipIdx.filter (fun x => base + x.2 / 16 == j)).map fun x => (x.2 % 16, x.1.1, x.1.2)

/-- The registers of a resulting fascine (R180): names bound in some source, words, poison and live bits moved; A
receives the old tid. -/
def regroupNames (p : Polder) (a : Opnd) (got : List (Nat × Nat × Nat)) : List VBind :=
  let src (i : Nat) : Regs := ((p.fs[i]?).getD {}).r
  let names := (got.flatMap fun x => (src x.2.1).vb.map VBind.name).foldl (fun l n => insertNat n l) []
  let at? (t : Nat) : Option (Nat × Nat) := (got.find? (·.1 == t)).map (·.2)
  let moved := names.map fun n =>
    let b (t : Nat) : Option (VBind × Nat) := (at? t).bind fun x => ((src x.1).bind? n).map fun b => (b, x.2)
    ({ name := n,
       live := maskOf fun t => match b t with
         | some (b, u) => b.live.getLsbD u
         | none => false,
       pois := maskOf fun t => match b t with
         | some (b, u) => b.pois.getLsbD u
         | none => false,
       words := (List.range 16).map fun t => match b t with
         | some (b, u) => b.words.getD u 0
         | none => 0 } : VBind)
  let mask := maskOf fun t => (at? t).isSome
  match a with
  | .v n =>
    (({ vb := moved } : Regs).writeV n.val mask mask
      (fun t => match at? t with
        | some (i, u) => BitVec.ofNat 32 (16 * i + u)
        | none => 0) 0).vb
  | _ => moved

/-- The words that a REGROUP moves to the places of register A, which a later instruction may still read (R32, R180). -/
def movedWords (p : Polder) (a : Opnd) (got : List (Nat × Nat × Nat)) : List Word :=
  (List.range 16).map fun t => match a, got.find? (·.1 == t) with
    | .v n, some (_, i, u) => ((p.fs[i]?).getD {}).r.vword n.val u
    | _, _ => 0

/-- Where the threads of a resulting fascine were, and what orders their operations there against those to come (R205): each
thread brings what it had issued in fascine i, and what it had brought to it. -/
def movedPriors (p : Polder) (got : List (Nat × Nat × Nat)) : List Prior :=
  got.flatMap fun (t, i, u) =>
    let f := (p.fs[i]?).getD {}
    let e := (f.theEntry.map (·.1)).getD {}
    { t := t, f := i, u := u, upto := f.nextOp, ep := f.epoch, rel := e.relBefore, sc := e.scBefore, acq := (e.acq.map (·.1)).getD 0 } ::
      (f.prior.filter fun q => q.t == u && ((p.fs[q.f]?).getD {}).ops.any q.holds).map
        fun q => { q with t := t, rel := if 0 < e.relBefore then q.upto else q.rel, sc := if 0 < e.scBefore then q.upto else q.sc,
                          acq := if e.acq.any (fun x => decide (0 < x.1)) then q.upto else q.acq }

/-- The open culvert records of a resulting fascine: those of the threads that it receives, and those of its own that an operation in
flight closes (R180, R356). -/
def movedRecs (p : Polder) (got : List (Nat × Nat × Nat)) (f : Fascine) : List OpenRec :=
  ((f.leaveRecs 0xFFFF).filter (·.op.isSome)) ++ got.flatMap fun (t, i, u) =>
    ((((p.fs[i]?).getD {}).leaveRecs 0).filter fun r => r.op.isNone && r.t == u && !(((p.fs[i]?).getD {}).leaveRecs 0xFFFF).any fun x =>
      x.win == r.win && x.t == r.t && x.op.isSome).map fun r => { r with t := t }

/-- A resulting fascine (R180): it takes the received threads, in one entry at the slot after REGROUP, with the order of
their operations (R205): a pending acquire goes with them. -/
def regroupInto (p : Polder) (a : Opnd) (pc : Word) (beat : Nat) (got : List (Nat × Nat × Nat)) (f : Fascine) : Fascine :=
  let from' := (got.map (·.2.1)).eraseDups.map fun i => (p.fs[i]?).getD {}
  let ents := from'.filterMap fun f => f.theEntry.map (·.1)
  let src (i : Nat) : Regs := ((p.fs[i]?).getD {}).r
  let mask := maskOf fun t => got.any (·.1 == t)
  let g := (f.theEntry.map (·.2)).getD 0
  let e := ((f.r.ents[g]?).getD {}).goto pc false
  let from? (t : Nat) : Option (Nat × Nat) := (got.find? (·.1 == t)).map (·.2)
  { f with
    retired := false, haz := [{ key := a.code, mask := mask, old := movedWords p a got, left := 2, g := g, due := beat + 18 }],
    epoch := f.nextOp, nextOp := f.nextOp + 1, prior := movedPriors p got, orecs := movedRecs p got f,
    bseen := from'.foldl (fun b x => joinB b x.bseen) (List.replicate 16 0), bord := from'.foldl (fun b x => joinB b x.bord) (List.replicate 16 0),
    r := { f.r with
      ents := setAt f.r.ents g
        { e with mask := mask, park := 0, rpc := 0, rjf := false, wj := false, val := true, hold := .none,
                 relBefore := 0, scBefore := 0, issued := beat, elig := false, waited := true,
                 acq := ents.foldl (fun a x => match a, x.acq with
                   | some (_, n), some (_, m) => some (0, max n m)
                   | none, some (_, m) => some (0, m)
                   | a, none => a) none,
                 facq := ents.any (·.facq), bpub := ents.foldl (fun b x => joinB b x.bpub) [],
                 bgot := ents.foldl (fun b x => joinB b x.bgot) [] },
      exmask := ~~~mask,
      hmask := maskOf fun t => match from? t with
        | some (i, u) => (src i).hmask.getLsbD u
        | none => false,
      preds := (List.range 16).map fun t => match from? t with
        | some (i, u) => (src i).preds.getD u 0
        | none => f.r.preds.getD t 0,
      ppois := maskOf fun t => match from? t with
        | some (i, u) => (src i).ppois.getLsbD u
        | none => f.r.ppois.getLsbD t,
      vb := regroupNames p a got } }

/-- Every member of a round traps (R179, R180). -/
def State.trapAll (s : State) (h : Nat) (mem : List Nat) (t : Trap) : State :=
  mem.foldl (fun s i =>
    match s.fasc? h i with
    | none => s
    | some f =>
      match f.theEntry with
      | none => s
      | some (e, g) =>
        (s.modFasc h i fun f => { f with r := { f.r with ents := modAt f.r.ents g fun e => { e with hold := .none } } }).takeTrap
          h i g e.pc e.pc { t := t }) s

/-- REGROUP_ROUND_COMPLETE (R179, R180): fascines that return and those that retire change the barriers together (R226). Members
that name different registers A trap as other mismatches do (log 65). -/
def execRegroupRoundComplete (h rank : Nat) (s : State) : Host.Outcome State Fault Refusal :=
  match s.polder? h with
  | none => .next s.idle
  | some p =>
    let one (k : Nat) : Option (List (Nat × Opnd × Mask × Nat × Word)) :=
      let mem := p.scopeLive rank k
      let held := mem.filterMap fun i =>
        match (p.fs[i]?).bind Fascine.theEntry with
        | some (e, _) => match e.hold with
          | .regroup a m k => some (i, a, m, k, e.pc)
          | _ => none
        | none => none
      if mem.isEmpty || held.length ≠ mem.length then none else some held
    -- the scope is the polder when some member of the rank regroups the polder
    let wide := (p.rankLive rank).any fun i => match ((p.fs[i]?).getD {}).holding with
      | .regroup _ _ k => k == 1
      | _ => false
    match one (if wide then 1 else 0) with
    | none => .next s.idle
    | some held =>
      let mem := held.map (·.1)
      match held with
      | [] => .next s.idle
      | (_, a, _, k, pc) :: _ =>
        if !p.rounds then .next s.idle else
        if held.any (fun x => x.2.2.2.1 != k || x.2.2.2.2 != pc || x.2.1 != a) then .next (s.trapAll h mem .illopnd).idle
        else if !mem.all (fun i => let f := (p.fs[i]?).getD {}; f.chains.isEmpty && s.settled h i f) then .next s.idle
        else
          let sel := held.flatMap fun x => (threadsOf x.2.2.1).map fun t => (x.1, t)
          let base := if k = 0 then 8 * rank else 0
          let into := (List.range p.fs.length).filterMap fun j =>
            let got := received sel base j
            if got.isEmpty then none else some (j, got)
          if into.any (fun x => decide (p.regs < (regroupNames p a x.2).length)) then .next (s.trapAll h mem .regcap).idle
          else
            let back := (into.filter fun x => ((p.fs[x.1]?).getD {}).retired).length
            let gone := mem.filter fun i => !into.any (·.1 == i)
            let p' := into.foldl (fun q x => q.modF x.1 (regroupInto p a (nextSlot pc) s.beat x.2)) p
            .next ((gone.foldl (fun s i => s.leave h i) (s.setPolder p')).barsFollow h gone.length back).idle

end Sys2Proof.Machine
end

