-- ==== Sys2Proof/Machine/MemOps.lean ====
section
/-! DEFINITION. Loads, stores, atomics, fences and the gather collector's instructions, 0x90 to 0xAE
(spec/07_polder_ring.md R186 to R201, spec/08_ordering.md), and the steps that perform what they issued. An access is
performed after its instruction issued, when every earlier access of its threads that R206 or a release orders before
it has been performed. -/
namespace Sys2Proof.Machine

/-! ## Spaces (R186) -/

/-- Accesses by the spaces they may use: loads, the accesses that reach memory only, and stores. -/
inductive Class where
  | load | memory | store
  deriving DecidableEq, Repr

/-- The node window that a culvert window number names: k and n of R356. -/
def nodeWindow (w : Nat) : Option (Nat × Nat) :=
  if 0x100000 ≤ w ∧ w < 0x100000 + 256 * 65 then some ((w - 0x100000) / 256, (w - 0x100000) % 256) else none
/-- The mailbox that a culvert window number names: core and side of R264. -/
def mailboxWindow (w : Nat) : Option (Nat × Nat) :=
  if 0x400000 ≤ w ∧ w < 0x400000 + 512 then some ((w - 0x400000) / 2, (w - 0x400000) % 2) else none

/-- Whether a polder's store may go to a culvert window (R187, R264, R344, R356). -/
def State.windowOk (s : State) (p : Polder) (w : Nat) : Bool :=
  if w < 0x8000 then
    match s.queue? w with
    | some q => q.en && q.st != .unbound && q.ctx == p.ctx
    | none => false
  else
    match nodeWindow w, mailboxWindow w with
    | some (k, n), _ =>
      match p.node, p.grid.bind s.grid? with
      | some e, some g =>
        decide (n < g.pkt.nodes.length) && decide (e ≤ n) &&
          (n != e || decide (p.depth + 1 ≤ field (g.pkt.nodes.getD n []) 110 6)) && (k == 0 || decide (k ≤ p.bars.length))
      | _, _ => false
    | none, some (c, k) => c == p.core && p.io.any (·.k == k)
    | none, none => false

/-- Whether n bytes at a generic address may be accessed (R186). -/
def V.spaceOk (v : V) (c : Class) (a n : Nat) : Bool :=
  isGlobal a || inWindow 0xFE 32 a n v.p.spsize ||
    (match c with
     | .load => inWindow 0xFC 16 a n v.p.cwlen
     | .memory => false
     | .store => spaceOf a == 0xFD && v.s.windowOk v.p (bits a 7 49))

/-- The place of a generic address that passed its space check, with the translation it used; or the page fault
(R205, R399): one whose cause is 0 makes the instruction wait for its walk (R8, R22). `kind` is 0 for a read, 1 for a
write. -/
def V.locate (v : V) (kind t a : Nat) : Except TrapInfo (Loc × Option Tlb) :=
  if spaceOf a = 0xFE then .ok (.spad (a % 2 ^ 32), none)
  else if spaceOf a = 0xFD then .ok (.culvert (bits a 7 49) (bit a 6) (bits a 0 6), none)
  else
    let va := if spaceOf a = 0xFC then v.p.cwin + a % 2 ^ 16 else a
    match v.s.ctx? v.p.ctx with
    | none => .error (pageTrap a ⟨va, 1, 3, kind == 1⟩ false)
    | some c =>
      match v.s.translate c va kind t v.p.die with
      | .error f => .error (pageTrap a f false)
      | .ok (l, e) => .ok (l, some e)

/-- The places of several threads, or the fault of the lowest that fails. -/
def V.locateAll (v : V) (kind : Nat) (addr : Nat → Nat) : List Nat → Except TrapInfo (List (Nat × Loc × Option Tlb))
  | [] => .ok []
  | t :: ts =>
    match v.locate kind t (addr t) with
    | .error e => .error e
    | .ok x =>
      match v.locateAll kind addr ts with
      | .error e => .error e
      | .ok l => .ok ((t, x) :: l)

/-! ## Issue -/

/-- What an access instruction does per thread: its kind, its spaces, its words, the destination and the counter; a
write translation; the order it asks for as a release (STL) or an acquire (LDA) at a scope; the gather collector. -/
structure MemIns where
  kind : OpKind
  cls : Class
  n : Nat := 1
  dst : Option Opnd := none
  cntr : Nat
  write : Bool := false
  release : Bool := false
  acquire : Option Nat := none
  gather : Bool := false

/-- Destinations of an access. -/
def MemIns.dsts (m : MemIns) : List Opnd :=
  match m.dst with
  | some o => (List.range m.n).map o.group
  | none => []

/-- Whether an operation is an atomic. -/
def OpKind.isAtomic : OpKind → Bool
  | .atomic _ _ => true
  | _ => false
/-- Whether an operation in flight still holds a culvert store (R187). -/
def MemOp.hasCulvert (o : MemOp) : Bool := o.acc.any (·.loc.isCulvert)

/-- Issue of accesses by threads `ts` (steps 6 and 7 of R59, R186, R399): alignment of all, spaces of all, translations;
then the operation is in flight. `fin` carries out what the instruction does beside its accesses. -/
def V.access (v w : V) (m : MemIns) (uni : Bool) (mask : Mask) (ts : List Nat) (addr : Nat → Nat) (data : Nat → List Word)
    (fin : V → Except TrapInfo V) : Res :=
  match ts.find? (fun t => addr t % (4 * m.n) != 0) with
  | some t => .trap { t := .misalign, addr := addr t }
  | none =>
    match ts.find? (fun t => !v.spaceOk m.cls (addr t) (4 * m.n)) with
    | some t => .trap { t := .space, addr := addr t }
    | none =>
      match v.locateAll (if m.write then 1 else 0) addr ts with
      | .error e => .trap e
      | .ok ls =>
        let room := w.capOk m.dsts
        match fin w with
        | .error e => .trap e
        | .ok w =>
          if !room then .trap { t := .regcap }
          else if (ls.any (·.2.1.isCulvert)) && (v.f.ops.any (·.hasCulvert) || (v.p.earlier v.l.f mask).any (·.2.hasCulvert)) then .wait
          else
            match v.order w with
            | none => .wait
            | some w =>
              let id := w.f.nextOp
              let acc : List Access := ls.map fun x =>
                { t := x.1, loc := x.2.1, data := data x.1, const := spaceOf (addr x.1) == 0xFC,
                  far := match x.2.2, v.s.ctx? v.p.ctx with
                    | some e, some c => c.keepsFar (pageClass e.leaf)
                    | _, _ => false }
              let closes := ls.any fun x => match x.2.1 with
                | .culvert _ c _ => c
                | _ => false
              let op : MemOp :=
                { id := id, g := v.l.g, mask := mask, kind := m.kind, cntr := m.cntr, dst := m.dst, n := m.n, uni := uni,
                  wmask := mask, acc := acc, gen := ((v.s.ctx? v.p.ctx).map fun c => v.s.gen c.asid).getD 0,
                  after := if m.release || closes then id else if m.write then v.e.relBefore else 0,
                  ep := v.f.epoch, pri := v.f.prior.filter fun q => mask.getLsbD q.t,
                  gather := m.gather, sent := !m.gather,
                  bpub := if (m.release || closes) && 2 ≤ modeScope v.e.mode then w.f.bord
                    else if 2 ≤ modeScope v.e.mode && m.kind.isAtomic then v.e.bpub else [],
                  lda := match m.acquire with
                    | some sc => decide (2 ≤ sc)
                    | none => false }
              if ts.isEmpty then .next w
              else
                let s := ls.foldl (fun s x => match x.2.2 with
                  | some t => s.keepTlb t
                  | none => s) w.s
                let w := m.dsts.foldl (fun w o => w.bindDst mask o) { w with s := s }
                let w := { w with f := { w.f with ops := w.f.ops ++ [op], nextOp := id + 1, cnt := modAt w.f.cnt m.cntr (· + 1) } }
                let w := match m.acquire with
                  | some sc => { w with e := { w.e with acq := some (id + 1, sc), facq := false } }
                  | none => w
                -- the store that closes a packet is a release at polder scope (R264), STL at its own
                .next (if closes || (m.release && 2 ≤ modeScope v.e.mode) then w.releaseB else w)

/-- The threads that make a per-thread access: one for a uniform instruction (R41). -/
def accessors (u : Bool) (act : Mask) : List Nat := if u then [lowest act] else threadsOf act

/-- The address of an a2 field with its L8 offset (R196). -/
def V.addr (v : V) (b : Opnd) (o : BitVec 8) (t : Nat) : Nat := wrap 64 ((v.rd2 b t 1 : Int) + o.toInt * 4)
/-- The scratchpad or constant offset of LDS to LDC, as a generic address in space `sel` (R196). -/
def V.offset (v : V) (sel : Nat) (b : Opnd) (o : BitVec 8) (t : Nat) : Nat :=
  sel * 2 ^ 56 + wrap 32 ((v.rd b t 1).toNat + o.toInt * 4)

/-- The field of a destination of n words. -/
def dstField (n : Nat) (a : Opnd) : FChk := if n = 1 then .d a else .ed n a
/-- The field of a data source of n words. -/
def srcField (n : Nat) (a : Opnd) : FChk := if n = 1 then .s a else .es n a

/-- A load (R197). -/
def loadOp (n : Nat) (k : OpKind) (c : Class) (acquire : V → Option Nat) (a : Opnd) (fb : FChk) (addr : V → Nat → Nat) (s : State) :
    Host.Outcome State Fault Refusal :=
  let d : Desc := { a := dstField n a, b := fb }
  issue s (fun _ => d) fun v w act =>
    v.access w { kind := k, cls := c, n := n, dst := some a, cntr := 0, acquire := acquire v } d.uniform act
      (accessors d.uniform act) (addr v) (fun _ => []) .ok

/-- LD (R197). -/
def execLd (a b : Opnd) (o : BitVec 8) (s : State) : Host.Outcome State Fault Refusal :=
  loadOp 1 (.load true false) .load (fun _ => none) a (.a2 b) (fun v => v.addr b o) s
/-- LD2 (R197). -/
def execLd2 (a b : Opnd) (o : BitVec 8) (s : State) : Host.Outcome State Fault Refusal :=
  loadOp 2 (.load true false) .load (fun _ => none) a (.a2 b) (fun v => v.addr b o) s
/-- LD4 (R197). -/
def execLd4 (a b : Opnd) (o : BitVec 8) (s : State) : Host.Outcome State Fault Refusal :=
  loadOp 4 (.load true false) .load (fun _ => none) a (.a2 b) (fun v => v.addr b o) s
/-- LDB (R197). -/
def execLdb (a b : Opnd) (o : BitVec 8) (s : State) : Host.Outcome State Fault Refusal :=
  loadOp 1 (.load false false) .load (fun _ => none) a (.a2 b) (fun v => v.addr b o) s
/-- LDB4 (R197). -/
def execLdb4 (a b : Opnd) (o : BitVec 8) (s : State) : Host.Outcome State Fault Refusal :=
  loadOp 4 (.load false false) .load (fun _ => none) a (.a2 b) (fun v => v.addr b o) s
/-- LDA (R197, R207): it bypasses the far copy too at package scope or wider. -/
def execLda (a b : Opnd) (o : BitVec 8) (s : State) : Host.Outcome State Fault Refusal :=
  let d : Desc := { a := .d a, b := .a2 b }
  issue s (fun _ => d) fun v w act =>
    let sc := modeScope v.e.mode
    v.access w { kind := .load false (5 ≤ sc), cls := .memory, dst := some a, cntr := 0, acquire := some sc } d.uniform act
      (accessors d.uniform act) (v.addr b o) (fun _ => []) .ok
/-- LDS (R197). -/
def execLds (a b : Opnd) (o : BitVec 8) (s : State) : Host.Outcome State Fault Refusal :=
  loadOp 1 (.load true false) .load (fun _ => none) a (.s b) (fun v => v.offset 0xFE b o) s
/-- LDS4 (R197). -/
def execLds4 (a b : Opnd) (o : BitVec 8) (s : State) : Host.Outcome State Fault Refusal :=
  loadOp 4 (.load true false) .load (fun _ => none) a (.s b) (fun v => v.offset 0xFE b o) s
/-- LDC (R197): an offset above the window of 2^16 bytes lies outside its space. -/
def execLdc (a b : Opnd) (o : BitVec 8) (s : State) : Host.Outcome State Fault Refusal :=
  loadOp 1 (.load true false) .load (fun _ => none) a (.s b) (fun v => v.offset 0xFC b o) s

/-- A store (R197): helper threads are suppressed. -/
def storeOp (n : Nat) (c : Class) (release : Bool) (a : Opnd) (fb : FChk) (addr : V → Nat → Nat) (s : State) :
    Host.Outcome State Fault Refusal :=
  issue s (fun _ => { a := srcField n a, b := fb }) fun v w act =>
    let m := act &&& ~~~v.f.r.hmask
    v.access w { kind := .store, cls := c, n := n, cntr := 1, write := true, release := release } false m (threadsOf m) (addr v)
      (fun t => (List.range n).map fun i => v.rd (a.group i) t) .ok

/-- ST (R197). -/
def execSt (a b : Opnd) (o : BitVec 8) (s : State) : Host.Outcome State Fault Refusal :=
  storeOp 1 .store false a (.a2 b) (fun v => v.addr b o) s
/-- ST2 (R197). -/
def execSt2 (a b : Opnd) (o : BitVec 8) (s : State) : Host.Outcome State Fault Refusal :=
  storeOp 2 .store false a (.a2 b) (fun v => v.addr b o) s
/-- ST4 (R197). -/
def execSt4 (a b : Opnd) (o : BitVec 8) (s : State) : Host.Outcome State Fault Refusal :=
  storeOp 4 .store false a (.a2 b) (fun v => v.addr b o) s
/-- STL (R197, R207): a release store at scope ASCOPE. -/
def execStl (a b : Opnd) (o : BitVec 8) (s : State) : Host.Outcome State Fault Refusal :=
  storeOp 1 .memory true a (.a2 b) (fun v => v.addr b o) s
/-- STS (R197). -/
def execSts (a b : Opnd) (o : BitVec 8) (s : State) : Host.Outcome State Fault Refusal :=
  storeOp 1 .memory false a (.s b) (fun v => v.offset 0xFE b o) s
/-- STS4 (R197). -/
def execSts4 (a b : Opnd) (o : BitVec 8) (s : State) : Host.Outcome State Fault Refusal :=
  storeOp 4 .memory false a (.s b) (fun v => v.offset 0xFE b o) s

/-- The sectors of a global line that an L1 does not hold are read into it (R189, R197). -/
def State.fillLine (s : State) (p : Polder) (keep : Bool) (tgt x home tag : Nat) : State :=
  (List.range 4).foldl (fun s i =>
    let y := x / 128 * 128 + 32 * i
    if s.l1.any fun c => c.owner == p.l1Core y && c.x == y && c.tgt == tgt then s
    else (s.readGlob p true false keep tgt y home 4 (tag + i)).2.2) s

/-- The line of a global address prefetched for polder h, when the address translates (R197); a walk or a line whose home cannot
be reached now waits (R8, R22, R404). -/
def State.prefetch (s : State) (h va tag : Nat) : State :=
  match s.polder? h with
  | none => s
  | some p =>
    match s.ctx? p.ctx with
    | none => s
    | some c =>
      let wait : State := if s.prefs.contains (h, va) then s else { s with prefs := s.prefs ++ [(h, va)] }
      match s.translate c va 0 tag p.die with
      | .ok (.glob tgt x home, e) =>
        if s.reach p.die tgt home then (s.fillLine p (c.keepsFar (pageClass e.leaf)) tgt x home (16 * tag)).keepTlb e else wait
      | .error e => if e.cause = 0 then wait else s
      | .ok _ => s
/-- The prefetches that waited try again. -/
def State.payPrefs (s : State) : State :=
  s.prefs.zipIdx.foldl (fun z x => z.prefetch x.1.1 x.1.2 x.2) { s with prefs := [] }

/-- PREF (R197): it never traps at steps 6 and 7. -/
def execPref (b : Opnd) (o : BitVec 8) (s : State) : Host.Outcome State Fault Refusal :=
  issue s (fun _ => { b := .a2 b, log := false }) fun v w act =>
    .nextThen w fun s => ((threadsOf act).map fun t => (t, v.addr b o t)).foldl (fun s x =>
      if isGlobal x.2 then s.prefetch v.l.h x.2 x.1 else s) s

/-- An atomic (R198). Helper threads perform none; with A = `zero` it counts in F1. -/
def atomOp (code : Nat) (tys : Option (List Nat)) (a b : Opnd) (fc : FChk) (data : V → Nat → List Word) (s : State) :
    Host.Outcome State Fault Refusal :=
  let d : Desc := { a := .d a, b := .a2 b, c := fc, tys := tys }
  issue s (fun _ => d) fun v w act =>
    let m := if d.uniform then act else act &&& ~~~v.f.r.hmask
    let ts := if d.uniform then [lowest act] else threadsOf m
    v.access w { kind := .atomic code (etype v.e.mode), cls := .memory, dst := if a = .zero then none else some a,
                 cntr := if a = .zero then 1 else 0, write := true } d.uniform m ts (fun t => v.rd2 b t 1) (data v) .ok

/-- AADD (R198). -/
def execAadd (a b c : Opnd) (s : State) : Host.Outcome State Fault Refusal := atomOp 0 (some grpI) a b (.s c) (fun v t => [v.rd c t 2]) s
/-- AMIN (R198). -/
def execAmin (a b c : Opnd) (s : State) : Host.Outcome State Fault Refusal := atomOp 1 (some grpI) a b (.s c) (fun v t => [v.rd c t 2]) s
/-- AMAX (R198). -/
def execAmax (a b c : Opnd) (s : State) : Host.Outcome State Fault Refusal := atomOp 2 (some grpI) a b (.s c) (fun v t => [v.rd c t 2]) s
/-- AAND (R198). -/
def execAand (a b c : Opnd) (s : State) : Host.Outcome State Fault Refusal := atomOp 3 none a b (.s c) (fun v t => [v.rd c t 2]) s
/-- AOR (R198). -/
def execAor (a b c : Opnd) (s : State) : Host.Outcome State Fault Refusal := atomOp 4 none a b (.s c) (fun v t => [v.rd c t 2]) s
/-- AXOR (R198). -/
def execAxor (a b c : Opnd) (s : State) : Host.Outcome State Fault Refusal := atomOp 5 none a b (.s c) (fun v t => [v.rd c t 2]) s
/-- AXCH (R198). -/
def execAxch (a b c : Opnd) (s : State) : Host.Outcome State Fault Refusal := atomOp 6 none a b (.s c) (fun v t => [v.rd c t 2]) s
/-- ACAS (R198): C(t) is compared, C+1(t) is the new value. -/
def execAcas (a b c : Opnd) (s : State) : Host.Outcome State Fault Refusal :=
  atomOp 7 none a b (.es 2 c) (fun v t => [v.rd c t 2, v.rd (c.group 1) t 2]) s
/-- AINC (R198). -/
def execAinc (a b c : Opnd) (s : State) : Host.Outcome State Fault Refusal := atomOp 8 none a b (.s c) (fun v t => [v.rd c t 2]) s
/-- AFADD (R198). -/
def execAfadd (a b c : Opnd) (s : State) : Host.Outcome State Fault Refusal := atomOp 9 (some grpFH) a b (.s c) (fun v t => [v.rd c t 2]) s

/-- FENCE (R199, R207, R211, R215): 0 acquire, 1 release, 2 both, 3 sequentially consistent. -/
def execFence (k : BitVec 2) (sc : BitVec 3) (s : State) : Host.Outcome State Fault Refusal :=
  issue s (fun _ => { unif := true, log := false }) fun v w _ =>
    let n := v.f.nextOp
    let w := if k = 0 then w else
      let w := { w with e := { w.e with relBefore := n, bpub := if 2 ≤ sc.toNat then joinB w.e.bpub w.f.bord else w.e.bpub } }
      if 2 ≤ sc.toNat then w.releaseB else w
    let w := if k = 1 then w else
      let sc' := match v.e.acq with
        | some (_, x) => max x sc.toNat
        | none => sc.toNat
      let w := { w with e := { w.e with acq := some (n, sc'), facq := decide (2 ≤ sc.toNat) } }
      if 2 ≤ sc.toNat then { w with f := w.f.acquireB w.e.bgot } else w
    .next (if k = 3 then { w with e := { w.e with scBefore := n } } else w)

/-! ## The gather collector's instructions (R200) -/

/-- Every gather operation of a core whose window is open is sent (R195). -/
def State.sendWindow (s : State) (core : Nat) : State :=
  { s with polders := s.polders.map fun (p : Polder) =>
    if p.core ≠ core then p
    else { p with fs := p.fs.map fun (f : Fascine) => { f with ops := f.ops.map fun (o : MemOp) => { o with sent := true } } } }
/-- Lane requests in the window of a core's gather collector (R195). -/
def State.window (s : State) (core : Nat) : Nat :=
  s.polders.foldl (fun n p => if p.core ≠ core then n else
    p.fs.foldl (fun n f => f.ops.foldl (fun n o => if o.sent then n else n + o.acc.length) n) n) 0

/-- The writes noted since `v` are settled by the completion flag: they last until the next operation of the fascine ends
(R32). -/
def V.untilOp (v w : V) : V :=
  let k := w.f.haz.length - v.f.haz.length
  { w with f := { w.f with haz := (w.f.haz.take k).map (fun (h : Hazard) => { h with op := some w.f.nextOp }) ++ w.f.haz.drop k } }

/-- GATHER, GATHER4, SCATTER and SCATADD (R200): threads out of bound get 0 or store nothing, p5 says which threads were in
bound, and XINV is set when some thread was not. -/
def gatherOp (k : V → OpKind) (n : Nat) (isLoad : Bool) (tys : Option (List Nat)) (a b c : Opnd) (s : State) : Host.Outcome State Fault Refusal :=
  let d : Desc := { a := if isLoad then dstField n a else .s a, b := .s b, c := .g c, tys := tys }
  issue s (fun _ => d) fun v w act =>
    let t0 := lowest act
    let base := (v.rd c t0 2).toNat * 4096
    let bound := (v.rd (c.plus 1) t0 2).toNat
    let idx (t : Nat) : Nat := (v.rd b (if d.uniform then t0 else t) 1).toNat
    let oob := only act fun t => decide (bound ≤ idx t)
    let goes := if isLoad then act &&& ~~~oob else act &&& ~~~oob &&& ~~~v.f.r.hmask
    let writesP := if isLoad then act else act &&& ~~~v.f.r.hmask
    let dsts := if isLoad then (List.range n).map a.group else []
    let ts := if d.uniform then (threadsOf goes).take 1 else threadsOf goes
    let L := if ts.isEmpty then 0 else 2
    let fin (w : V) : Except TrapInfo V :=
      match w.signal (if oob != 0 then xInv else 0) with
      | .error e => .error e
      | .ok w =>
        let w' := w.wrP 5 writesP (fun t => !oob.getLsbD t) L
        .ok (w.untilOp (if oob = 0 then w' else dsts.foldl (fun w o => w.wr o oob (fun _ => 0) L) w'))
    match v.access w { kind := k v, cls := if isLoad then .load else .memory, n := n, dst := if isLoad then some a else none,
                       cntr := if isLoad then 0 else 1, write := !isLoad, gather := true } d.uniform goes ts
        (fun t => base + 4 * n * idx t) (fun t => if isLoad then [] else [v.rd a t]) fin with
    | .next w => .nextThen w fun s => if 256 ≤ s.window v.p.core then s.sendWindow v.p.core else s
    | r => r

/-- GATHER (R200). -/
def execGather (a b c : Opnd) (s : State) : Host.Outcome State Fault Refusal := gatherOp (fun _ => .load true false) 1 true none a b c s
/-- GATHER4 (R200). -/
def execGather4 (a b c : Opnd) (s : State) : Host.Outcome State Fault Refusal := gatherOp (fun _ => .load true false) 4 true none a b c s
/-- SCATTER (R200). -/
def execScatter (a b c : Opnd) (s : State) : Host.Outcome State Fault Refusal := gatherOp (fun _ => .store) 1 false none a b c s
/-- SCATADD (R200): it adds as AADD for i32 and n32 and as AFADD for f32. -/
def execScatadd (a b c : Opnd) (s : State) : Host.Outcome State Fault Refusal :=
  gatherOp (fun v => .atomic (if etype v.e.mode = 6 then 9 else 0) (etype v.e.mode)) 1 false (some (grpI ++ grpF)) a b c s

/-! ## Performing (R189, R192, R197, R198, R206, R211) -/

/-- Whether accesses of n and m bytes at two places share a byte, or go to one culvert window. -/
def Loc.meets (n m : Nat) (a b : Loc) : Bool :=
  match a, b with
  | .glob t x _, .glob u y _ => t == u && decide (x < y + m) && decide (y < x + n)
  | .spad x, .spad y => decide (x < y + m) && decide (y < x + n)
  | .culvert w _ _, .culvert u _ _ => w == u
  | _, _ => false

/-- The threads in whose program order an access of an operation stands (R205). -/
def MemOp.threads (o : MemOp) (x : Access) : Mask := if o.uni then o.mask else maskOf (· == x.t)

/-- Whether an access must wait for an earlier operation: the same threads and a common byte (R206), or, with `rel`, a
release between them (R207). -/
def MemOp.waitsFor (o : MemOp) (x : Access) (rel : Bool) (e : MemOp) : Bool :=
  (rel && (e.mask &&& o.mask) != 0 && e.accesses) ||
    e.acc.any fun y => (e.threads y &&& o.threads x) != 0 && Loc.meets (4 * o.n) (4 * e.n) x.loc y.loc

/-- The earlier operations in the program order of an operation's threads, each with whether a release stands between them:
those that its fascine issued before it in the same epoch, and those that its threads had issued where each REGROUP before it
found them (R205). -/
def Polder.before (p : Polder) (f : Fascine) (o : MemOp) : List (Bool × MemOp) :=
  (((f.ops.takeWhile (·.id != o.id)).filter (·.ep == o.ep)).map fun e => (decide (e.id < o.after), e)) ++
    (p.priorOps o.pri).map fun x => (decide (0 < o.after) || (!o.reads || o.kind.isAtomic) && decide (x.2.id < x.1.rel), x.2)

/-- Whether the way to the sequencer that serves a doorbell window is shut (R8, R22, R350); a node window and a mailbox are on
the polder's own core. -/
def State.windowShut (s : State) (p : Polder) (w : Nat) : Bool :=
  decide (w < 0x8000) && match s.ctx? p.ctx with
    | some c => s.cutOff p.die (c.seqDie w)
    | none => false

/-- The accesses of an operation that may be performed now, with their places in its list: the first of those that share
a byte, whose earlier operations have been performed, and whose home die, or the die that serves its doorbell window, can be
reached (R8, R22, R350) or a host port is up (R404). -/
def State.ready' (s : State) (p : Polder) (f : Fascine) (o : MemOp) (culvert : Bool) : List (Access × Nat) :=
  if !o.sent then []
  else
    let before := p.before f o
    o.acc.zipIdx.filter fun (x, i) =>
      x.loc.isCulvert == culvert && !(before.any fun e => o.waitsFor x e.1 e.2) &&
        !((o.acc.take i).any fun y => Loc.meets (4 * o.n) (4 * o.n) x.loc y.loc) &&
        (match x.loc with
         | .glob tgt _ home => s.reach p.die tgt home
         | .culvert w _ _ => !s.windowShut p w
         | _ => true)

/-- Bytes that a logged step overwrote, kept in its entry of the undo log (R389). -/
def Fascine.logBytes (f : Fascine) (op : Nat) (sm : List (Nat × Byte)) (dm : List (Nat × Nat × Byte)) : Fascine :=
  { f with log := f.log.map fun (u : UndoStep) =>
      if u.op = some op then { u with smem := sm ++ u.smem, dmem := dm ++ u.dmem } else u }

/-- The bytes that a store of n bytes at a place is about to overwrite. -/
def State.oldBytes (s : State) (p : Polder) (l : Loc) (n : Nat) : List (Nat × Byte) × List (Nat × Nat × Byte) :=
  match l with
  | .spad o => ((List.range n).map fun i => (o + i, p.spad.read (o + i)), [])
  | .glob tgt x _ => ([], (List.range n).map fun i => (tgt, x + i, (s.memOf tgt).read (x + i)))
  | _ => ([], [])

/-- The result of an atomic (R198): the new word. -/
def atomicNew (code T : Nat) (old c c1 : Word) : Word :=
  match code with
  | 0 => old + c
  | 1 => if T = 0 then (if c.slt old then c else old) else if c.ult old then c else old
  | 2 => if T = 0 then (if old.slt c then c else old) else if old.ult c then c else old
  | 3 => old &&& c
  | 4 => old ||| c
  | 5 => old ^^^ c
  | 6 => c
  | 7 => if old = c then c1 else old
  | 8 => if c.ule old then 0 else old + 1
  | _ =>
    let F := fmtT T
    packT T fun j => F.encode ((roundFv F F.p {} ((elemF T false old j).v.add 0 (elemF T false c j).v).1).1)

/-- Words delivered for an access to the destinations of its operation (R130, R197). -/
def Polder.deliverOp (p : Polder) (i : Nat) (o : MemOp) (t : Nat) (ws : List Word) (pois : Bool) : Polder :=
  match o.dst with
  | none => p
  | some d =>
    let m := o.wmask &&& (if o.uni then 0xFFFF else maskOf (· == t))
    if m = 0 then p
    else ws.zipIdx.foldl (fun p x =>
      let m := m &&& ~~~(((p.fs[i]?).getD {}).taken (2 * o.id) (d.group x.2).code)
      if m = 0 then p
      else p.deliver i o.g (d.group x.2) m (fun _ => x.1) (fun _ => pois)) p

/-- The place k words on. -/
def Loc.plus : Loc → Nat → Loc
  | .glob t x h, k => .glob t (x + 4 * k) h
  | .spad o, k => .spad (o + 4 * k)
  | l, _ => l
/-- The b-register writes that the release orders whose value, `w`, stands at a word (R134, R208). -/
def Polder.tagAt (p : Polder) (l : Loc) (w : Word) : List Nat :=
  ((p.btags.find? fun x => x.1 == l && x.2.1 == w).map (·.2.2)).getD []
/-- A word is written: what a release has published there before is gone, and `pub` takes its place (R134, R208). -/
def Polder.tag (p : Polder) (l : Loc) (w : Word) (pub : List Nat) : Polder :=
  let rest := p.btags.filter (·.1 != l)
  { p with btags := if pub.all (· == 0) then rest else (l, w, pub) :: rest }

/-- An operation of fascine i has read the words `ws` at a place: what their releases order comes to an acquire load or
the acquire FENCE that has issued, and else waits for one (R134, R207). -/
def Polder.readTags (p : Polder) (i : Nat) (o : MemOp) (l : Loc) (ws : List Word) : Polder :=
  let got := ws.zipIdx.foldl (fun a x => joinB a (p.tagAt (l.plus x.2) x.1)) []
  if got.all (· == 0) then p
  else p.modF i fun f =>
    let e := (f.r.ents[o.g]?).getD {}
    let f := { f with r := { f.r with ents := modAt f.r.ents o.g fun e => { e with bgot := joinB e.bgot got } } }
    if o.lda || e.facq then f.acquireB got else f
/-- The same for what it has written; an atomic keeps what the run of atomics before it has published. -/
def Polder.writeTags (p : Polder) (o : MemOp) (l : Loc) (old new : List Word) : Polder :=
  if p.btags.isEmpty && o.bpub.isEmpty then p
  else new.zipIdx.foldl (fun p x => p.tag (l.plus x.2) x.1
    (joinB o.bpub (if o.kind.isAtomic then p.tagAt (l.plus x.2) (old.getD x.2 0) else []))) p

/-- An access of an operation performed: memory and registers afterwards. `lost`: the request to host or peer memory
timed out (R404). A data race, which R213 leaves undefined, is given the accesses in the order in which they are performed
(log 57). -/
def State.performAt (s : State) (h i : Nat) (o : MemOp) (x : Access) (lost : Bool) (tag : Nat) : State :=
  match s.polder? h with
  | none => s
  | some p =>
    let n := 4 * o.n
    let deliver (s : State) (ws : List Word) (q : Bool) : State :=
      s.modPolder h fun p => (p.readTags i o x.loc ws).deliverOp i o x.t ws q
    let tags (s : State) (old new : List Word) : State := s.modPolder h fun p => p.writeTags o x.loc old new
    let log (s : State) : State :=
      if !p.logs then s else
        let (sm, dm) := s.oldBytes p x.loc n
        s.modFasc h i (·.logBytes o.id sm dm)
    if lost then deliver s (List.replicate o.n 0xFFFFFFFF) false
    else
      match o.kind, x.loc with
      | .load l1 far, .glob tgt a home =>
        let (b, q, s) := s.readGlob p (l1 && !x.const) far x.far tgt a home n tag
        deliver s (bytesWords o.n b) q
      | .load _ _, .spad a =>
        let (b, q) := p.spRead a n
        deliver s (bytesWords o.n b) q
      | .store, .glob tgt a _ => tags ((log s).writeGlob p tgt a (wordsBytes x.data)) [] x.data
      | .store, .spad a => tags ((log s).modPolder h fun p => p.spWrite a (wordsBytes x.data) false) [] x.data
      | .atomic code T, .glob tgt a _ =>
        let old := BitVec.ofNat 32 (leNat ((s.memOf tgt).readN a 4))
        let new := atomicNew code T old (x.data.getD 0 0) (x.data.getD 1 0)
        let gone (s : State) : State := { s with l1 := dropSector s.l1 (p.l1Core a) tgt a, far := if tgt = 0 then dropSector s.far p.die 0 a else s.far }
        if tgt = 0 && s.poisoned a then deliver (gone s) [old] true
        else tags (deliver (gone ((log s).writeHome tgt a (wordBytes new) none false)) [old] false) [old] [new]
      | .atomic code T, .spad a =>
        let (b, q) := p.spRead a 4
        let old := BitVec.ofNat 32 (leNat b)
        if q then deliver s [old] true
        else
          let new := atomicNew code T old (x.data.getD 0 0) (x.data.getD 1 0)
          tags (deliver ((log s).modPolder h fun p => p.spWrite a (wordBytes new) false) [old] false) [old] [new]
      | _, _ => s

/-- An access taken from its operation; with the last one the operation ends and its counter drops (R197). -/
def Fascine.took (f : Fascine) (id k : Nat) : Fascine :=
  match f.ops.find? (·.id == id) with
  | none => f
  | some o =>
    let acc := o.acc.eraseIdx k
    if acc.isEmpty then { f with ops := f.ops.filter (·.id != id), cnt := modAt f.cnt o.cntr (· - 1) }
    else { f with ops := f.ops.map fun (y : MemOp) => if y.id = id then { y with acc := acc } else y }

/-- Some of the accesses that an operation may perform now are performed, one after another: at least one, and how many
more is free. -/
def State.performSome (h i id : Nat) : Nat → State → State
  | 0, s => s
  | n + 1, s =>
    match s.polder? h, s.fasc? h i with
    | some p, some f =>
      match f.ops.find? (·.id == id) with
      | none => s
      | some o =>
        let l := s.ready' p f o false
        match l[s.choose (n + 2 ^ 33) l.length]? with
        | none => s
        | some (x, k) => State.performSome h i id n ((s.performAt h i o x false (64 * n)).modFasc h i (·.took id k))
    | _, _ => s

/-- An operation of a fascine with a given name. -/
def State.op? (s : State) (h i id : Nat) : Option MemOp := (s.fasc? h i).bind fun f => f.ops.find? (·.id == id)
/-- Operations performed in steps: from 1 to all of its accesses. -/
def State.performOp (s : State) (h i id : Nat) (o : MemOp) : State :=
  s.performSome h i id (1 + s.choose (2 ^ 32) o.acc.length)

/-- STORE_ACCEPT (R197): accesses of a store are performed; F1 drops with the last. -/
def execStoreAccept (h f op : Nat) (s : State) : Host.Outcome State Fault Refusal :=
  match s.op? h f op with
  | none => .next s.idle
  | some o =>
    match o.kind with
    | .store => .next (s.performOp h f op o).idle
    | _ => .next s.idle

/-- ATOMIC_PERFORM (R211): accesses of an atomic are performed, each in one indivisible step. -/
def execAtomicPerform (h f op : Nat) (s : State) : Host.Outcome State Fault Refusal :=
  match s.op? h f op with
  | none => .next s.idle
  | some o =>
    match o.kind with
    | .atomic _ _ => .next (s.performOp h f op o).idle
    | _ => .next s.idle

/-- HOST_REQUEST_TIMEOUT (R404): a request of a load or atomic to host or peer memory returns all-ones and writes
nothing. Where h names no polder, the requests that engines and fetches make in the next step do. -/
def execHostRequestTimeout (h f op : Nat) (s : State) : Host.Outcome State Fault Refusal :=
  match s.polder? h, s.fasc? h f, s.op? h f op with
  | some p, some x, some o =>
    let l := (s.ready' p x o false).filter fun y => match y.1.loc with
      | .glob tgt _ _ => tgt != 0
      | _ => false
    match l.head? with
    | some (y, k) => .next (if o.reads then (s.performAt h f o y true 0).modFasc h f (·.took op k) else s).idle
    | none => .next s.idle
  | none, _, _ => .next { s.idle with timed := some (s.free + 1) }
  | _, _, _ => .next s.idle

/-- GATHER_WINDOW_TIMEOUT (R195): the collector of a core sends its window. -/
def execGatherWindowTimeout (core : Nat) (s : State) : Host.Outcome State Fault Refusal :=
  .next (s.sendWindow core).idle

end Sys2Proof.Machine
end

