-- ==== Sys2Proof/Machine/Sluice.lean ====
section
/-! DEFINITION. Sluice chains and scratchpad copies, 0xB8 to 0xBA and 0xBC, with the steps of their engines
(spec/10_sluice.md R237 to R254). -/
namespace Sys2Proof.Machine

/-! ## Issue -/

/-- Description of an engine instruction: kind U, a wall of the undo log (R389). -/
def engineDesc (a b c : FChk) : Desc := { a := a, b := b, c := c, unif := true, wall := true }

/-- Whether a generic address lies in the global space or in scratchpad space, as its top byte says (R250). -/
def globalOrSpad (a : Nat) : Bool := spaceOf a == 0 || spaceOf a == 0xFE

/-- A bit of an 8-bit mask. -/
def bit8 (k : Nat) : BitVec 8 := BitVec.ofNat 8 (2 ^ k)

/-- Token k's status word (R251, R252). -/
def Fascine.tokenStatus (f : Fascine) (k : Nat) : Word :=
  (if f.tokSl.getLsbD k then f.ts.getD k 0 &&& ~~~1 else 0) ||| (if f.tok.getLsbD k then 1 else 0)

/-- An instruction acts on tokens `m`: results of earlier SLSTATs of its threads that are still to come are those of this
moment at the latest. -/
def Fascine.sampled (f : Fascine) (who : Mask) (m : BitVec 8) : Fascine :=
  { f with ops := f.ops.map fun o => match o.kind with
      | .status k => if o.seen.isNone && (o.mask &&& who) != 0 && m.getLsbD k then { o with seen := some (f.tokenStatus k) } else o
      | _ => o }

/-- Tokens set for an engine operation: those of `m`, with TS(k) := BUSY for the chain token (R250, R251). -/
def V.setTokens (w : V) (m : BitVec 8) (k : Nat) (sluice : Bool) : V :=
  let f := w.f.sampled w.e.running m
  let f := { f with tok := w.f.tok ||| m, tokSl := if sluice then w.f.tokSl ||| m else w.f.tokSl &&& ~~~m }
  { w with f := if sluice then { f with ts := setAt f.ts k 1 } else f }

/-- Chains queued or running on engine e of die d (R237). -/
def State.onEngine (s : State) (d e : Nat) : List SChain := s.schains.filter fun k => k.die == d && k.eng == e

/-- SLUICE (R250). -/
def execSluice (a b : Opnd) (k : BitVec 3) (s : State) : Host.Outcome State Fault Refusal :=
  issue s (fun _ => engineDesc (.a2u a) (.u b) .any) fun v w act =>
    let h := v.rd2 a (lowest act)
    let ctl := (v.rd b (lowest act) 1).toNat
    let m : BitVec 8 := BitVec.ofNat 8 (bits ctl 8 8) ||| bit8 k.toNat
    if bits ctl 16 16 != 0 || bits ctl 2 6 != 0 then .trap { t := .illopnd }
    else if h % 64 != 0 then .trap { t := .misalign, addr := h }
    else if !globalOrSpad h then .trap { t := .space, addr := h }
    else if v.f.tok &&& m != 0 then .wait
    else if h = 0 then .next { w with f := { w.f.sampled w.e.running m with tokSl := w.f.tokSl ||| m, ts := setAt w.f.ts k.toNat 0 } }
    else if 256 ≤ (v.s.onEngine v.p.die (ctl % 4)).length then .wait
    else
      match v.engineOrder w with
      | none => .wait
      | some w =>
        let x : SChain := { id := w.s.nextId, ctx := v.p.ctx, die := v.p.die, eng := ctl % 4, iss := { h := v.l.h, f := v.l.f },
                            tok := k.toNat, mask := m &&& ~~~(bit8 k.toNat), next := h }
        .next { w.setTokens m k.toNat true with s := { w.s with schains := w.s.schains ++ [x], nextId := w.s.nextId + 1 } }

/-- SLSTAT (R252): the status word arrives under F0. -/
def execSlstat (a : Opnd) (k : BitVec 3) (s : State) : Host.Outcome State Fault Refusal :=
  issue s (fun _ => engineDesc (.d a) .any .any) fun v w act =>
    if !w.capOk [a] then .trap { t := .regcap }
    else
      let op : MemOp := { id := w.f.nextOp, g := v.l.g, mask := act, kind := .status k.toNat, cntr := 0, dst := some a, uni := true,
                          wmask := act, ep := v.f.epoch, pri := v.f.prior.filter fun q => act.getLsbD q.t }
      let w := w.bindDst act a
      .next { w with f := { w.f with ops := w.f.ops ++ [op], nextOp := w.f.nextOp + 1, cnt := modAt w.f.cnt 0 (· + 1) } }

/-- An operation of a fascine that ends: its counter drops. -/
def Fascine.endOp (f : Fascine) (o : MemOp) : Fascine :=
  { f with ops := f.ops.filter (·.id != o.id), cnt := modAt f.cnt o.cntr (· - 1) }

/-- The result of an SLSTAT arrives (R252). -/
def State.statusReturn (s : State) (h i : Nat) (o : MemOp) (k : Nat) : State :=
  s.modPolder h fun p =>
    let x := o.seen.getD (((p.fs[i]?).getD {}).tokenStatus k)
    (p.deliverOp i o 0 [x] false).modF i (·.endOp o)

/-- LOAD_DATA_RETURN (R197, R252): accesses of a load are performed and delivered, and F0 drops with the last; or the
result of an SLSTAT arrives. -/
def execLoadDataReturn (h f op : Nat) (s : State) : Host.Outcome State Fault Refusal :=
  match s.op? h f op with
  | none => .next s.idle
  | some o =>
    match o.kind with
    | .load _ _ => .next (s.performOp h f op o).idle
    | .status k => .next (s.statusReturn h f o k).idle
    | _ => .next s.idle

/-- SLKILL (R253): the engine is asked to stop the sluice chain that token k is bound to, as its chain token or in its mask
(R238). -/
def execSlkill (k : BitVec 3) (s : State) : Host.Outcome State Fault Refusal :=
  issue s (fun _ => engineDesc .any .any .any) fun v w _ =>
    let kill (x : SChain) : SChain :=
      if x.iss.h = v.l.h ∧ x.iss.f = v.l.f ∧ x.iss.io = none ∧ (x.tok = k.toNat ∨ x.mask.getLsbD k.toNat) then { x with kill := true } else x
    .next { w with f := w.f.sampled w.e.running (bit8 k.toNat), s := { w.s with schains := w.s.schains.map kill } }

/-! ## CPYS (R254) -/

/-- CPYS. -/
def execCpys (a b c : Opnd) (s : State) : Host.Outcome State Fault Refusal :=
  issue s (fun _ => engineDesc (.u a) (.u b) (.u c)) fun v w act =>
    let t := lowest act
    let d := (v.rd a t).toNat
    let x := (v.rd b t 1).toNat
    let n := (v.rd c t 2).toNat
    match [d, x, n].find? (fun y => y % 16 != 0) with
    | some y => .trap { t := .misalign, addr := y }
    | none =>
      if v.p.spsize < d + n then .trap { t := .space, addr := d }
      else if v.p.spsize < x + n then .trap { t := .space, addr := x }
      else if n = 0 then .next w
      else
        match v.engineOrder w with
        | none => .wait
        | some w =>
          let op : MemOp := { id := w.f.nextOp, g := v.l.g, mask := act, kind := .copy d x n w.s.nextId, cntr := 2, uni := true,
                              ep := v.f.epoch, pri := v.f.prior.filter fun q => act.getLsbD q.t }
          let f := { w.f with ops := w.f.ops ++ [op], nextOp := w.f.nextOp + 1, cnt := modAt w.f.cnt 2 (· + 1) }
          .next { w with f := f, s := { w.s with nextId := w.s.nextId + 1 } }

/-- The pieces of a range of n bytes from address a that lie in one sector each. -/
def pieces : Nat → Nat → Nat → List (Nat × Nat)
  | 0, _, _ => []
  | fuel + 1, a, n => if n = 0 then [] else (a, piece a n) :: pieces fuel (a + piece a n) (n - piece a n)

/-- The writes of a copy, with the source read whole before any is made; t is 1 for a piece whose source is poisoned
(R130, R254). -/
def Polder.copyPlan (p : Polder) (d x n : Nat) : List Access :=
  (pieces (n / 16 + 2) d n).map fun (a, k) =>
    let (b, q) := p.spRead (x + (a - d)) k
    { t := if q then 1 else 0, loc := .spad a, data := bytesWords (k / 4) b }

/-- Some of the pieces of a copy are written, in a free order: n of them at most. -/
def State.copySome (s : State) (h i id : Nat) : Nat → State
  | 0 => s
  | n + 1 =>
    let s := State.copySome s h i id n
    match s.op? h i id with
    | none => s
    | some o =>
      let k := s.choose (n + 2 ^ 33) o.acc.length
      match o.acc[k]? with
      | some { t, loc := .spad a, data := ws, .. } =>
        s.modPolder h fun p => (p.spWrite a (wordsBytes ws) (t == 1)).modF i fun f =>
          { f with ops := f.ops.map fun (y : MemOp) => if y.id = id then { y with acc := y.acc.eraseIdx k } else y }
      | _ => s

/-- CPYS_COMPLETE (R254): pieces of the copy are written, and F2 drops with the last. -/
def execCpysComplete (h f op : Nat) (s : State) : Host.Outcome State Fault Refusal :=
  match s.polder? h, s.op? h f op with
  | some p, some o =>
    match o.kind with
    | .copy d x n gid =>
      if o.acc.isEmpty && (s.spadBusy h gid d n true || s.spadBusy h gid x n false) then .next s.idle
      else
        let acc := if o.acc.isEmpty then p.copyPlan d x n else o.acc
        let s := s.modFasc h f fun y => { y with ops := y.ops.map fun (z : MemOp) => if z.id = op then { z with acc := acc } else z }
        let s := s.copySome h f op (1 + s.choose (2 ^ 32) acc.length)
        match s.op? h f op with
        | some z => .next (if z.acc.isEmpty then s.modFasc h f (·.endOp o) else s).idle
        | none => .next s.idle
    | _ => .next s.idle
  | _, _ => .next s.idle

/-! ## Records (R239 to R243) -/

/-- Whether n bytes at a generic address lie in the global space, or in a scratchpad of `size` bytes. -/
def inSpace (size a n : Nat) : Bool := (isGlobal a && a + n ≤ 2 ^ 52) || inWindow 0xFE 32 a n size

/-- The layout of a record breaks a field: code TYPE (R240, R243). -/
def recordTypeBad (r : List Byte) : Bool :=
  let rsv (lo w : Nat) : Bool := field r lo w != 0
  rsv 79 17 || (match field r 65 3 with
    | 0 => rsv 288 224
    | 1 => rsv 384 128
    | 2 => 4 < field r 480 3 || rsv 483 29
    | 3 => rsv 360 152
    | _ => true)

/-- A length, stride or address of a record is not aligned: code ALIGN. -/
def recordAlignBad (r : List Byte) : Bool :=
  let un (lo w k : Nat) : Bool := field r lo w % k != 0
  un 0 64 64 || un 128 64 16 || un 192 64 16 || (match field r 65 3 with
    | 0 => un 256 32 16
    | 1 => un 256 32 16 || un 320 32 16 || un 352 32 16
    | 2 => un 256 32 (16 * 2 ^ field r 480 3) || un 320 32 16 || un 352 32 16 || un 384 64 4
    | _ => un 256 32 16 || un 288 32 16 || un 320 32 16)

/-- The receivers of a multicast record that RMASK names. -/
def receivers (r : List Byte) : List Nat := (List.range 8).filter fun q => flag r (352 + q)

/-- A range of the record lies outside its space: code SPACE (R241). S is the scratchpad of the issuer and receivers. -/
def recordSpaceBad (r : List Byte) (S : Nat) : Bool :=
  let f (lo w : Nat) : Nat := field r lo w
  let src := f 128 64
  let dst := f 192 64
  let n := f 256 32
  let rows := f 288 32
  let span (stride : Nat) : Nat := if rows = 0 || n = 0 then 0 else (rows - 1) * stride + n
  match f 65 3 with
  | 0 => !inSpace S src n || !inSpace S dst n
  | 1 => !inSpace S src (span (f 320 32)) || !inSpace S dst (span (f 352 32))
  | 2 =>
    let tab := if f 448 32 = 0 || n = 0 then 0 else (f 448 32 - 1) * f 320 32 + n
    !inSpace S src tab || !inSpace S dst (span (f 352 32)) || !inSpace S (f 384 64) (4 * rows)
  | _ =>
    let own (stride : Nat) : Nat := if rows = 0 then 0 else (receivers r).foldl max 0 * stride + rows
    let len (stride : Nat) : Nat := if (receivers r).isEmpty then 0 else n + own stride
    spaceOf dst != 0xFE || !inSpace S src (len rows) || !inSpace S dst (len (f 320 32))

/-- The code of the first check that a record fails, 0 for none (R243). -/
def recordCode (p : Polder) (r : List Byte) : Nat :=
  let multi := field r 65 3 == 3
  if recordTypeBad r then 1
  else if recordAlignBad r then 2
  else if multi && (p.rcores == 0 || 2 ^ p.ppr ≤ field r 352 8) then 9
  else if recordSpaceBad r p.spsize then 3
  else if flag r 78 && (spaceOf (field r 192 64) != 0xFE || p.bars.length ≤ field r 72 6) then 5
  else 0

/-- A range copied as pieces of one destination sector each. -/
def copyMoves (dh : Option Nat) (d src n : Nat) : List Move :=
  (pieces (n / 16 + 2) d n).map fun (a, k) => .copy dh a (src + (a - d)) k

/-- Where a generic destination lies: a polder's scratchpad offset or a global address. -/
def destOf (h a : Nat) : Option Nat × Nat := if spaceOf a = 0xFE then (some h, a % 2 ^ 32) else (none, a)

/-- What a record has to do (R242). -/
def State.recordPlan (s : State) (p : Polder) (r : List Byte) : List Move :=
  let src := field r 128 64
  let (dh, dst) := destOf p.h (field r 192 64)
  let n := field r 256 32
  let rows := field r 288 32
  match field r 65 3 with
  | 0 => copyMoves dh dst src n
  | 1 => (List.range rows).flatMap fun i => copyMoves dh (dst + i * field r 352 32) (src + i * field r 320 32) n
  | 2 => (List.range rows).map .row
  | _ => (receivers r).flatMap fun q =>
      match s.member? p q with
      | some x =>
        copyMoves (some x.h) dst src n ++
          copyMoves (some x.h) (dst + n + q * field r 320 32) (src + n + q * rows) rows
      | none => []

/-- The copies of row i of a row gather once its index is known, by sectors of the destination (R217, R242). -/
def rowMoves (p : Polder) (r : List Byte) (i x : Nat) : List Move :=
  let (dh, dst) := destOf p.h (field r 192 64)
  let base := dst + i * field r 352 32
  (pieces (field r 256 32 / 16 + 2) base (field r 256 32)).map fun (a, n) =>
    .parts dh a ((List.range (n / 16)).map fun e =>
      if field r 448 32 ≤ x then none
      else some (field r 128 64 + x * field r 320 32 + 16 * (((a - base) / 16 + e) ^^^ (i % 2 ^ field r 480 3))))

/-- The destination of a move: polder, first byte, bytes. -/
def Move.dest (p : Polder) (r : List Byte) : Move → Option Nat × Nat × Nat
  | .copy dh d _ n => (dh, d, n)
  | .parts dh d srcs => (dh, d, 16 * srcs.length)
  | .row i =>
    let (dh, dst) := destOf p.h (field r 192 64)
    (dh, dst + i * field r 352 32, field r 256 32)

/-- What a move reads: each with the polder whose scratchpad it is (none: the global space), first byte and bytes. -/
def Move.srcs (p : Polder) (r : List Byte) (m : Move) : List (Option Nat × Nat × Nat) :=
  let at' (a n : Nat) : Option Nat × Nat × Nat := ((destOf p.h a).1, (destOf p.h a).2, n)
  match m with
  | .copy _ _ a n => [at' a n]
  | .parts _ _ l => (l.filterMap id).map (at' · 16)
  | .row i => [at' (field r 384 64 + 4 * i) 4]

/-- The bytes that the engine writes into a record itself when it ends: CODE, OOB and OWN (R239, R244). -/
def SRec.marks (p : Polder) (x : SRec) : List (Option Nat × Nat × Nat) :=
  let (dh, a) := destOf p.h x.addr
  [(dh, a + 8, 1), (dh, a + 12, 4)]

/-- The parts of a range of n bytes from address a that lie in one page of 64 KiB each. -/
def pageParts : Nat → Nat → Nat → List (Nat × Nat)
  | 0, _, _ => []
  | fuel + 1, a, n =>
    let k := min n (2 ^ 16 - a % 2 ^ 16)
    if n = 0 then [] else (a, k) :: pageParts fuel (a + k) (n - k)
/-- Where the 64 KiB page of a virtual address stands now: 0 to 2 the target with its address, 3 for one that is not mapped. -/
def State.pageAt (s : State) (c : Ctx) (page : Nat) : Nat × Nat :=
  match walk s c atHome page with
  | .ok (leaf, lvl) =>
    match leafLoc c leaf (page / 2 ^ levelShift lvl * 2 ^ levelShift lvl) page with
    | .glob tgt x _ => (tgt, x)
    | _ => (3, page)
  | .error _ => (3, page)
/-- The pages of some global ranges, each with where it stands. -/
def State.pageMap (s : State) (c : Ctx) (l : List (Option Nat × Nat × Nat)) : List (Nat × Nat × Nat) :=
  ((l.flatMap fun r => if r.1.isSome then [] else (pageParts (r.2.2 / 2 ^ 16 + 2) r.2.1 r.2.2).map (·.1 / 2 ^ 16)).eraseDups).map
    fun k => (k, s.pageAt c (k * 2 ^ 16))
/-- A range as places (R205): of a polder's scratchpad, or where its pages stand. -/
def placed (tr : List (Nat × Nat × Nat)) (r : Option Nat × Nat × Nat) : List (Nat × Nat × Nat) :=
  match r.1 with
  | some h => [(16 + h, r.2)]
  | none => (pageParts (r.2.2 / 2 ^ 16 + 2) r.2.1 r.2.2).map fun (a, n) =>
      let (t, b) := (findKey Prod.fst (a / 2 ^ 16) tr).elim (3, a / 2 ^ 16 * 2 ^ 16) Prod.snd
      (t, b + a % 2 ^ 16, n)

/-- Whether two ranges share a byte. -/
def sameBytes (a b : List (Nat × Nat × Nat)) : Bool :=
  a.any fun x => b.any fun y => x.1 == y.1 && decide (0 < x.2.2) && decide (0 < y.2.2) && decide (x.2.1 < y.2.1 + y.2.2) && decide (y.2.1 < x.2.1 + x.2.2)

/-- The ranges that a record in progress has still to write, its own marks among them. -/
def SRec.toWrite (p : Polder) (x : SRec) : List (Option Nat × Nat × Nat) :=
  if x.st = 2 then [] else x.marks p ++ if x.st = 0 then x.todo.map (·.dest p x.bytes) else []
/-- Whether one of some records in progress has still to write one of some bytes. -/
def State.willWrite (s : State) (c : Ctx) (p : Polder) (l : List SRec) (d : List (Option Nat × Nat × Nat)) : Bool :=
  let ws := l.flatMap (·.toWrite p)
  let tr := if ws.isEmpty then [] else s.pageMap c (ws ++ d)
  let dp := d.flatMap (placed tr)
  ws.any fun w => sameBytes (placed tr w) dp

/-- Moves of a record that may be made now: no earlier move of the record writes one of their bytes, so that the highest i, or
the own slice, is written last (R242); no earlier record of the chain, of which `prior` are in progress, will write one
that they read or write (R245). -/
def State.movable (s : State) (c : Ctx) (p : Polder) (prior : List SRec) (x : SRec) : List (Move × Nat) :=
  if x.st ≠ 0 then []
  else
    let ws := prior.flatMap (·.toWrite p)
    let rs := if ws.isEmpty then [] else x.todo.flatMap (·.srcs p x.bytes)
    let tr := s.pageMap c (ws ++ rs ++ x.todo.map (·.dest p x.bytes))
    let ds := x.todo.map fun m => placed tr (m.dest p x.bytes)
    let ws := ws.map (placed tr)
    x.todo.zipIdx.filter fun y =>
      let d := ds.getD y.2 []
      !((ds.take y.2).any (sameBytes d)) &&
        !(ws.any fun w => sameBytes w d || (y.1.srcs p x.bytes).any fun r => sameBytes w (placed tr r))

/-! ## The engine (R244 to R247) -/

/-- A sluice chain by its name. -/
def State.schain? (s : State) (id : Nat) : Option SChain := s.schains.find? (·.id == id)
/-- A sluice chain put back. -/
def State.setSchain (s : State) (k : SChain) : State :=
  { s with schains := s.schains.map fun (x : SChain) => if x.id = k.id then k else x }

/-- The status word of an ended chain (R251). -/
def endStatus (code recs : Nat) : Word :=
  BitVec.ofNat 32 ((if code = 0 then 0 else 2) + (if code = 6 then 4 else 0) + 256 * code + 65536 * min recs 0xFFFF)

/-- A chain ends (R238, R247, R262): its remaining tokens and its chain token clear, or its ticket. -/
def State.endChain (s : State) (k : SChain) (code : Nat) : State :=
  let ts := endStatus code k.recs
  let s := { s with schains := s.schains.filter (·.id != k.id) }
  let s := (s.clearFaults (.chain k.id)).lateEnd k.id
  match k.iss.io with
  | some i =>
    match s.polder? k.iss.h with
    | none => s.imgEvent k.iss.h (.ticket i k.tok ts)
    | some p =>
      -- the clear is a release; the acquire of the load that shows it is carried out here (R262)
      (s.invalidate p k.scope).modPolder k.iss.h fun p =>
        { p with io := p.io.map fun (c : IoCore) =>
          if c.k = i then { c with busy := c.busy &&& ~~~(bit8 k.tok), slst := setAt c.slst k.tok ts } else c }
  | none =>
    let s := (List.range 8).foldl (fun s j =>
      if k.mask.getLsbD j then s.clearToken k.iss.h k.iss.f j none k.scope else s) s
    s.clearToken k.iss.h k.iss.f k.tok (some ts) k.scope

/-- The scope of a record's destination (R218): polder, die for other polders of the ring, package for the global space. -/
def recordScope (r : List Byte) : Nat := if spaceOf (field r 192 64) ≠ 0xFE then 5 else if field r 65 3 = 3 then 4 else 2

/-- The polders whose scratchpad a record names, with the bytes landed there. -/
def State.landings (s : State) (p : Polder) (x : SRec) : List (Nat × Nat) :=
  if spaceOf (field x.bytes 192 64) ≠ 0xFE then []
  else
    let hs := if field x.bytes 65 3 = 3 then (receivers x.bytes).filterMap fun q => (s.member? p q).map (·.h) else [p.h]
    hs.map fun h => (h, ((x.landed.find? (·.1 == h)).map (·.2)).getD 0)

/-- The context under which a chain runs: its own, or the one that was freed while it ran (R21). -/
def State.chainCtx (s : State) (k : SChain) : Option Ctx :=
  match k.cx with
  | some c => some c
  | none => s.ctx? k.ctx

/-- Record i of those in progress changed. -/
def SChain.modRec (k : SChain) (i : Nat) (f : SRec → SRec) : SChain := { k with now := modAt k.now i f }
/-- Record i stops moving and ends with a code; another code than 0 ends the chain (R247). -/
def SChain.stopRec (k : SChain) (i code : Nat) : SChain :=
  { k.modRec i fun x => { x with todo := [], st := 1, code := code } with stop := if k.stop = 0 then code else k.stop }
/-- The first record in progress that has not completed. -/
def SChain.first (k : SChain) : Option Nat := k.now.findIdx? (·.st != 2)

/-- CODE, OOB and OWN of a record written back (R239, R244). -/
def State.writeStatus (s : State) (c : Ctx) (k : SChain) (h : Nat) (x : SRec) : Except PFault State :=
  match s.ewrite c h k.die 0 (x.addr + 12) (leBytes 1 x.code ++ leBytes 3 x.oob) false with
  | .error e => .error e
  | .ok s => s.ewrite c h k.die 4 (x.addr + 8) [x.bytes.getD 8 0 &&& 0xFE] false

/-- A record in progress completes: what has landed is counted at its barriers (R227, R245), whatever its code is (R247). -/
def State.countRec (s : State) (k : SChain) (p : Polder) (i : Nat) (x : SRec) : State :=
  let bar := if flag x.bytes 78 then some (field x.bytes 72 6) else none
  let s := if x.sound then
      (s.landings p x).foldl (fun s y => s.land y.1 bar y.2 (recordScope x.bytes)) s
    else s
  s.setSchain { k.modRec i fun x => { x with st := 2 } with
    recs := if x.code = 0 then k.recs + 1 else k.recs, scope := max k.scope (recordScope x.bytes) }

/-- Record i, which has stopped moving, ends: its status is written and it completes. A fault holds the first record in
progress; a later one, and one that ends with an error, waits until it is the first. -/
def State.finishRec (s : State) (c : Ctx) (p : Polder) (id i : Nat) : State :=
  match s.schain? id with
  | none => s
  | some k =>
    match k.now[i]? with
    | none => s
    | some x =>
      if x.st ≠ 1 || (x.code != 0 && k.first != some i) || (s.heldBy (.chain id)).isSome && k.first == some i ||
          s.willWrite c p (k.now.take i) (x.marks p) then s
      else
        match s.writeStatus c k p.h x with
        | .ok s => s.countRec k p i x
        | .error e => if k.first = some i then s.holdFault c (.chain id) e else s

/-- A chain goes on with the record that NEXT names, or ends with NEXT = 0 (R244). -/
def State.endOrGo (s : State) (k : SChain) (next : Nat) : State :=
  if next = 0 then s.endChain k 0 else s.setSchain { k with next := next }

/-- The records at the head of a chain that have completed leave it, each clearing the token of the mask that it names (R238);
then the chain goes on with NEXT of the last, or ends: after an error, or with NEXT = 0 (R244, R247). -/
def State.settleRecs (s : State) (c : Ctx) (p : Polder) (id : Nat) : Nat → State
  | 0 => s
  | n + 1 =>
    match s.schain? id with
    | none => s
    | some k =>
      match k.now with
      | [] => s
      | x :: xs =>
        if x.st ≠ 2 then s
        else
          let j := field x.bytes 68 3
          let named := x.code == 0 && flag x.bytes 71 && k.mask.getLsbD j
          let k := if named then { k with mask := k.mask &&& ~~~(bit8 j) } else k
          let s := if named then s.clearToken k.iss.h k.iss.f j none k.scope else s
          if !xs.isEmpty then State.settleRecs (s.setSchain { k with now := xs }) c p id n
          else if k.stop ≠ 0 then s.endChain { k with now := [] } k.stop
          else
            match s.eread c p.h k.die 8 x.addr 8 with
            | .error e => (s.setSchain k).holdFault c (.chain id) e
            | .ok (b, _) => s.endOrGo { k with now := [] } (leNat b)
/-- Every record of a chain that may end now does, and those at its head leave it. -/
def State.settleChain (s : State) (c : Ctx) (p : Polder) (id : Nat) : State :=
  let n := ((s.schain? id).map (·.now.length)).getD 0
  ((List.range n).foldl (fun s i => s.finishRec c p id i) s).settleRecs c p id n

/-- A chain whose next record cannot be taken ends with a code, once no record is in progress (R243). -/
def State.endHead (s : State) (k : SChain) (code : Nat) : State := if k.now.isEmpty then s.endChain k code else s

/-- The engine reads the next record of a chain, checks it and starts it, when OWN = 1 (R241, R244). It may do so while earlier
records are in progress, when none of them will write the record itself (R245). -/
def State.takeRecord (s : State) (id : Nat) : State :=
  match s.schain? id with
  | none => s
  | some k =>
    match s.chainCtx k, s.body? k.iss.h with
    | some c, some p =>
      if k.kill || k.stop ≠ 0 || s.dieDown k.die || !(((s.onEngine k.die k.eng).take 16).any (·.id == id)) then s
      else
        match s.heldBy (.chain id), s.nextRec c k p.h with
        | some f, _ => if f.ended && k.first.isNone then s.endChain k 4 else s
        | none, none => s
        | none, some a =>
          if a % 64 ≠ 0 then s.endHead k 2
          else if !inSpace p.spsize a 64 then s.endHead k 3
          else if spaceOf a = 0xFE && s.spadBusy p.h id (a % 2 ^ 32 : Nat) 64 false then s
          else if s.willWrite c p k.now (((destOf p.h a).1, (destOf p.h a).2, 64) ::
              (k.now.getLast?.map fun x => ((destOf p.h x.addr).1, (destOf p.h x.addr).2, 8)).toList) then s
          else
            match s.eread c p.h k.die 0 a 64 with
            | .error e => if k.now.isEmpty then s.holdFault c (.chain id) e else s
            | .ok (r, _) =>
              if !flag r 64 then s
              else
                let code := recordCode p r
                let x : SRec := { addr := a, bytes := r, todo := if code = 0 then s.recordPlan p r else [], st := if code = 0 then 0 else 1,
                                  code := code, sound := code == 0 }
                (s.setSchain { k with now := k.now ++ [x], stop := code }).settleChain c p id
    | _, _ => s

/-- SLUICE_RECORD_TAKE (R244). -/
def execSluiceRecordTake (k : Nat) (s : State) : Host.Outcome State Fault Refusal := .next (s.takeRecord k).idle
/-- SLUICE_OWN_POLL (R244): a record whose OWN was 0 is read again. -/
def execSluiceOwnPoll (k : Nat) (s : State) : Host.Outcome State Fault Refusal := .next (s.takeRecord k).idle

/-- Bytes landed in a polder are counted. -/
def SRec.count (x : SRec) (h n : Nat) : SRec :=
  { x with landed := insertKey Prod.fst (h, ((x.landed.find? (·.1 == h)).map (·.2)).getD 0 + n) x.landed }

/-- Bytes read for a move from some places (none: zeros), with their poison, as an engine of a die reads them (R246). -/
def State.readParts (s : State) (c : Ctx) (h die tag : Nat) : List (Option Nat × Nat) → Except PFault (List Byte × Bool × State)
  | [] => .ok ([], false, s)
  | (none, n) :: l =>
    match State.readParts s c h die (tag + 2) l with
    | .error e => .error e
    | .ok (b, q, s) => .ok (List.replicate n 0 ++ b, q, s)
  | (some a, n) :: l =>
    match s.eread c h die tag a n with
    | .error e => .error e
    | .ok (b, q) =>
      let t := if spaceOf a = 0xFE then s else s.gfill c die tag (n / 32 + 2) a n
      match State.readParts t c h die (tag + 2) l with
      | .error e => .error e
      | .ok (b', q', s) => .ok (b ++ b', q || q', s)

/-- Move number i of a record is made; or the fault that stops it; none: it must wait for other engine work (R218). -/
def State.makeMove (s : State) (c : Ctx) (k : SChain) (p : Polder) (x : SRec) (i : Nat) (m : Move) (tag : Nat) :
    Except (Option PFault) (State × SRec) :=
  let waits (h : Nat) (a : Nat) (n : Nat) (w : Bool) : Bool := s.spadBusy h k.id (a : Nat) n w
  match m with
  | .row r =>
    let a := field x.bytes 384 64 + 4 * r
    if spaceOf a = 0xFE && waits p.h (a % 2 ^ 32) 4 false then .error none
    else
      match s.eread c p.h k.die tag a 4 with
      | .error e => .error (some e)
      | .ok (b, _) =>
        let v := leNat b
        .ok (s, { x with todo := x.todo.take i ++ rowMoves p x.bytes r v ++ x.todo.drop (i + 1),
                         oob := if field x.bytes 448 32 ≤ v then min (x.oob + 1) 0xFFFFFF else x.oob })
  | m =>
    let (dh, d, n) := m.dest p x.bytes
    let ins : List (Option Nat × Nat) := match m with
      | .parts _ _ l => l.map (·, 16)
      | .copy _ _ a n => [(some a, n)]
      | .row _ => []
    let srcBusy := ins.any fun y => match y.1 with
      | some a => spaceOf a == 0xFE && waits p.h (a % 2 ^ 32) y.2 false
      | none => false
    let dstBusy := match dh with
      | some h => waits h d n true
      | none => false
    if srcBusy || dstBusy then .error none
    else
      match s.readParts c p.h k.die tag ins with
      | .error e => .error (some e)
      | .ok (b, q, s) =>
        let x := { x with todo := x.todo.eraseIdx i }
        match dh with
        | some h =>
          if (s.body? h).isNone then .ok (s, x)
          else
            match s.spPut h d b q with
            | some s => .ok (s.lateLand h k.id n, x.count h n)
            | none => .error none
        | none =>
          match s.gwrite c k.die tag q (n / 32 + 2) d b with
          | .error e => .error (some e)
          | .ok s => .ok (s, x)

/-- The moves that a chain's records in progress may make now, each with its record and its place there. The first record makes
none while it holds a fault (R247). -/
def State.chainMoves (s : State) (c : Ctx) (k : SChain) (p : Polder) (held : Bool) : List (Nat × Move × Nat) :=
  k.now.zipIdx.flatMap fun x =>
    if held && k.first == some x.2 then [] else (s.movable c p (k.now.take x.2) x.1).map fun m => (x.2, m)

/-- Some of a chain's moves are made in a free order: n of them at most. -/
def State.moveSome (s : State) (c : Ctx) (id : Nat) (p : Polder) : Nat → State
  | 0 => s
  | n + 1 =>
    let s := State.moveSome s c id p n
    match s.schain? id with
    | none => s
    | some k =>
      let l := s.chainMoves c k p (s.heldBy (.chain id)).isSome
      match l[s.choose (n + 2 ^ 33) l.length]? with
      | none => s
      | some (j, m, i) =>
        match s.makeMove c k p (k.now.getD j { addr := 0, bytes := [], todo := [] }) i m (64 * n) with
        | .ok (s, x) => s.setSchain (k.modRec j fun _ => x)
        | .error (some e) => if k.first = some j then s.holdFault c (.chain id) e else s
        | .error none => s

/-- Records all of whose bytes are written come to their end (R245). -/
def SChain.close (k : SChain) : SChain :=
  { k with now := k.now.map fun x => if x.st = 0 ∧ x.todo.isEmpty then { x with st := 1 } else x }

/-- The first record in progress whose held access has been ended without mapping (R247): one that was moving ends with FAULT; one
whose status could not be written ends with FAULT and leaves it unwritten. -/
def State.faultRec (s : State) (p : Polder) (k : SChain) : State :=
  match k.first with
  | none => s.endChain k 4
  | some i =>
    match k.now[i]? with
    | none => s
    | some x => if x.st = 0 then s.setSchain (k.stopRec i 4) else s.countRec { k with stop := 4 } p i { x with code := 4 }

/-- SLUICE_RECORD_COMPLETE (R245): bytes of the records in progress are written, sector by sector in a free order; with the
last of its bytes a record's status is written back and its barrier is decremented. -/
def execSluiceRecordComplete (k : Nat) (s : State) : Host.Outcome State Fault Refusal :=
  match s.schain? k with
  | none => .next s.idle
  | some x =>
    match s.chainCtx x, s.body? x.iss.h with
    | some c, some p =>
      if s.dieDown x.die then .next s.idle
      else
        let s := match s.heldBy (.chain k) with
          | some f => if f.ended then (s.clearFaults (.chain k)).faultRec p x else s
          | none => s
        let n := ((x.now.map (·.todo.length)).foldl (· + ·) 0)
        let s := s.moveSome c k p (1 + s.choose (2 ^ 32) n)
        match s.schain? k with
        | some y => .next ((s.setSchain y.close).settleChain c p k).idle
        | none => .next s.idle
    | _, _ => .next s.idle

/-- SLUICE_KILL_STOP (R253): the records in progress stop with KILLED, and the chain ends. -/
def execSluiceKillStop (k : Nat) (s : State) : Host.Outcome State Fault Refusal :=
  match s.schain? k with
  | none => .next s.idle
  | some x =>
    if !x.kill then .next s.idle
    else if x.now.isEmpty then .next (s.endChain x 6).idle
    else
      match s.chainCtx x, s.body? x.iss.h with
      | some c, some p =>
        let y := x.now.zipIdx.foldl (fun (y : SChain) z => if z.1.st = 0 then y.stopRec z.2 6 else y) x
        let y := { y with stop := if y.stop = 0 then 6 else y.stop }
        let s := if ((x.first.bind (x.now[·]?)).map (·.st)) = some 0 then s.clearFaults (.chain k) else s
        .next ((s.setSchain y).settleChain c p k).idle
      | _, _ => .next (s.endChain x 6).idle

end Sys2Proof.Machine
end

