-- ==== Sys2Proof/Machine/Coll.lean ====
section
/-! DEFINITION. Collectives, 0xBB, with their steps (spec/10_sluice.md R255 to R258). -/
namespace Sys2Proof.Machine

/-- A collective by its name. -/
def State.coll? (s : State) (id : Nat) : Option Coll := s.colls.find? (·.id == id)

/-- A participant ends with a code: its token clears (R251, R257, R258). -/
def State.endColl (s : State) (x : Coll) (code : Nat) : State :=
  let s := { s with colls := s.colls.filter (·.id != x.id) }
  (s.clearFaults (.coll x.id)).clearToken x.iss.h x.iss.f x.tok (some (endStatus code 0)) 7

/-- Whether a collective reduces (R256). -/
def collReduces (d : List Byte) : Bool := field d 0 8 ≤ 1
/-- Elements of SEND and of RECV (R256). -/
def collSizes (d : List Byte) : Nat × Nat :=
  let c := field d 64 32
  let n := field d 32 16
  match field d 0 8 with
  | 0 => (c, c) | 1 => (n * c, c) | 2 => (c, n * c) | 3 => (c, c) | _ => (n * c, n * c)

/-- The code of the first check that a descriptor fails: TYPE, ALIGN, SPACE; 0 for none (R255, R257). A value out of its
range is TYPE (log 87). -/
def collCode (d : List Byte) : Nat :=
  let op := field d 0 8
  let ct := field d 8 4
  let rop := field d 12 4
  let np := field d 32 16
  let cnt := field d 64 32
  let (sn, rn) := collSizes d
  if 4 < op || (op ≤ 1 && (5 < rop || (rop < 3 && !([0, 1, 6, 7, 8] : List Nat).contains ct))) || np < 2 || 4096 < np ||
      np ≤ field d 48 16 || cnt < 1 || 2 ^ 26 < cnt || (op == 3 && np ≤ field d 16 16) || field d 432 80 != 0 then 1
  else if field d 128 64 % 16 != 0 || field d 192 64 % 16 != 0 || field d 256 64 % 8 != 0 || field d 320 64 % 2 ^ 20 != 0 then 2
  else if !(isGlobal (field d 128 64) && field d 128 64 + 4 * sn ≤ 2 ^ 52 && isGlobal (field d 192 64) && field d 192 64 + 4 * rn ≤ 2 ^ 52 &&
      isGlobal (field d 256 64) && field d 256 64 + 8 * np ≤ 2 ^ 52 && isGlobal (field d 320 64) && field d 320 64 + 2 ^ 20 ≤ 2 ^ 52) then 3
  else 0

/-- The places of the sectors of n bytes at a virtual address; one that does not translate now has none. -/
def State.placesOf (s : State) (c : Ctx) (die va n : Nat) : List (Nat × Nat) :=
  (List.range ((va % 32 + n + 31) / 32)).map fun i =>
    match s.translate c (va / 32 * 32 + 32 * i) 0 i die with
    | .ok (.glob tgt x _, _) => (tgt, sectorOf x)
    | _ => (3, 0)
/-- A participant changed. -/
def State.modColl (s : State) (id : Nat) (f : Coll → Coll) : State :=
  { s with colls := s.colls.map fun (y : Coll) => if y.id = id then f y else y }

/-- A participant's descriptor is read and checked (R255, R257); its GROUP entry MYRANK must equal STAGE, else SPACE
(log 87). A read that does not translate, or whose home cannot be reached, is made again (R22, R400); one that meets poison ends it with
FAULT (log 88). -/
def State.collRead (s : State) (id : Nat) : State :=
  match s.coll? id with
  | none => s
  | some x =>
    match s.ctx? x.ctx, s.heldBy (.coll id) with
    | none, _ => s
    | some _, some f => if f.ended && x.st = 0 then s.endColl x 4 else s
    | some c, none =>
      if x.st ≠ 0 then s
      else
        if !inSpace (((s.body? x.iss.h).map (·.spsize)).getD 0) x.addr 64 then s.endColl x 3
        else if spaceOf x.addr = 0xFE && s.spadBusy x.iss.h id (x.addr % 2 ^ 32 : Nat) 64 false then s
        else
        match s.eread c x.iss.h x.die 0 x.addr 64 with
        | .error e => s.holdFault c (.coll id) e
        | .ok (d, q) =>
          if q then (s.contextDead x.ctx).endColl x 4
          else if collCode d ≠ 0 then s.endColl x (collCode d)
          else
            let s := s.modColl id fun y => { y with desc := d }
            match s.gread c x.die 8 3 (field d 256 64 + 8 * field d 48 16) 8 with
            | .error e => s.holdFault c (.coll id) e
            | .ok (g, q) =>
              if q then (s.contextDead x.ctx).endColl x 4
              else if leNat g ≠ field d 320 64 then s.endColl x 3
              else
                s.modColl id fun y => { y with seen := s.placesOf c x.die (field d 128 64) (4 * (collSizes d).1), st := 1 }

/-- COLL (R250, R256, R258). -/
def execColl (a : Opnd) (k : BitVec 3) (s : State) : Host.Outcome State Fault Refusal :=
  issue s (fun _ => engineDesc (.a2u a) .any .any) fun v w act =>
    let h := v.rd2 a (lowest act)
    if h % 64 != 0 then .trap { t := .misalign, addr := h }
    else if !globalOrSpad h then .trap { t := .space, addr := h }
    else if v.f.tok.getLsbD k.toNat then .wait
    else
      match v.engineOrder w with
      | none => .wait
      | some w =>
        let x : Coll := { id := w.s.nextId, ctx := v.p.ctx, die := v.p.die, iss := { h := v.l.h, f := v.l.f }, tok := k.toNat,
                          addr := h, time := w.s.time }
        let w := w.setTokens (bit8 k.toNat) k.toNat true
        .nextThen { w with s := { w.s with colls := w.s.colls ++ [x], nextId := w.s.nextId + 1 } } (·.collRead x.id)

/-- n free words (log 1). -/
def State.freeWords (s : State) (tag n : Nat) : List Word := (List.range n).map fun i => Config.freeWord (s.draw (tag + i))

/-- The free values of another party in the same step (log 1). -/
def State.renew (s : State) : State := { s with free := s.free + 1 }

/-- RECV of a participant becomes unpredictable, where it can be written (R256, R257). -/
def State.recvFree (s : State) (x : Coll) : State :=
  match s.ctx? x.ctx with
  | none => s
  | some c =>
    let n := (collSizes x.desc).2
    match s.gwrite c x.die 0 false (n / 8 + 2) (field x.desc 192 64) (wordsBytes (s.freeWords (2 ^ 39) n)) with
    | .ok s => s
    | .error _ => s

/-- The staging area of a participant becomes unpredictable (R256): any of its sectors, as often as n says, take free
words. -/
def State.stageFree (s : State) (c : Ctx) (x : Coll) : Nat → State
  | 0 => s
  | n + 1 =>
    let t := match s.gwrite c x.die 0 false 2 (field x.desc 320 64 + 32 * s.choose n (2 ^ 15)) (wordsBytes (s.freeWords (8 * n) 8)) with
      | .ok t => t
      | .error _ => s
    State.stageFree t c x n
/-- The staging areas of participants become unpredictable; nothing but memory, with its far copies and its poison,
changes. -/
def State.stagesFree (s : State) (xs : List Coll) : State :=
  let t := xs.foldl (fun (s : State) (x : Coll) => match s.ctx? x.ctx with
    | none => s
    | some c => (s.stageFree c x (s.choose (2 ^ 16) (2 ^ 15 + 1))).renew) s
  { s with dev := t.dev, host := t.host, peer := t.peer, pois := t.pois, far := t.far, free := s.free + xs.length }

/-- Participants end with MISMATCH or TIMEOUT. -/
def State.failColls (s : State) (xs : List Coll) (code : Nat) : State :=
  (xs.foldl (fun (s : State) (x : Coll) => (s.recvFree x).renew.endColl x code) s).stagesFree xs

/-- The participants of one collective whose descriptors have been read. -/
def State.collOf (s : State) (gid seq : Nat) (st : Nat) : List Coll :=
  s.colls.filter fun x => x.st == st && field x.desc 96 32 == gid && field x.desc 384 32 == seq

/-- Whether two participants disagree (R257). -/
def collDiffer (a b : List Byte) : Bool :=
  field a 0 48 != field b 0 48 || field a 64 32 != field b 64 32 || field a 48 16 == field b 48 16

/-- Whether some two of a list of participants disagree. -/
def anyDiffer : List Coll → Bool
  | [] => false
  | x :: xs => xs.any (fun y => collDiffer x.desc y.desc) || anyDiffer xs

/-- Participants of a collective end with MISMATCH; so does each that comes later, `left` of them (R257). -/
def State.mismatch (s : State) (gid seq : Nat) (ps : List Coll) (left : Nat) : State :=
  let rest := s.mism.filter fun x => !(x.1 == gid && x.2.1 == seq)
  { s.failColls ps 7 with mism := if left = 0 then rest else (gid, seq, left) :: rest }

/-- Whether TMO of a participant that has not matched has passed since its issue (R257). -/
def Coll.late (x : Coll) (s : State) : Bool :=
  let tmo := field x.desc 416 16
  x.st ≤ 1 && 0 < tmo && x.time + 1000 * tmo ≤ s.time

/-- COLL_MATCH (R257): all participants have come, or two of them disagree; one whose time has passed ends with TIMEOUT.
Descriptors that could not be read are tried again. -/
def execCollMatch (gid seq : Nat) (s : State) : Host.Outcome State Fault Refusal :=
  let s := s.colls.foldl (fun s x => s.collRead x.id) s
  let ps := s.collOf gid seq 1
  match s.mism.find? fun x => x.1 == gid && x.2.1 == seq with
  | some (_, _, n) => .next (s.mismatch gid seq ps (n - ps.length)).idle
  | none =>
  let late := ps.filter (·.late s)
  if !late.isEmpty then .next (s.failColls late 8).idle
  else if anyDiffer ps then
    .next (s.mismatch gid seq ps (ps.foldl (fun n x => max n (field x.desc 32 16)) 0 - ps.length)).idle
  else
    match ps with
    | [] => .next s.idle
    | x :: _ =>
      if ps.length < field x.desc 32 16 then .next s.idle
      else .next { s.idle with colls := s.colls.map fun (y : Coll) => if ps.any (·.id == y.id) then { y with st := 2 } else y }

/-- The fold of R256 over one element of each participant, in ascending rank; each element with whether a store has changed
it while the collective ran. -/
def collFold (ct rop : Nat) : List (Word × Bool) → Word × Bool
  | [] => (0, false)
  | x :: xs =>
    let m : BitVec 24 := BitVec.ofNat 24 (16 * ct)
    xs.foldl (fun acc y => ((scanOp rop m 0 acc.1 y.1).1, acc.2 || y.2)) x

/-- Words of RECV of participant r from the SEND buffers in rank order (R256). -/
def collRecv (d : List Byte) (r : Nat) (sends : List (List (Word × Bool))) : List (Word × Bool) :=
  let c := field d 64 32
  let np := field d 32 16
  let fold (e : Nat) : Word × Bool := collFold (field d 8 4) (field d 12 4) (sends.map (·.getD e (0, false)))
  match field d 0 8 with
  | 0 => (List.range c).map fold
  | 1 => (List.range c).map fun e => fold (r * c + e)
  | 2 => sends.flatMap (·.take c)
  | 3 => (sends.getD (field d 16 16) []).take c
  | _ => (List.range np).flatMap fun i => ((sends.getD i []).drop (r * c)).take c

/-- Words for RECV at an address: each sector that depends on a changed element takes free words (R257). -/
def State.recvWords (s : State) (recv : Nat) (ws : List (Word × Bool)) : List Word :=
  let sector (j : Nat) : Nat := (recv + 4 * j) / 32
  let bad := (ws.zipIdx.filter (·.1.2)).map fun x => sector x.2
  ws.zipIdx.map fun x => if bad.contains (sector x.2) then Config.freeWord (s.draw (2 ^ 39 + x.2)) else x.1.1

/-- Whether element j of a participant's SEND lies in a sector that has been written since its descriptor was read. -/
def Coll.dirty (x : Coll) (j : Nat) : Bool := x.dirt.contains (x.seen.getD ((field x.desc 128 64 % 32 + 4 * j) / 32) (3, 0))

/-- The SEND buffers of participants in rank order, each element with whether a store has reached its sector since its
participant's descriptor was read; or the participant that must be held, or whose read met poison. -/
def State.collSends (s : State) : List Coll → Except (Coll × Option PFault) (List (List (Word × Bool)))
  | [] => .ok []
  | x :: xs =>
    match s.ctx? x.ctx with
    | none => .error (x, none)
    | some c =>
      let n := (collSizes x.desc).1
      match s.gread c x.die 0 (n / 8 + 2) (field x.desc 128 64) (4 * n) with
      | .error e => .error (x, some e)
      | .ok (b, q) =>
        if q then .error (x, none)
        else
          match State.collSends s xs with
          | .error e => .error e
          | .ok l => .ok ((bytesWords n b).zipIdx.map (fun y => (y.1, x.dirty y.2)) :: l)

/-- Whether two ranges share a byte. -/
def rangesMeet (a n b m : Nat) : Bool := decide (a < b + m) && decide (b < a + n)

/-- Whether a participant's buffers overlap in a way that leaves RECV unpredictable (R256). -/
def collOverlaps (d : List Byte) : Bool :=
  let (sn, rn) := collSizes d
  let snd := field d 128 64
  let rcv := field d 192 64
  let stg := field d 320 64
  (rangesMeet snd (4 * sn) rcv (4 * rn) && !(field d 0 8 == 0 && snd == rcv)) ||
    rangesMeet snd (4 * sn) stg (2 ^ 20) || rangesMeet rcv (4 * rn) stg (2 ^ 20)

/-- The words of RECV of a participant. -/
def State.recvOf (s : State) (sends : List (List (Word × Bool))) (x : Coll) : List Word :=
  if collOverlaps x.desc then s.freeWords (2 ^ 39) (collSizes x.desc).2
  else s.recvWords (field x.desc 192 64) (collRecv x.desc (field x.desc 48 16) sends)
/-- Participants with what is to be written to RECV of each, by sector (R217). -/
def State.planColls (s : State) (sends : List (List (Word × Bool))) (ps : List Coll) : State :=
  ps.foldl (fun (s : State) (x : Coll) =>
    let a := field x.desc 192 64
    let b := wordsBytes (s.recvOf sends x)
    (s.modColl x.id fun y => { y with st := 3, todo := (pieces (b.length / 16 + 2) a b.length).map fun (o, n) => (o, (b.drop (o - a)).take n) }).renew) s

/-- Writes of the collective itself are no stores into SEND (R257): what the participants have seen stays. -/
def State.keepDirt (t s : State) (ps : List Coll) : State :=
  { t with colls := t.colls.map fun (y : Coll) =>
      if ps.any (·.id == y.id) then { y with dirt := ((s.coll? y.id).getD y).dirt } else y }

/-- Some of the sectors of RECV of the participants `ids` are written, in a free order: n of them at most; a page that does not translate
holds its participant (R400). -/
def State.collSome (s : State) (ids : List Nat) : Nat → State
  | 0 => s
  | n + 1 =>
    let s := State.collSome s ids n
    let l := (s.colls.filter fun x => ids.contains x.id && (s.heldBy (.coll x.id)).isNone).flatMap fun x => x.todo.zipIdx.map fun y => (x, y)
    match l[s.choose (n + 2 ^ 33) l.length]? with
    | none => s
    | some (x, (a, b), i) =>
      match s.ctx? x.ctx with
      | none => s.modColl x.id fun y => { y with todo := [] }
      | some c =>
        match s.gwrite c x.die (64 * n) false 3 a b with
        | .error e => s.holdFault c (.coll x.id) e
        | .ok t => (t.keepDirt s (s.colls.filter (ids.contains ·.id))).modColl x.id fun y => { y with todo := y.todo.eraseIdx i }

/-- Sectors of RECV that depend on an element which a store has changed while the collective ran are unpredictable (R257). -/
def State.collSpoil (s : State) (ps : List Coll) : State :=
  let sends := ps.map fun x => (List.range (collSizes x.desc).1).map fun j => ((0 : Word), x.dirty j)
  ps.foldl (fun (s : State) (x : Coll) =>
    match s.ctx? x.ctx with
    | none => s
    | some c =>
      let a := field x.desc 192 64
      let bad := ((collRecv x.desc (field x.desc 48 16) sends).zipIdx.filter (·.1.2)).map fun y => (a + 4 * y.2) / 32
      ((pieces ((collSizes x.desc).2 / 4 + 2) a (4 * (collSizes x.desc).2)).zipIdx.filter fun y => bad.contains (y.1.1 / 32)).foldl (fun (s : State) y =>
        (s.gwrite c x.die (64 * y.2) false 3 y.1.1 (wordsBytes (s.freeWords (2 ^ 39 + 8 * y.2) (y.1.2 / 4)))).toOption.getD s) s.renew) s

/-- COLL_COMPLETE (R256, R258): of a matched collective SEND is read, and RECV is written sector by sector; with the last sector the tokens
clear, and the staging areas become unpredictable. -/
def execCollComplete (gid seq : Nat) (s : State) : Host.Outcome State Fault Refusal :=
  let rank (l : List Coll) : List Coll := l.foldl (fun l x => insertKey (fun (y : Coll) => field y.desc 48 16) x l) []
  let hold (x : Coll) (e : PFault) : State := match s.ctx? x.ctx with
    | some c => s.holdFault c (.coll x.id) e
    | none => s
  let ps := rank (s.collOf gid seq 2 ++ s.collOf gid seq 3)
  if ps.any fun x => ((s.heldBy (.coll x.id)).map (·.ended)).getD false then .next (ps.foldl (fun s x => s.endColl x 4) s).idle
  else if ps.any fun x => (s.heldBy (.coll x.id)).isSome then .next s.idle
  else if ps.any (·.st == 2) then
    match s.collSends ps with
    | .error (x, none) => .next (ps.foldl (fun s x => s.endColl x 4) (s.contextDead x.ctx)).idle
    | .error (x, some e) => .next (hold x e).idle
    | .ok sends => .next (s.planColls sends ps).idle
  else if ps.isEmpty then .next s.idle
  else
    let n := (ps.map (·.todo.length)).foldl (· + ·) 0
    let s := s.collSome (ps.map (·.id)) (if n = 0 then 0 else 1 + s.choose (2 ^ 32) n)
    let qs := rank (s.collOf gid seq 3)
    if qs.all (·.todo.isEmpty) then .next ((qs.foldl (fun s x => s.endColl x 0) (s.collSpoil qs).renew).stagesFree qs).idle else .next s.idle

/-- COLL_TIMEOUT (R257): a participant that has not matched within TMO µs of its issue ends with TIMEOUT, one whose GROUP entry
has not been read too. -/
def execCollTimeout (k : Nat) (s : State) : Host.Outcome State Fault Refusal :=
  match s.coll? k with
  | none => .next s.idle
  | some x =>
    if x.late s then .next (s.failColls [x] 8).idle else .next s.idle

end Sys2Proof.Machine
end

