-- ==== Sys2Proof/Machine/Fetch.lean ====
section
/-! DEFINITION. Which sub-group issues next and with which word: the passing of beats, eligibility and the choice of
R163 to R166, the fetch of a bundle (R23, R27), arrival at a rejoin point (R160) and the wait mask (R28, R30). -/
namespace Sys2Proof.Machine

/-- Some beats pass, as many as the timing of the step has (R2, log 3): every SLEEP count follows (R174). -/
def State.advance (s : State) : State :=
  let k := Config.extraBeats s.free
  { s.sleeps k with beat := s.beat + k }

/-- Whether nothing holds a sub-group in an instruction; one that waits at a barrier goes on when the phase has passed
(R228). -/
def State.unheld (s : State) (p : Polder) (f : Fascine) (e : SplitEntry) : Bool :=
  match e.hold with
  | .none => true
  | .bar b ring => s.barPassed p f b ring
  | .passed _ _ _ => true
  | _ => false

/-- Whether a sub-group may issue at all, its wait mask apart (R163, R183, R372, R377, R388). -/
def State.mayIssue (s : State) (p : Polder) (f : Fascine) (e : SplitEntry) : Bool :=
  e.val && !e.wj && e.sleep == 0 && s.unheld p f e && !f.retired && !f.rejoinHold && !f.stop.stopped &&
    p.life != .draining && !p.dieHalt && p.stopReq.isNone && (p.halt.isNone || f.stop.skid < 8) && !s.dieDown p.die

/-- The bundle of a slot (R23): its 16 bytes and the state with the caches that the fetch filled, or the page trap; with cause
0 the fetch waits (R22). Each fetch of a bundle that has been overwritten since the launch gives one of the contents
that it has had, whole (R27; free, log 31). The poison of its sector is not consumed (log 76). -/
def State.fetch (s : State) (p : Polder) (pc : Word) : Except TrapInfo (List Byte × State) :=
  let o := pc.toNat / 16 * 16
  let va := p.code + o
  match s.ctx? p.ctx with
  | none => .error (pageTrap va ⟨va, 1, 3, false⟩ true)
  | some c =>
    match s.translate c va 2 0 p.die with
    | .error e => .error (pageTrap va e true)
    | .ok (.glob tgt x home, t) =>
      if !s.reach p.die tgt home then .error (pageTrap va ⟨va, 0, 0, false⟩ true)
      else
        let s := s.keepTlb t
        let s :=
          if tgt ≠ 0 then s
          else
            let (b, q) := s.l2Sector p.die home x 1 false
            s.leaveFar (c.keepsFar (pageClass t.leaf)) p.die home x b q
        if tgt ≠ 0 && s.timed = some s.free then .ok (s.hostRead tgt x 16, s)
        else
          let now := (s.memOf tgt).readN x 16
          let seen := ((s.codes.find? fun h => h.launch == p.launch && h.tgt == tgt && h.x == x).map (·.seen)).getD [now]
          .ok ((seen[s.choose 3 seen.length]?).getD now, s.noteCode p.launch tgt x)
    | .ok _ => .error (pageTrap va ⟨va, 1, 3, false⟩ true)

/-- Arrival at the rejoin point at the entry's pc (R160): the entry afterwards. Threads that wait there rejoin; if
others are parked they run now, else the entry waits to merge. -/
def SplitEntry.arrive (e : SplitEntry) : SplitEntry :=
  let o := e.pc
  let e := if e.rjf && e.rpc == o then { e with park := 0, rjf := false } else e
  if e.park != 0 && !e.rjf then { { e with rpc := o, rjf := true, park := e.running }.goto e.rpc true with entry := true }
  else { e with wj := true, arrived := true }

/-- Whether completion flag i of a fascine is clear (R30). -/
def Fascine.clear (f : Fascine) (i : Nat) : Bool := if i < 4 then f.cnt.getD i 0 == 0 else !f.tok.getLsbD (i - 4)
/-- Whether every flag that a mask selects is clear. -/
def Fascine.clearAll (f : Fascine) (m : Nat) : Bool := (List.range 12).all fun i => !bit m i || f.clear i

/-- Fields of a control word for slot k, 1 to 3 (R29): the minimum distance. -/
def ctlDist (c : Word) (k : Nat) : Nat := bits c.toNat (9 + 3 * k) 3
/-- The last-read bits of slot k. -/
def ctlLast (c : Word) (k : Nat) : BitVec 3 := BitVec.ofNat 3 (bits c.toNat (18 + 3 * k) 3)
/-- The wait mask of a control word. -/
def ctlWaitm (c : Word) : Nat := bits c.toNat 0 12
/-- The REJOIN bit of a control word. -/
def ctlRejoin (c : Word) : Bool := bit c.toNat 31
/-- The YIELDH bit of a control word. -/
def ctlYieldh (c : Word) : Bool := bit c.toNat 30
/-- The slot number of an offset, 1 to 3 (R24). -/
def slotNum (pc : Word) : Nat := pc.toNat / 4 % 4

/-- A fascine issues once a beat (R25), and in each beat its entries that wait at one slot merge (R161): before an issue of
the fascine, they have merged. -/
def State.merged (s : State) (h i : Nat) : State :=
  if ((s.fasc? h i).map fun f => f.r.ents.any (·.wj)).getD false then s.modFasc h i (·.merge fun k n => s.choose (k + 2 ^ 36) n) else s

/-! ## Ports, distances and the choice (R14, R31, R163 to R166) -/

/-- The port on which a word issues (R14): 0 chain, 1 memory, 2 engine, 3 control. -/
def portOf (w : Word) : Nat :=
  let op := w.toNat / 2 ^ 24
  let within (a b : Nat) : Bool := decide (a ≤ op) && decide (op ≤ b)
  if within 0x20 0x44 || within 0x50 0x6B || within 0x70 0x82 then 0
  else if within 0x90 0xAE || within 0xB0 0xB6 then 1
  else if within 0xB8 0xBC || within 0xC0 0xCC || within 0xD0 0xDC then 2
  else 3

/-- Whether the next instruction of entry g is a member of an open explicit chain after its first, whatever its DIST (R95). -/
def Fascine.inOpen (f : Fascine) (g : Nat) : Bool := f.chains.any fun c => c.g == g && c.st == 0 && !c.mems.isEmpty
/-- Beats between an entry's last issue and its next one, which has distance d in its control word (R31, R95). -/
def Fascine.gap (f : Fascine) (g d : Nat) : Nat := if f.inOpen g then 0 else d
/-- The first beat in which entry g of a fascine may issue an instruction with distance d (R25, R31). -/
def Fascine.dueBeat (f : Fascine) (g d : Nat) (e : SplitEntry) : Nat :=
  max f.ready (if e.issued = 0 || f.inOpen g then 0 else e.issued + max 1 d)

/-- The partition and the rank slot of fascine i (R155). -/
def Polder.seat (p : Polder) (i : Nat) : Nat × Nat := (p.ranks[i / 8]?).getD (0, 0)
/-- Whether a rank is coupled (R156). -/
def Polder.coupled (p : Polder) (rank : Nat) : Bool :=
  let es := (p.rankLive rank).map fun i => (((p.fs[i]?).getD {}).r.ents.filter (·.val))
  es.all (fun l => l.length == 1 && l.all (·.park == 0)) &&
    match es.flatten with
    | [] => false
    | e :: l => l.all (·.pc == e.pc)
/-- The number of a candidate: 32 × rank slot + 4 × fascine + entry, of a coupled rank its fascine 0, entry 0 (R164). -/
def Polder.candNum (p : Polder) (i g : Nat) : Nat :=
  32 * (p.seat i).2 + if p.coupled (i / 8) then 0 else 4 * (i % 8) + g
/-- What a port chose last. -/
def State.lastOn (s : State) (core part port : Nat) : Option Chosen :=
  s.chosen.find? fun x => x.core == core && x.part == part && x.port == port

/-- Whether a candidate is urgent (R164). -/
def SplitEntry.isUrgent (e : SplitEntry) (beat : Nat) : Bool := e.urgent || (e.elig && decide (e.since + 1024 ≤ beat))
/-- A candidate's place in the order of R164: urgent ones first, by age; the others by priority, then by age, for which a
YIELDH of the fascine counts (R166); then around from the number last chosen. -/
def State.candKey (s : State) (p : Polder) (i g : Nat) (f : Fascine) (e : SplitEntry) : Nat × Nat × Nat :=
  let last := ((s.lastOn p.core (p.seat i).1 e.port).map (·.num)).getD 2047
  let turn := (p.candNum i g + 4095 - last) % 2048
  if e.isUrgent s.beat then (0, e.since, turn) else (8 - p.prio, max e.since f.yielded, turn)

/-- Lexicographic order of those places. -/
def keyLt (a b : Nat × Nat × Nat) : Bool := a.1 < b.1 || (a.1 == b.1 && (a.2.1 < b.2.1 || (a.2.1 == b.2.1 && a.2.2 < b.2.2)))

/-- When and on which port the issue logic would let an entry issue, as far as its bundle tells (R163); none: it waits. -/
def State.stands (s : State) (p : Polder) (i g : Nat) (f : Fascine) (e : SplitEntry) : Option (Nat × Nat) :=
  if e.stuck || !s.mayIssue p f e || (f.settle && !s.settled p.h i f) then none
  else
    match s.fetch p e.pc with
    | .error _ => none
    | .ok (b, _) =>
      let ctl := wordAt b 0
      let k := slotNum e.pc
      if k = 1 && ctlRejoin ctl && !e.arrived then none
      else if (k = 1 || e.entry) && !e.passed && !f.clearAll (ctlWaitm ctl) then none
      else some (f.dueBeat g (ctlDist ctl k) e, portOf (wordAt b (4 * k)))

/-- An entry found eligible (R163): from the beat in which its waits had ended, or the present one when they ended unseen. -/
def SplitEntry.found (e : SplitEntry) (beat due port : Nat) : SplitEntry :=
  if e.elig then e else { e with elig := true, port := port, since := if e.waited then beat else max e.since due, stuck := false }
/-- Entry g of fascine i, marked when it stands eligible in this beat; a wait mask sampled clear is not sampled again (R30). -/
def State.look (s : State) (p : Polder) (i : Nat) (f : Fascine) (g : Nat) (e : SplitEntry) : SplitEntry :=
  if e.elig || !e.val then e
  else
    match s.stands p i g f e with
    | some (due, port) =>
      let e := { e with passed := true }
      if due ≤ s.beat then e.found s.beat due port else e
    | none => e
/-- The entries of fascine i that stand eligible, marked. -/
def State.lookAt (s : State) (p : Polder) (i : Nat) (f : Fascine) : Fascine :=
  { f with r := { f.r with ents := f.r.ents.zipIdx.map fun x => s.look p i f x.2 x.1 } }
/-- The entries of a partition of a core that stand eligible in this beat, marked so. -/
def State.survey (s : State) (core part : Nat) : State :=
  { s with polders := s.polders.map fun (p : Polder) =>
      if p.core ≠ core then p
      else { p with fs := p.fs.zipIdx.map fun x => if (p.seat x.2).1 = part then s.lookAt p x.2 x.1 else x.1 } }
/-- Whether another candidate of the same port of the same partition comes before entry g of fascine i (R164). -/
def State.outranked (s : State) (p : Polder) (i g : Nat) (f : Fascine) (e : SplitEntry) : Bool :=
  let key := s.candKey p i g f e
  s.polders.any fun q => q.core == p.core && q.fs.zipIdx.any fun (f', j) => (q.seat j).1 == (p.seat i).1 && f'.ready ≤ s.beat &&
    f'.r.ents.zipIdx.any fun (e', k) => !(q.h == p.h && j == i && k == g) && e'.elig && e'.port == e.port && s.mayIssue q f' e' &&
      keyLt (s.candKey q j k f' e') key
/-- The first beat in which the port of a candidate is free: it takes one candidate a beat, a coupled rank as one (R156,
R164). -/
def State.portFree (s : State) (p : Polder) (i port : Nat) (e : SplitEntry) : Nat :=
  match s.lastOn p.core (p.seat i).1 port with
  | none => 0
  | some x => if x.joint == some e.pc && x.num == 32 * (p.seat i).2 then x.beat else x.beat + 1
/-- Whether the next instruction of entry g of fascine i issues in this beat if anything does: it stands eligible, its port is
free, and no candidate comes before it (R163, R164). A chain instruction may have to wait for its stage (R91). -/
def State.issuesFirst (s : State) (p : Polder) (i g : Nat) : Bool :=
  let s := s.survey p.core (p.seat i).1
  match s.polder? p.h with
  | none => false
  | some p =>
    let f := (p.fs[i]?).getD {}
    let e := (f.r.ents[g]?).getD {}
    e.elig && s.mayIssue p f e && e.port != 0 && f.ready ≤ s.beat && s.portFree p i e.port e ≤ s.beat && !s.outranked p i g f e
/-- CHAIN_DRAIN_COMPLETE (R99, R103, R104): the chain ends. With an enabled exception it traps ARITH as one instruction;
else its held writes are made and its exceptions are added to the sticky bits. It has run long enough for its last thread
(R97), and the next instruction of its sub-group, when it can issue now, goes first. A chain of a halted or stopped polder is
frozen (R372). -/
def execChainDrainComplete (h f chain : Nat) (s : State) : Host.Outcome State Fault Refusal :=
  match s.polder? h with
  | none => .next s.idle
  | some p =>
    match p.fs[f]? with
    | none => .next s.idle
    | some x =>
      match x.chains.find? (·.id == chain) with
      | none => .next s.idle
      | some c =>
        if c.st != 2 || p.frozen || c.ran < c.soonest || (modeTen c.mode == 0 && s.issuesFirst p f c.g) then .next s.idle
        else
          let exc := c.excAll
          let on := exc &&& modeTen c.mode
          if on != 0 then
            let k := ((List.range c.mems.length).find? fun k => c.excOf k &&& modeTen c.mode != 0).getD 0
            let s := s.modFasc h f fun x =>
              { x with chains := x.chains.filter (·.id != chain),
                       r := c.freed.foldl Regs.rebind x.r }
            .next (s.takeTrap h f c.g c.pc1 c.pc1 { t := .arith, sub := exc.toNat, data := k + 1 }).idle
          else
            let p := p.modF f fun _ => x.drain s c
            .next (s.setPolder ((c.mems.filterMap (·.writes)).foldl (fun p w => p.makeHeld s f c w) p)).idle

/-- The choice that an issue of entry g of fascine i is. -/
def State.choiceOf (s : State) (p : Polder) (i g : Nat) (e : SplitEntry) : Chosen :=
  let joint := (s.lastOn p.core (p.seat i).1 e.port).bind fun x =>
    if x.beat = s.beat then x.joint else none
  { core := p.core, part := (p.seat i).1, port := e.port, beat := s.beat,
    num := if joint.isSome then 32 * (p.seat i).2 else p.candNum i g,
    joint := if p.coupled (i / 8) then some e.pc else joint }

/-- The active set of a partition: the 32 fascines that have issued last (R166). It changes timing only. -/
def State.activeSet (s : State) (core part : Nat) : List (Nat × Nat) :=
  let all := s.polders.flatMap fun p => if p.core != core then [] else
    p.fs.zipIdx.filterMap fun (f, i) => if (p.seat i).1 == part && 0 < f.ready then some ((p.h, i), f.ready) else none
  (all.filter fun x => decide ((all.filter fun y => decide (x.2 < y.2)).length < 32)).map (·.1)

/-! ## The next instruction of a sub-group -/

/-- Whether a chain under a trap enable keeps entry g from issuing its next instruction, once its last member has issued
(R104). -/
def Fascine.guarded (f : Fascine) (g : Nat) : Bool :=
  f.chains.any fun c => c.g == g && modeTen c.mode != 0 && c.st != 0 && !c.mems.isEmpty
/-- The implicit chain of entry g accepts no more members: its next instruction does not co-stream (R99). -/
def Fascine.closeChain (f : Fascine) (g : Nat) : Fascine :=
  { f with chains := f.chains.map fun (c : Chain) => if c.g = g ∧ c.st = 1 then { c with st := 2 } else c }
/-- Entry g is not eligible in this beat (R163). -/
def SplitEntry.waits (e : SplitEntry) : SplitEntry := { e with elig := false, waited := true, urgent := false }

/-- The next instruction of a sub-group made ready to issue: either the step has ended without an issue, or the latch
is set and the word is known. The beats that its distance and its port ask for pass; it issues if no other candidate of
its port comes first. -/
def State.prepare (s : State) (h i g : Nat) : State ⊕ (State × Word) :=
  let s := s.merged h i
  match s.polder? h with
  | none => .inl s.idle
  | some p =>
    match p.fs[i]? with
    | none => .inl s.idle
    | some f =>
      match f.r.ents[g]? with
      | none => .inl s.idle
      | some e =>
        let put (s : State) (e : SplitEntry) : State := s.modFasc h i fun f => { f with r := { f.r with ents := setAt f.r.ents g e } }
        if !s.mayIssue p f e then .inl s.idle
        else if f.settle && !s.settled h i f then .inl (put s e.waits).idle
        else
          match s.fetch p e.pc with
          | .error t => .inl (if t.waits then (put s e.waits).idle else s.idle.takeTrap h i g e.pc e.pc t)
          | .ok (b, s) =>
            let ctl := wordAt b 0
            let k := slotNum e.pc
            let dist := ctlDist ctl k
            if k = 1 && ctlRejoin ctl && !e.arrived then
              if f.guarded g then .inl ((put s e.waits).modFasc h i (·.closeChain g)).idle
              else .inl ((put s e.arrive).modFasc h i fun f => { f with rejoinHold := Config.freeBool (s.draw 4) }).idle
            else
              let samples := k = 1 || e.entry
              if samples && !e.passed && !f.clearAll (ctlWaitm ctl) then .inl (put s e.waits).idle
              else
                let word := wordAt b (4 * k)
                let due := f.dueBeat g dist e
                let s := s.passTo (max due (s.portFree p i (portOf word) e))
                let e := { e with passed := true }.found s.beat due (portOf word)
                let s := (put s e).survey p.core (p.seat i).1
                if s.outranked p i g f e then .inl s.idle
                else
                  let l : Latch := { h := h, f := i, g := g, dist := dist, last := ctlLast ctl k, word := word,
                                     wm0 := !samples || ctlWaitm ctl == 0, rejoin := k = 1 && ctlRejoin ctl,
                                     yieldh := ctlYieldh ctl, chosen := some (s.choiceOf p i g e) }
                  let s := s.passBeats h i g (f.gap g dist)
                  .inr ({ s with cur := some l }, word)

/-! ## The default choice -/

/-- The sub-groups that may issue, with their places. -/
def State.candidates (s : State) : List ((Nat × Nat × Nat) × (Nat × Nat × Nat)) :=
  s.polders.flatMap fun p => p.fs.zipIdx.flatMap fun (f, i) => f.r.ents.zipIdx.filterMap fun (e, g) =>
    if s.mayIssue p f e then some ((p.h, i, g), s.candKey p i g f e) else none

/-- The first of the candidates in that order. -/
def State.pick (s : State) : Option (Nat × Nat × Nat) :=
  (s.candidates.foldl (fun best c =>
    match best with
    | none => some c
    | some b => if keyLt c.2 b.2 then some c else some b) none).map (·.1)
/-- The slot at which a candidate stands. -/
def State.slotOf (s : State) (c : Nat × Nat × Nat) : Option Word := (s.fasc? c.1 c.2.1).bind fun f => (f.r.ents[c.2.2]?).map (·.pc)
/-- Of the candidates of one rank that stand at one slot, the one of the lowest fascine, as a coupled rank issues (R156). -/
def State.lead (s : State) (cs : List (Nat × Nat × Nat)) (c : Nat × Nat × Nat) : Nat × Nat × Nat :=
  (cs.find? fun x => x.1 == c.1 && x.2.1 / 8 == c.2.1 / 8 && s.slotOf x == s.slotOf c).getD c
/-- The n-th of the candidates, around; seven times of eight, the one that leads its slot. -/
def State.rotate (s : State) (n : Nat) : Option (Nat × Nat × Nat) :=
  match s.candidates.map (·.1) with
  | [] => none
  | c :: cs => ((c :: cs)[n % (cs.length + 1)]?).map fun x => if n % 8 = 7 then x else s.lead (c :: cs) x

end Sys2Proof.Machine
end

