-- ==== Sys2Proof/Machine/Barrier.lean ====
section
/-! DEFINITION. Barrier instructions, 0xB0 to 0xB6 (spec/09_barrier.md R223 to R236). -/
namespace Sys2Proof.Machine

/-- A BARERR trap: the cause (a count out of range, ERR set, a ring conflict) and the barrier (R235; its code is free,
log 13). -/
def barErr (cause b : Nat) : TrapInfo := { t := .barerr, sub := (Config.trapSub cause).toNat, data := b }

/-- The fields of a barrier instruction: the literal must name a declared barrier (R233). -/
def barDesc (a b : FChk) (n : BitVec 8) (v : V) : Desc :=
  { a := a, b := b, c := .lit (decide (n.toNat < v.p.bars.length)), unif := true }

/-- A barrier of the issuing polder. -/
def V.bar (v : V) (n : BitVec 8) : Bar := v.p.bars.getD n.toNat { exparr := 0 }
/-- A barrier of the issuing polder put back. -/
def V.setBar (w : V) (n : BitVec 8) (x : Bar) : V := { w with p := { w.p with bars := setAt w.p.bars n.toNat x } }
/-- The wait record of the issuing fascine. -/
def V.wrec (v : V) (n : BitVec 8) : WaitRec := v.f.wrec.getD n.toNat {}
/-- The wait record put back: a wait of another sub-group of the fascine on it that has passed has completed (R234). -/
def V.setRec (w : V) (n : BitVec 8) (r : WaitRec) : V :=
  let ended (e : SplitEntry) : SplitEntry := match e.hold with
    | .bar b ring =>
      if b = n.toNat ∧ w.s.barPassed w.p w.f b ring then
        let x := (w.s.bar? (if ring then w.s.leader w.p else w.p.h) b).getD { exparr := 0 }
        { e with hold := .passed b ring (max (if ring then 3 else 2) (x.scopeSince (w.wrec n).snap)) }
      else e
    | _ => e
  { w with f := { w.f with wrec := setAt w.f.wrec n.toNat r, r := { w.f.r with ents := w.f.r.ents.map ended } } }

/-- BINIT (R234). -/
def execBinit (a b : Opnd) (n : BitVec 8) (s : State) : Host.Outcome State Fault Refusal :=
  issue (s.barTurn 0) (barDesc (.u a) (.u b) n) fun v w act =>
    let x := (v.rd a (lowest act)).toNat
    let y := (v.rd b (lowest act) 1).toNat
    if 0xFFFF < x || 2 ^ 31 ≤ y then .trap (barErr 0 n.toNat)
    else .next (w.setBar n { exparr := if x = 0 then v.p.live else x, arr := 0, bytes := y, phase := (v.bar n).phase, wide := (v.bar n).wide,
                             auto := x == 0, ring := false, err := false })

/-- The fascine of the issue latch. -/
def State.issuer (s : State) : Nat := (s.cur.map (·.f)).getD 0
/-- Why an instruction on a polder barrier traps: a ring barrier (R230), or, unless it only arrives, ERR (R228); which of the two the
record names when both hold, no rule says (log 79). -/
def Bar.refuses (x : Bar) (arrives : Bool) (b : Nat) : Option TrapInfo :=
  if x.ring then some (barErr 2 b) else if x.err && !arrives then some (barErr 1 b) else none

/-- BEXP (R234): value(A) is read as n32. -/
def execBexp (a : Opnd) (n : BitVec 8) (s : State) : Host.Outcome State Fault Refusal :=
  issue (s.barTurn (atBexp s.issuer)) (barDesc (.u a) .any n) fun v w act =>
    let x := v.bar n
    let y : Int := x.bytes + (v.rd a (lowest act)).toNat
    match x.refuses false n.toNat with
    | some t => .trap t
    | none => if 2 ^ 31 - 1 < y then .trap (barErr 0 n.toNat) else .next (w.setBar n (Bar.check { x with bytes := y }))

/-- Whether a fascine may not arrive: it is split or holds parked threads (R236). -/
def V.diverged (v : V) : Bool := 1 < v.f.used || v.e.park != 0

/-- An arrival is a release (R229): it publishes the b-register writes that the fascine has ordered (R134). -/
def V.releaseAt (w : V) (b : Nat) (ring : Bool) : V :=
  let w := w.releaseB
  { w with p := w.p.publishBar (barKey b ring) w.f.bord }
/-- The observation of a phase takes what the arrivals published (R134, R229). -/
def V.take (w : V) (b : Nat) (ring : Bool) : V := { w with f := w.f.acquireB (w.p.barPub (barKey b ring)) }

/-- The record of an arrival at a barrier (R225): none is made at the greatest count. -/
def V.arriveRec (w : V) (n : BitVec 8) (x : Bar) : V :=
  if x.arr == 0xFFFF then w else w.setRec n { w.wrec n with snap := x.phase, wv := true }

/-- BARR (R234): an arrival is a release by its threads (R229); DIVERGE is checked before BARERR (log 79). -/
def execBarr (n : BitVec 8) (s : State) : Host.Outcome State Fault Refusal :=
  issue (s.barTurn (atArrival s.issuer)) (barDesc .any .any n) fun v w _ =>
    let x := v.bar n
    if v.diverged then .trap { t := .diverge }
    else
      match x.refuses true n.toNat with
      | some t => .trap t
      | none =>
        match v.engineOrder w with
        | none => .wait
        | some w => .next (((w.releaseAt n.toNat false).arriveRec n x).setBar n x.arrive)

/-- The observation of a completed phase (R229): an acquire at the barrier's scope, or a wider one of a landing that the phase has
counted. -/
def V.observe (w : V) (n : BitVec 8) (ring : Bool) (scope : Nat) : V :=
  { w with e := { w.e with hold := .none } }.acquire scope |>.take n.toNat ring
/-- The end of a wait at a barrier (R229, R234): the record is cleared. -/
def V.observed (w : V) (n : BitVec 8) (ring : Bool) (x : Bar) : V :=
  (w.setRec n { w.wrec n with wv := false, sw := false }).observe n ring (max (if ring then 3 else 2) (x.scopeSince (w.wrec n).snap))

/-- The wait of a barrier instruction: it returns when the phase has passed (R234), or has been found to have passed. -/
def V.barWait (w : V) (n : BitVec 8) (ring : Bool) (x : Bar) : Res :=
  match w.e.hold with
  | .passed _ r scope => .next (w.observe n r scope)
  | _ =>
    if w.f.passed n.toNat x then .next (w.observed n ring x)
    else .again { w with e := { w.e with hold := .bar n.toNat ring } }

/-- Whether the sub-group already waits in the instruction (R231). -/
def V.inWait (v : V) : Bool :=
  match v.e.hold with
  | .bar _ _ => true
  | .passed _ _ _ => true
  | _ => false

/-- BWAIT (R234). -/
def execBwait (n : BitVec 8) (s : State) : Host.Outcome State Fault Refusal :=
  issue s (barDesc .any .any n) fun v w _ =>
    let x := v.bar n
    if v.inWait then w.barWait n false x
    else
      match x.refuses false n.toNat with
      | some t => .trap t
      | none => (if (v.wrec n).wv then w else w.setRec n { v.wrec n with snap := x.phase, wv := true }).barWait n false x

/-- BTRY (R234). -/
def execBtry (p : Fin 8) (n : BitVec 8) (s : State) : Host.Outcome State Fault Refusal :=
  issue s (barDesc .any .any n) fun v w act =>
    let x := v.bar n
    match x.refuses false n.toNat with
    | some t => .trap t
    | none =>
      let c := v.f.passed n.toNat x
      let w := if !(v.wrec n).wv then w.setRec n { v.wrec n with snap := x.phase, wv := true } else if c then w.observed n false x else w
      .next (w.wrP p.val act fun _ => c)

/-- BSYNC (R234): one whose arrival has been made waits on (R231). -/
def execBsync (n : BitVec 8) (s : State) : Host.Outcome State Fault Refusal :=
  issue (s.barTurn (atArrival s.issuer)) (barDesc .any .any n) fun v w _ =>
    let x := v.bar n
    if v.inWait || (v.wrec n).sw then w.barWait n false x
    else if v.diverged then .trap { t := .diverge }
    else
      match x.refuses false n.toNat with
      | some t => .trap t
      | none =>
        match v.engineOrder w with
        | none => .wait
        | some w =>
          let y := x.arrive
          let w := ((w.releaseAt n.toNat false).arriveRec n x).setBar n y
          (w.setRec n { w.wrec n with sw := true }).barWait n false y

/-- A ring arrival at barrier b of the leader (R230, R231): in the beat of the leader's sample it goes to the pending section of its
image, and to the leader itself when that goes on (R383). -/
def State.ringArrive (s : State) (ld b : Nat) (y : Bar) : State :=
  let p := s.pend ld 3 0 b 0
  match s.saved? ld with
  | some _ => p.getD (s.imgEvent ld (.arrive b))
  | none => ((p.getD s).modBar? ld b fun _ => y).getD s
/-- Whether the leader of a ring can take an arrival now: of a saved one, the image can be written (R22, R231). -/
def State.ringOpen (s : State) (ld : Nat) : Bool :=
  match s.saved? ld with
  | none => true
  | some z => s.imgOpen z && z.owed.isEmpty
/-- The barrier of the leader as the arrival leaves it: one that is saved in this very beat shows it only after its restore. -/
def State.ringSeen (s : State) (ld : Nat) (x y : Bar) : Bar := if (s.saved? ld).isSome && s.inSample ld then x else y

/-- BRING (R230, R234): BSYNC on barrier b of the ring's leader. -/
def execBring (n : BitVec 8) (s : State) : Host.Outcome State Fault Refusal :=
  issue (s.barTurn (atArrival s.issuer))
    (fun v => { barDesc .any .any n v with c := .lit (decide (n.toNat < v.p.bars.length) && v.p.rcores != 0) }) fun v w _ =>
    let ld := v.s.leader v.p
    let w := { w with s := w.s.payOwed ld }
    if !w.s.ringOpen ld then .wait
    else
      match w.s.bar? ld n.toNat with
      | none => .wait
      | some x =>
        if v.inWait || (v.wrec n).sw then w.barWait n true x
        else if v.diverged then .trap { t := .diverge }
        else if x.err then .trap (barErr 1 n.toNat)
        else if !x.ring && (x.arr != 0 || x.bytes != 0) then .trap (barErr 2 n.toNat)
        else
          match v.engineOrder w with
          | none => .wait
          | some w =>
            let y := (x.mark (v.s.ringLive v.p)).arrive
            let w := (w.releaseAt n.toNat true).arriveRec n x
            let w := w.setRec n { w.wrec n with sw := true }
            let w := if ld = v.p.h then w.setBar n y else { w with s := w.s.ringArrive ld n.toNat y }
            w.barWait n true (v.s.ringSeen ld x y)

end Sys2Proof.Machine
end

