-- ==== Sys2Proof/Machine/Structure.lean ====
section
/-! DEFINITION. Structure objects and rays (spec/12_structure.md): the instructions 0xD0, 0xD1 and 0xD4 to 0xD7, and the steps
of a ray. Structure objects are read and written at their home slices (R293, log 10). -/
namespace Sys2Proof.Machine

/-! ## Engine accesses of an owner (R310, R400) -/

/-- Why an engine access does not go on: the page is not mapped; the fault on it was ended; the bytes are poisoned. -/
inductive Halted where
  | hold (f : PFault)
  | ended
  | pois
  deriving DecidableEq, Repr

/-- The outcome of an access that failed to translate, for its owner (R400). -/
def State.halted (s : State) (o : Owner) (f : PFault) : Halted :=
  if s.faults.any (fun a => a.owner == o && a.ended && a.va == f.va / 2 ^ 16 * 2 ^ 16) then .ended else .hold f

/-- Whether a fault of an owner on a page of n bytes at an address was ended: its access ends, though the page may be mapped now
(R400). -/
def State.endedOn (s : State) (o : Owner) (a n : Nat) : Bool :=
  s.faults.any fun f => f.owner == o && f.ended && decide (f.va < a + n) && decide (a < f.va + 2 ^ 16)

/-- The party that an owner's accesses come from. -/
def State.partyOf (s : State) (c : Ctx) (o : Owner) : Nat :=
  let at? (d : Option Nat) : Nat := (d.map pastFar).getD atHome
  match o with
  | .chain k => at? ((s.schains.find? (·.id == k)).map (·.die))
  | .coll k => at? ((s.colls.find? (·.id == k)).map (·.die))
  | .job k => at? ((s.jobs.find? (·.id == k)).map (·.die))
  | .ray k => at? ((s.rays.find? (·.id == k)).map fun (r : Ray) => dieOf (coreOf r.iss.h))
  | .walk k => at? ((s.walks.find? (·.id == k)).map fun (w : Walk) => dieOf (coreOf w.iss.h))
  | .matrix h _ _ | .io h _ | .trap h => pastFar (dieOf (coreOf h))
  | .packet q => pastFar (c.seqDie q)
  | .spill _ _ v => at? (c.pdie v)
  | .place k => at? ((s.grid? k).map fun (g : Grid) => c.seqDie g.q)

/-- An engine's read of n bytes at a generic address for its owner. -/
def State.objRead (s : State) (c : Ctx) (o : Owner) (h tag a n : Nat) : Except Halted (List Byte) :=
  if s.endedOn o a n then .error .ended
  else
    match s.eread c h (s.partyOf c o) tag a n with
    | .error f => .error (s.halted o f)
    | .ok (b, q) => if q then .error .pois else .ok b
/-- A write of bytes at a generic address by a party for an owner. -/
def State.objPut (s : State) (c : Ctx) (o : Owner) (party h tag a : Nat) (b : List Byte) : Except Halted State :=
  if s.endedOn o a b.length then .error .ended
  else
    match s.ewrite c h party tag a b false with
    | .error f => .error (s.halted o f)
    | .ok s => .ok s
/-- An engine's write of bytes at a generic address for its owner. -/
def State.objWrite (s : State) (c : Ctx) (o : Owner) (h tag a : Nat) (b : List Byte) : Except Halted State :=
  s.objPut c o (s.partyOf c o) h tag a b

/-! ## The object (R292, R293, R295, R297) -/

/-- STRUCT with one of its causes: no entry, no such fence, the count of pins (R312; log 13). -/
def structTrap (cause : Nat) : TrapInfo := { t := .struct, sub := (Config.trapSub (32 + cause)).toNat }

/-- The address of generation entry e. -/
def entryAddr (obj e : Nat) : Nat := obj + 64 + 32 * e
/-- The address of fence word f of entry e. -/
def fenceAddr (obj e f : Nat) : Nat := obj + 4352 + 16384 * e + 4 * f
/-- The state of an entry. -/
def entState (e : List Byte) : Nat := field e 16 3
/-- The entry with a tag in one of some states. -/
def findGen (es : List (List Byte)) (tag : Nat) (states : List Nat) : Option Nat :=
  (List.range 2).find? fun i => field (es.getD i []) 0 16 == tag && states.contains (entState (es.getD i []))

/-- Steps 6 of R59 for a structure object. -/
def objTrap (a : Nat) : Option TrapInfo :=
  if a % 4096 ≠ 0 then some { t := .misalign, addr := a }
  else if !(isGlobal a && a + 37120 ≤ 2 ^ 52) then some { t := .space, addr := a }
  else none

/-- A read of the object's entries and fence words by an instruction, at the home (R293): a failed translation raises PAGE, poison
is consumed (R129, R399). -/
def V.objGet (v : V) (tag a n : Nat) : Except TrapInfo (List Byte) :=
  match v.s.ctx? v.p.ctx with
  | none => .error (pageTrap a ⟨a, 1, 3, false⟩ false)
  | some c =>
    match v.s.gread c (pastFar v.p.die) tag 3 a n with
    | .error f => .error (pageTrap f.va f false)
    | .ok (b, q) => if q then .error { t := .poison } else .ok b

/-- An engine's read for an instruction through the far ways of its die (R218, R246), which may keep what was read. -/
def V.engGet (v w : V) (tag a n : Nat) : Except TrapInfo (List Byte × V) :=
  match v.s.ctx? v.p.ctx with
  | none => .error (pageTrap a ⟨a, 1, 3, false⟩ false)
  | some c =>
    match v.s.gread c v.p.die tag (n / 32 + 2) a n with
    | .error f => .error (pageTrap f.va f false)
    | .ok (b, q) => if q then .error { t := .poison } else .ok (b, { w with s := w.s.gfill c v.p.die tag (n / 32 + 2) a n })

/-- The entry of the object at `a` that an instruction names. -/
def V.findEntry (v : V) (a tag : Nat) (states : List Nat) : Except TrapInfo (Nat × List Byte) :=
  match v.objGet 0 (a + 64) 64 with
  | .error t => .error t
  | .ok b =>
    match findGen [b.take 32, b.drop 32] tag states with
    | none => .error (structTrap 0)
    | some e => .ok (e, (b.drop (32 * e)).take 32)

/-- The word of fence `f` of the generation with a tag (R312). -/
def V.fenceOf (v : V) (a x : Nat) : Except TrapInfo (List Byte) :=
  match v.findEntry a (x / 65536) [1, 2, 3, 4] with
  | .error t => .error t
  | .ok (e, _) => if 4096 ≤ x % 65536 then .error (structTrap 1) else v.objGet 8 (fenceAddr a e (x % 65536)) 4

/-- SFENCE (R312). -/
def execSfence (a b : Opnd) (s : State) : Host.Outcome State Fault Refusal :=
  issue s (fun _ => engineDesc (.a2u a) (.u b) .any) fun v w act =>
    let obj := v.rd2 a (lowest act)
    match objTrap obj, v.engineOrder w with
    | some t, _ => .trap t
    | none, none => .wait
    | none, some w =>
      match v.fenceOf obj (v.rd b (lowest act) 1).toNat with
      | .error t => .trap t
      | .ok f => if field f 0 2 = 0 then .wait else .next (w.acquire 5)

/-- SREADY (R312). -/
def execSready (p : Fin 8) (b c : Opnd) (s : State) : Host.Outcome State Fault Refusal :=
  issue s (fun _ => engineDesc .any (.a2u b) (.u c)) fun v w act =>
    let obj := v.rd2 b (lowest act) 1
    let x := (v.rd c (lowest act) 2).toNat
    match objTrap obj, v.engineOrder w with
    | some t, _ => .trap t
    | none, none => .wait
    | none, some w =>
      match v.fenceOf obj x with
      | .error t => .trap t
      | .ok f =>
        let ready := field f 0 2 == 1 && field f 16 16 == x / 65536
        .next ((if ready then w.acquire 5 else w).wrP p.val act fun _ => ready)

/-- GENPIN and GENUNPIN (R312): the pin count changes by one, indivisibly. -/
def pinOp (up : Bool) (b c : Opnd) (s : State) : Host.Outcome State Fault Refusal :=
  issue s (fun _ => engineDesc .any (.a2u b) (.u c)) fun v w act =>
    let obj := v.rd2 b (lowest act) 1
    match objTrap obj, v.engineOrder w with
    | some t, _ => .trap t
    | none, none => .wait
    | none, some w =>
      match v.findEntry obj ((v.rd c (lowest act) 2).toNat % 65536) [2, 3, 4], v.s.ctx? v.p.ctx with
      | .error t, _ => .trap t
      | .ok (e, x), some ctx =>
        let n := field x 96 32
        if n = (if up then 0xFFFFFFFF else 0) then .trap (structTrap 2)
        else
          match w.s.gwrite ctx (pastFar v.p.die) 16 false 2 (entryAddr obj e + 12) (leBytes 4 (if up then n + 1 else n - 1)) with
          | .error f => .trap (pageTrap f.va f false)
          | .ok s' =>
            let w := { w with s := s' }
            .next (if up then w.acquire 5 else w.releaseB)
      | .ok _, none => .trap (pageTrap obj ⟨obj, 1, 3, true⟩ false)

/-- GENPIN (R312). -/
def execGenpin (b c : Opnd) (s : State) : Host.Outcome State Fault Refusal := pinOp true b c s
/-- GENUNPIN (R312). -/
def execGenunpin (b c : Opnd) (s : State) : Host.Outcome State Fault Refusal := pinOp false b c s

/-! ## Exact geometry (R307) -/

/-- A vector of exact reals. -/
structure V3 where
  x : Q
  y : Q
  z : Q
  deriving DecidableEq, Repr

/-- Difference. -/
def V3.sub (a b : V3) : V3 := ⟨a.x.sub b.x, a.y.sub b.y, a.z.sub b.z⟩
/-- Inner product. -/
def V3.dot (a b : V3) : Q := ((a.x.mul b.x).add (a.y.mul b.y)).add (a.z.mul b.z)
/-- Cross product. -/
def V3.cross (a b : V3) : V3 :=
  ⟨(a.y.mul b.z).sub (a.z.mul b.y), (a.z.mul b.x).sub (a.x.mul b.z), (a.x.mul b.y).sub (a.y.mul b.x)⟩
/-- Coordinate on an axis. -/
def V3.at (a : V3) : Nat → Q
  | 0 => a.x
  | 1 => a.y
  | _ => a.z
/-- From its coordinates. -/
def V3.of (f : Nat → Q) : V3 := ⟨f 0, f 1, f 2⟩
/-- The zero vector. -/
def V3.isZero (a : V3) : Bool := a.x.isZero && a.y.isZero && a.z.isZero

/-- An f32 word is finite. -/
def finite32 (w : Nat) : Bool := bits w 23 8 != 255
/-- The exact value of a finite f32 word. -/
def q32 (w : Nat) : Q := (Fmt.f32.decode w).toQ
/-- Three f32 words of a record as a vector; none: one is not finite. -/
def vec32 (b : List Byte) (o : Nat) : Option V3 :=
  if (List.range 3).all fun i => finite32 (field b (8 * (o + 4 * i)) 32) then
    some (V3.of fun i => q32 (field b (8 * (o + 4 * i)) 32)) else none
/-- round_to_format(x, f32, 24, RNE), as bits. -/
def to32 (x : Q) : Nat := Fmt.f32.encode (roundFv .f32 24 {} (.ofQ x false)).1

/-- An f32 step rounded RNE. -/
def r32 (x : Fv) : Fv := (roundFv .f32 24 {} x).1
/-- f32 product, sum and quotient. -/
def fmul (a b : Fv) : Fv := r32 (a.mul b).1
/-- f32 sum. -/
def fadd (a b : Fv) : Fv := r32 (Fv.add 0 a b).1
/-- f32 quotient. -/
def fdiv (a b : Fv) : Fv := r32 (a.quot b).1
/-- A box by its corners. -/
structure Box where
  lo : V3
  hi : V3
  deriving DecidableEq, Repr

/-- The lesser and the greater of two exact reals. -/
def Q.min (a b : Q) : Q := if b.lt a then b else a
/-- The greater. -/
def Q.max (a b : Q) : Q := if a.lt b then b else a
/-- The box of two boxes. -/
def Box.union (a b : Box) : Box :=
  ⟨V3.of fun i => (a.lo.at i).min (b.lo.at i), V3.of fun i => (a.hi.at i).max (b.hi.at i)⟩

/-- A hit: t, u and v exact, the cluster, the triangle and its face. -/
structure Hit where
  t : Q
  u : Q
  v : Q
  k : Nat
  i : Nat
  back : Bool
  deriving DecidableEq, Repr

/-- The triangle test of R307 for the ray o + t d with tmin ≤ t ≤ tmax. -/
def triTest (o d : V3) (tmin tmax : Fv) (cullb cullf : Bool) (p0 p1 p2 : V3) : Option (Q × Q × Q × Bool) :=
  let e1 := p1.sub p0
  let e2 := p2.sub p0
  let n := e1.cross e2
  let dn := d.dot n
  if n.isZero || dn.isZero then none
  else
    let t := ((p0.sub o).dot n).div dn
    let w := (V3.of fun i => (o.at i).add (t.mul (d.at i))).sub p0
    let nn := n.dot n
    let u := ((w.cross e2).dot n).div nn
    let v := ((e1.cross w).dot n).div nn
    let back := decide (0 < dn.num)
    let tf := Fv.ofQ t false
    if u.num < 0 || v.num < 0 || Q.lt (Q.int 1) (u.add v) || tf.lt false tmin || tmax.lt false tf || (back && cullb) || (!back && cullf) then none
    else some (t, u, v, back)

/-- Whether the segment of the ray meets a box. -/
def boxMeets (o d : V3) (tmin tmax : Fv) (b : Box) : Bool :=
  let step (acc : Bool × Fv × Fv) (i : Nat) : Bool × Fv × Fv :=
    let (ok, lo, hi) := acc
    if (d.at i).isZero then (ok && (b.lo.at i).le (o.at i) && (o.at i).le (b.hi.at i), lo, hi)
    else
      let x := ((b.lo.at i).sub (o.at i)).div (d.at i)
      let y := ((b.hi.at i).sub (o.at i)).div (d.at i)
      (ok, lo.max (.ofQ (x.min y) false), hi.min (.ofQ (x.max y) false))
  let (ok, lo, hi) := (List.range 3).foldl step (true, tmin, tmax)
  ok && !hi.lt false lo

/-! ## Nodes (R294) -/

/-- A child entry as a record. -/
def childOf (n : List Byte) (i : Nat) : List Byte := (n.drop (32 + 12 * i)).take 12
/-- The decoded box of child entry i of a node. -/
def childBox (n : List Byte) (i : Nat) : Box :=
  let ch := childOf n i
  let cor (o : Nat) : V3 := V3.of fun a =>
    (q32 (field n (32 * a) 32)).add ((Q.int (field ch (o + 8 * a) 8)).mul (Q.pow2 ((field n (96 + 8 * a) 8 : Int) - 127)))
  ⟨cor 0, cor 24⟩

/-! ## Traversal (R306 to R310) -/

/-- A traversal in progress: nodes to visit, hits, the flags of the hit word, and whether an unready fence was met. -/
structure Trav where
  stack : List Nat
  hits : List Hit := []
  skip : Bool := false
  fault : Bool := false
  incomp : Bool := false
  budget : Bool := false
  unready : Bool := false
  deriving DecidableEq, Repr

/-- What a traversal reads: its context and owner, the generation's arena, tag, entry and clusters, and the query. -/
structure RayEnv where
  c : Ctx
  ray : Nat
  obj : Nat
  ent : Nat
  tag : Nat
  arena : Nat
  nblk : Nat
  clus : Nat
  nclus : Nat
  o : V3
  d : V3
  tmin : Fv
  tmax : Fv
  cullb : Bool
  cullf : Bool

/-- A read that sets FAULT and skips when the fault on its page was ended (R310). -/
def orFault {α : Type} (x : Except Halted α) (tr : Trav) (k : α → Except Halted Trav) : Except Halted Trav :=
  match x with
  | .ok a => k a
  | .error .ended => .ok { tr with fault := true }
  | .error e => .error e

/-- Several reads in sequence, joined. -/
def State.objReads (s : State) (c : Ctx) (o : Owner) (tag n : Nat) : List Nat → Except Halted (List Byte)
  | [] => .ok []
  | a :: as =>
    match s.objRead c o 0 tag a n, s.objReads c o (tag + 8) n as with
    | .ok x, .ok y => .ok (x ++ y)
    | .error e, _ => .error e
    | _, .error e => .error e

/-- Triangle i of cluster k, whose descriptor is cd, tested. -/
def State.rayTri (s : State) (r : RayEnv) (tag k : Nat) (cd : List Byte) (i : Nat) (tr : Trav) : Except Halted Trav :=
  orFault (s.objRead r.c (.ray r.ray) 0 tag (field cd 64 64 + 3 * i) 3) tr fun ix =>
    let cs := (List.range 3).map fun j => field ix (8 * j) 8
    if cs.any fun j => decide (field cd 136 8 ≤ j) then .ok { tr with skip := true }
    else
      orFault (s.objReads r.c (.ray r.ray) (tag + 2) 12 (cs.map fun j => field cd 0 64 + 12 * j)) tr fun vs =>
        match vec32 vs 0, vec32 vs 12, vec32 vs 24 with
        | some p0, some p1, some p2 =>
          match triTest r.o r.d r.tmin r.tmax r.cullb r.cullf p0 p1 p2 with
          | some (t, u, v, back) => .ok { tr with hits := tr.hits ++ [⟨t, u, v, k, i, back⟩] }
          | none => .ok tr
        | _, _, _ => .ok tr

/-- Child entry i of a node visited (R294, R309). -/
def State.rayChild (s : State) (r : RayEnv) (tag : Nat) (n : List Byte) (i : Nat) (tr : Trav) : Except Halted Trav :=
  let ch := childOf n i
  let off := field ch 48 32
  if field ch 80 2 = 0 then .ok tr
  else if !boxMeets r.o r.d r.tmin r.tmax (childBox n i) && Config.freeBool (s.draw (tag + i)) then .ok tr
  else
    match field ch 80 2 with
    | 1 =>
      let sub := field ch 83 13
      if 64 * r.nblk ≤ off || (flag ch 82 && 4096 ≤ sub) then .ok { tr with skip := true }
      else if !flag ch 82 then .ok { tr with stack := off :: tr.stack }
      else
        orFault (s.objRead r.c (.ray r.ray) 0 (tag + 16) (fenceAddr r.obj r.ent sub) 4) tr fun f =>
          if field f 16 16 ≠ r.tag || field f 0 2 = 2 then .ok { tr with incomp := true }
          else if field f 0 2 = 1 then .ok { tr with stack := off :: tr.stack }
          else .ok { tr with unready := true }
    | 2 =>
      if r.nclus ≤ off then .ok { tr with skip := true }
      else
        orFault (s.objRead r.c (.ray r.ray) 0 (tag + 17) (r.clus + 32 * off) 32) tr fun cd =>
          let first := field ch 82 7
          let cnt := field ch 89 7 + 1
          if field cd 128 8 < first + cnt then .ok { tr with skip := true }
          else (List.range cnt).foldl (fun acc j =>
            match acc with
            | .error e => .error e
            | .ok tr => s.rayTri r (tag + 32 + 64 * j) off cd (first + j) tr) (.ok tr)
    | _ => .ok { tr with skip := true }

/-- Nodes visited until none is left: at most `fuel` of them (R306 BUDGET). -/
def State.rayVisit (s : State) (r : RayEnv) : Nat → Trav → Except Halted Trav
  | 0, tr => .ok (if tr.stack.isEmpty then tr else { tr with budget := true })
  | fuel + 1, tr =>
    match tr.stack with
    | [] => .ok tr
    | n :: rest =>
      let tag := 2 ^ 15 * (fuel + 1)
      let tr := { tr with stack := rest }
      match orFault (s.objRead r.c (.ray r.ray) 0 tag (r.arena + 128 * n) 128) tr fun b =>
          if 8 < field b 120 4 then .ok { tr with skip := true }
          else (List.range (field b 120 4)).foldl (fun acc i =>
            match acc with
            | .error e => .error e
            | .ok tr => s.rayChild r (tag + 2 ^ 12 * i) b i tr) (.ok tr) with
      | .error e => .error e
      | .ok tr => s.rayVisit r fuel tr

/-- Whether a query is invalid (R306). -/
def badQuery (q : List Word) : Bool :=
  let w (i : Nat) : Nat := (q.getD i 0).toNat
  let f (i : Nat) : Fv := Fmt.f32.decode (w i)
  (List.range 8).any (fun i => (f i).isNan) || ([0, 1, 2, 4, 5, 6].any fun i => !finite32 (w i)) ||
    ([4, 5, 6].all fun i => (f i).isZero) || (f 7).lt false (f 3) || bits (w 8) 18 14 != 0

/-- The five result words (R306). -/
def rayResult (q : List Word) (h : Option Hit) (flags : Nat) : List Word :=
  let tag := bits (q.getD 8 0).toNat 0 16 * 65536
  let w (x : Nat) : Word := BitVec.ofNat 32 x
  match h with
  | none => [w 0x7F800000, 0, 0, 0xFFFFFFFF, w (flags + tag)]
  | some h => [w (to32 h.t), w (to32 h.u), w (to32 h.v), w h.k, w (h.i + (if h.back then 128 else 0) + 256 + flags + tag)]

/-- The closest of the hits (R308). -/
def closest : List Hit → Option Hit
  | [] => none
  | h :: hs =>
    match closest hs with
    | none => some h
    | some g =>
      if h.t.lt g.t || (h.t.eqv g.t && (h.k < g.k || (h.k == g.k && h.i ≤ g.i))) then some h else some g

/-- Flags of a traversal in the hit word. -/
def Trav.flags (tr : Trav) : Nat :=
  (if tr.skip then 512 else 0) + (if tr.fault then 1024 else 0) + (if tr.incomp then 2048 else 0) + (if tr.budget then 8192 else 0)

/-- The traversal of a ray from the root (R309): none while it must wait for a fence. -/
def State.rayRun (s : State) (c : Ctx) (r : Ray) (e : Nat) : Except Halted (Option (List Word)) :=
  let w (i : Nat) : Nat := (r.query.getD i 0).toNat
  let o := Owner.ray r.id
  match s.objRead c o 0 1 r.obj 32, s.objRead c o 0 2 (entryAddr r.obj e) 32, s.objRead c o 0 3 (fenceAddr r.obj e 1) 4 with
  | .ok hd, .ok en, .ok f =>
    let env : RayEnv :=
      { c := c, ray := r.id, obj := r.obj, ent := e, tag := w 8 % 65536, arena := field hd (if flag en 19 then 64 else 0) 64,
        nblk := field hd 128 16, clus := field en 128 64, nclus := field en 192 32, o := V3.of fun i => q32 (w i),
        d := V3.of fun i => q32 (w (4 + i)), tmin := Fmt.f32.decode (w 3), tmax := Fmt.f32.decode (w 7), cullb := bit (w 8) 16,
        cullf := bit (w 8) 17 }
    if field f 0 2 = 0 then .ok none
    else if field f 0 2 = 2 || field f 16 16 ≠ env.tag then .ok (some (rayResult r.query none 2048))
    else
      match s.rayVisit env 1048576 { stack := [field en 32 32] } with
      | .error e => .error e
      | .ok tr =>
        if r.any then  -- some hit, found before what is left was visited (R308)
          match tr.hits[s.choose (2 ^ 39) tr.hits.length]? with
          | some h => .ok (some (rayResult r.query (some h) (if Config.freeBool (s.draw (2 ^ 39 + 1)) then tr.flags else 0)))
          | none => .ok (if tr.unready then none else some (rayResult r.query none tr.flags))
        else .ok (if tr.unready then none else some (rayResult r.query (closest tr.hits) tr.flags))
  | .error .ended, _, _ => .ok (some (rayResult r.query none 1024))
  | _, .error .ended, _ => .ok (some (rayResult r.query none 1024))
  | _, _, .error .ended => .ok (some (rayResult r.query none 1024))
  | .error e, _, _ => .error e
  | _, .error e, _ => .error e
  | _, _, .error e => .error e

/-- The ray with a name. -/
def State.ray? (s : State) (id : Nat) : Option Ray := s.rays.find? (·.id == id)
/-- A ray put back. -/
def State.setRay (s : State) (r : Ray) : State := { s with rays := s.rays.map fun (x : Ray) => if x.id = r.id then r else x }

/-- Result words written to a thread's v-registers from `dst` on. -/
def Polder.deliverBlock (p : Polder) (f g id t dst : Nat) (ws : List Word) : Polder :=
  p.modF f fun x => ws.zipIdx.foldl (fun x y =>
    x.deliver g (Opnd.ofByte (BitVec.ofNat 8 (dst + y.2))) (maskOf (· == t) &&& ~~~(x.taken (2 * id + 1) (dst + y.2)))
      (fun _ => y.1) (fun _ => false)) x

/-- A ray has its result (R312): it is written unless its thread has gone, and with the last ray of its instruction the holds
are released and F3 drops. -/
def State.endRay (s : State) (r : Ray) (ws : List Word) : State :=
  let s := if r.keep then s.modPolder r.iss.h fun p => p.deliverBlock r.iss.f r.g r.id r.t r.dst ws else s
  let s := (s.setRay { r with done := true, parked := false }).clearFaults (.ray r.id)
  if s.rays.all fun x => x.inst != r.inst || x.done then
    { s with rays := s.rays.filter (·.inst != r.inst) }.modFasc r.iss.h r.iss.f fun f => { f with cnt := modAt f.cnt 3 (· - 1) }
  else s

/-- The hold of R298, once the entries can be read. -/
def State.rayLook (s : State) (c : Ctx) (r : Ray) : Except Halted Ray :=
  if r.looked then .ok r
  else
    match s.objRead c (.ray r.id) 0 0 (r.obj + 64) 64 with
    | .ok b => .ok { r with looked := true, held := findGen [b.take 32, b.drop 32] (bits (r.query.getD 8 0).toNat 0 16) [1, 2, 3, 4] }
    | .error .ended => .ok { r with looked := true }
    | .error e => .error e

/-- Virtual ranges that a ray's traversal reads (R292 to R296): the object with its fences, its two arenas, the clusters of its
generation, and the vertices and indices of one of them. -/
def State.rayRanges (s : State) (c : Ctx) (r : Ray) : List (Nat × Nat) :=
  let get (a n : Nat) : List Byte := ((s.gread c atHome (2 ^ 39) (n / 32 + 2) a n).toOption.map (·.1)).getD (List.replicate n 0)
  let hd := get r.obj 32
  let en := get (entryAddr r.obj (r.held.getD 0)) 32
  let clus := field en 128 64
  let cd := get (clus + 32 * s.choose (2 ^ 39 + 2 ^ 36) (field en 192 32)) 32
  (if r.held.isSome then [(field hd 0 64, 8192 * field hd 128 16), (field hd 64 64, 8192 * field hd 128 16), (clus, 32 * field en 192 32),
                           (field cd 0 64, 12 * field cd 136 8), (field cd 64 64, 3 * field cd 128 8)] else []) ++ [(r.obj, 32), (r.obj + 4352, 32768)]

/-- A ray runs: it ends, parks, or is held by a fault (R309, R310). -/
def State.runRay (s : State) (id : Nat) : State :=
  match s.ray? id with
  | none => s
  | some r =>
    match s.ctx? ((s.body? r.iss.h).map (·.ctx) |>.getD 4096) with
    | none => s
    | some c =>
      if r.done || s.faults.any (fun a => a.owner == .ray id && !a.ended) then s
      else if badQuery r.query then s.endRay r (rayResult r.query none 16384)
      else
        let run : Except Halted (Ray × Option (List Word)) :=
          match s.rayLook c r with
          | .error e => .error e
          | .ok r =>
            match r.held with
            | none =>
              .ok (r, some (rayResult r.query none (if s.faults.any (fun a => a.owner == .ray id) then 1024 else 4096)))
            | some e => (s.rayRun c r e).map fun x => (r, x)
        let s := s.strayFar c (dieOf (coreOf r.iss.h)) (s.strayAt (s.rayRanges c r))
        match run with
        | .error (.hold f) => s.holdFault c (.ray id) f
        | .error .pois => (s.contextDead c.c).endRay { r with keep := false } []
        | .error .ended => s
        | .ok (r, some ws) => s.endRay r ws
        | .ok (r, none) => s.setRay { r with parked := true }

/-- RAY_COMPLETE (R308). -/
def execRayComplete (k : Nat) (s : State) : Host.Outcome State Fault Refusal := .next (s.runRay k).idle

/-- RAY_PARK_RECHECK (R309): a parked ray reads its fence again. -/
def execRayParkRecheck (k : Nat) (s : State) : Host.Outcome State Fault Refusal :=
  match s.ray? k with
  | some r => .next (if r.parked then s.runRay k else s).idle
  | none => .next s.idle

/-- Threads in flight in the ray and march unit of a core: 1024 at most (R309, R338). -/
def State.unitLoad (s : State) (core : Nat) : Nat :=
  (s.rays.filter fun r => coreOf r.iss.h == core && !r.done).length + (s.walks.filter fun r => coreOf r.iss.h == core).length

/-- TRACE and TRACEA (R306, R311, R312). -/
def traceOp (any : Bool) (a b c : Opnd) (s : State) : Host.Outcome State Fault Refusal :=
  issue s (fun _ => { a := .vr 5 false a, b := .vq 9 b, c := .a2u c, wall := true }) fun v w act =>
    let obj := v.rd2 c (lowest act) 2
    let dsts := (List.range 5).map a.plus
    match objTrap obj with
    | some t => .trap t
    | none =>
      if !w.capOk dsts then .trap { t := .regcap }
      else if 1024 < v.s.unitLoad v.p.core + (threadsOf act).length then .wait
      else
        match v.engineOrder w with
        | none => .wait
        | some w =>
          let inst := w.s.nextId
          let entries := (v.objGet 0 (obj + 64) 64).toOption
          let ray (x : Nat × Nat) : Ray :=
            let q := (List.range 9).map fun i => v.rd (b.plus i) x.1 1
            { id := inst + 1 + x.2, iss := { h := v.l.h, f := v.l.f }, g := v.l.g, t := x.1, inst := inst, any := any, dst := a.code,
              obj := obj, query := q, looked := entries.isSome,
              held := entries.bind fun e => findGen [e.take 32, e.drop 32] (bits (q.getD 8 0).toNat 0 16) [1, 2, 3, 4] }
          let rays := (threadsOf act).zipIdx.map ray
          let w := dsts.foldl (fun w o => w.bindDst act o) { w with f := { w.f with cnt := modAt w.f.cnt 3 (· + 1) } }
          .next { w with s := { w.s with rays := w.s.rays ++ rays, nextId := inst + 1 + rays.length } }

/-- TRACE (R312). -/
def execTrace (a b c : Opnd) (s : State) : Host.Outcome State Fault Refusal := traceOp false a b c s
/-- TRACEA (R312). -/
def execTracea (a b c : Opnd) (s : State) : Host.Outcome State Fault Refusal := traceOp true a b c s

end Sys2Proof.Machine
end

