-- ==== Sys2Proof/Machine/Build.lean ====
section
/-! DEFINITION. Structure builders and compactors (spec/12_structure.md R291 to R305): BUILD, REFIT, COMPACT and the steps
of their jobs. The shape of a tree, its fences inside a part and its exponents are the builder's choice, and so free (log 10). -/
namespace Sys2Proof.Machine

/-! ## Clusters -/

/-- A cluster as a job reads it: descriptor and vertices (none: not finite). -/
structure Clu where
  ntri : Nat
  verts : List (Option V3)
  deriving DecidableEq, Repr

/-- A descriptor outside R291: code DESC. -/
def cluBad (d : List Byte) : Bool :=
  field d 0 64 % 4 != 0 || 128 < field d 128 8 || field d 136 8 == 0 || 64 < field d 136 8 || field d 144 112 != 0 ||
    !(isGlobal (field d 0 64) && field d 0 64 + 12 * field d 136 8 ≤ 2 ^ 52) ||
    !(isGlobal (field d 64 64) && field d 64 64 + 3 * field d 128 8 ≤ 2 ^ 52)

/-- The exact bounds of some points; none: there are none. -/
def boundsOf : List V3 → Option Box
  | [] => none
  | p :: ps => some (ps.foldl (fun b q => b.union ⟨q, q⟩) ⟨p, p⟩)
/-- The box of a cluster: its finite vertices. -/
def Clu.box (c : Clu) : Box := (boundsOf (c.verts.filterMap id)).getD ⟨V3.of fun _ => Q.int 0, V3.of fun _ => Q.int 0⟩
/-- Whether a cluster is included (R303). -/
def Clu.included (c : Clu) : Bool := c.ntri != 0 && c.verts.all (·.isSome)
/-- The centre of a box. -/
def Box.centre (b : Box) : V3 := V3.of fun a => ((b.lo.at a).add (b.hi.at a)).mul ⟨1, 2⟩

/-- Cluster descriptors read from cluster k on, n of them. -/
def State.readClus (s : State) (c : Ctx) (o : Owner) (base k : Nat) : Nat → Except Halted (List (List Byte))
  | 0 => .ok []
  | n + 1 =>
    match s.objRead c o 0 (4 * n) (base + 32 * k) 32, s.readClus c o base (k + 1) n with
    | .ok d, .ok ds => .ok (d :: ds)
    | .error e, _ => .error e
    | _, .error e => .error e
/-- Their vertices read. -/
def State.readVerts (s : State) (c : Ctx) (o : Owner) : List (List Byte) → Except Halted (List Clu)
  | [] => .ok []
  | d :: ds =>
    match s.objRead c o 0 (32 * ds.length) (field d 0 64) (12 * field d 136 8), s.readVerts c o ds with
    | .ok b, .ok cs => .ok ({ ntri := field d 128 8, verts := (List.range (field d 136 8)).map fun j => vec32 b (12 * j) } :: cs)
    | .error e, _ => .error e
    | _, .error e => .error e

/-! ## Trees -/

/-- A child entry of a node in the making: none, an inner node by its place in preorder, or a leaf. -/
inductive Kid where
  | none
  | inner (i : Nat)
  | leaf (k first cnt : Nat)
  deriving DecidableEq, Repr

/-- A node in the making: its parent, the fence of the subtree it roots, its children, and its bytes in the source. -/
structure BNode where
  par : Option Nat
  fence : Option Nat
  kids : List Kid := []
  old : Option (List Byte) := none
  cost : Option Fv := none                -- the cost with which a REFIT tested it (R304)
  exps : List Nat := []                   -- the exponents of that test
  deriving DecidableEq, Repr

/-- A list cut into r + 1 pieces that are not empty when it has that many elements; where is free. -/
def State.cut (s : State) (tag : Nat) : Nat → List Nat → List (List Nat)
  | 0, l => [l]
  | r + 1, l =>
    let n := 1 + s.choose (tag + r) (l.length - (r + 1))
    l.take n :: s.cut tag r (l.drop n)

/-- A tree over clusters in their order put behind the nodes of a list (R303 step 5): the nodes and the next fence number. `must`:
every inner child is the root of a fenced subtree, for which 8 fences are kept; fences from `cap` on are not used. -/
def State.grow (s : State) (clus : List Clu) (cap : Nat) : Nat → List Nat → Option Nat → Option Nat → Bool → List BNode × Nat →
    List BNode × Nat
  | 0, _, _, _, _, acc => acc
  | fuel + 1, cs, par, fence, must, (ns, nf) =>
    let i := ns.length
    let leaf (k : Nat) : Kid := .leaf k 0 ((clus.getD k ⟨0, []⟩).ntri)
    let parts := if cs.length ≤ 1 then cs.map fun k => [k] else s.cut (2 ^ 20 + 16 * i) (1 + s.choose (2 ^ 30 + i) (min 7 (cs.length - 1))) cs
    let step (acc : List BNode × Nat × List Kid) (part : List Nat) : List BNode × Nat × List Kid :=
      let (ns, nf, kids) := acc
      match part with
      | [k] => (ns, nf, kids ++ [leaf k])
      | _ =>
        let j := ns.length
        let fenced := nf < cap && (must || Config.freeBool (s.draw (2 ^ 31 + j)))
        let (ns, nf) := s.grow clus (if must then cap - 8 else cap) fuel part (some i) (if fenced then some nf else none) false (ns, if fenced then nf + 1 else nf)
        (ns, nf, kids ++ [.inner j])
    let (ns, nf, kids) := parts.foldl step (ns ++ [{ par := par, fence := fence }], nf, [])
    (modAt ns i fun n => { n with kids := kids }, nf)

/-- The Morton code of a centroid over the bounds of a part (R303 step 4). -/
def morton (b : Box) (c : V3) : Nat :=
  let q (a : Nat) : Nat :=
    if (b.hi.at a).eqv (b.lo.at a) then 0
    else min ((((c.at a).sub (b.lo.at a)).div ((b.hi.at a).sub (b.lo.at a))).mul (Q.pow2 21)).floor.toNat (2 ^ 21 - 1)
  (List.range 21).foldl (fun n i =>
    n + (bits (q 0) i 1 * 4 + bits (q 1) i 1 * 2 + bits (q 2) i 1) * 2 ^ (3 * i)) 0

/-- Clusters of a part in the order of R303 step 4. -/
def sortPart (clus : List Clu) (cs : List Nat) : List Nat :=
  let ctr (k : Nat) : V3 := (clus.getD k ⟨0, []⟩).box.centre
  match boundsOf (cs.map ctr) with
  | none => []
  | some b => (cs.foldl (fun l k => insertKey id (morton b (ctr k) * 2 ^ 24 + k) l) []).map (· % 2 ^ 24)

/-- The two halves of a part (R303 step 2). -/
def halves (clus : List Clu) (cs : List Nat) : List Nat × List Nat :=
  let ctr (k : Nat) : V3 := (clus.getD k ⟨0, []⟩).box.centre
  match boundsOf (cs.map ctr) with
  | none => ([], [])
  | some b =>
    let len (a : Nat) : Q := (b.hi.at a).sub (b.lo.at a)
    let ax := if (len 0).lt (len 1) then (if (len 1).lt (len 2) then 2 else 1) else if (len 0).lt (len 2) then 2 else 0
    let m := b.centre.at ax
    let fst := cs.filter fun k => ((ctr k).at ax).lt m
    let snd := cs.filter fun k => !((ctr k).at ax).lt m
    if fst.isEmpty || snd.isEmpty then (cs.take ((cs.length + 1) / 2), cs.drop ((cs.length + 1) / 2)) else (fst, snd)

/-- The tree of a BUILD (R303): its nodes and the number of its fences. -/
def State.buildTree (s : State) (clus : List Clu) (split : Bool) : List BNode × Nat :=
  let inc := (List.range clus.length).filter fun k => (clus.getD k ⟨0, []⟩).included
  if !split then s.grow clus 4096 (inc.length + 1) (sortPart clus inc) none none true ([], 6)
  else
    let (a, b) := halves clus inc
    let qs := [(halves clus a).1, (halves clus a).2, (halves clus b).1, (halves clus b).2]
    let step (acc : List BNode × Nat × List Kid) (x : List Nat × Nat) : List BNode × Nat × List Kid :=
      let (ns, nf, kids) := acc
      if x.1.isEmpty then (ns, nf, kids ++ [.none])
      else
        let j := ns.length
        let (ns, nf) := s.grow clus 4096 (x.1.length + 1) (sortPart clus x.1) (some 0) (some (2 + x.2)) false (ns, nf)
        (ns, nf, kids ++ [.inner j])
    let (ns, nf, kids) := qs.zipIdx.foldl step ([{ par := none, fence := none }], 6, [])
    (modAt ns 0 fun n => { n with kids := kids }, nf)

/-! ## Boxes, costs and bytes (R294) -/

/-- What is computed of a node: its exact box, and its bounds as encoded. -/
structure NodeBox where
  box : Box
  exps : List Nat
  qs : List (List Nat × List Nat)
  deriving DecidableEq, Repr

/-- The exact box of a leaf entry: the vertices of its cluster. -/
def Kid.box (clus : List Clu) (kids : Nat → Box) : Kid → Option Box
  | .none => Option.none
  | .inner j => some (kids j)
  | .leaf k _ _ => some (clus.getD k ⟨0, []⟩).box

/-- The least exponent byte with which an extent is at most 255 steps. -/
def leastExp (x : Q) : Nat := ((List.range 255).find? fun (e : Nat) => x.le ((Q.int 255).mul (Q.pow2 ((e : Int) - 127)))).getD 254

/-- Boxes of the nodes from place i on, bottom-up: a child stands behind its parent in preorder. -/
def State.boxes (s : State) (clus : List Clu) : List BNode → Nat → List NodeBox
  | [], _ => []
  | n :: ns, i =>
    let rest := s.boxes clus ns (i + 1)
    let zero : Box := ⟨V3.of fun _ => Q.int 0, V3.of fun _ => Q.int 0⟩
    let kid (j : Nat) : Box := ((rest[j - (i + 1)]?).map (·.box)).getD zero
    let bs := n.kids.map (Kid.box clus kid)
    let box := ((bs.filterMap id).foldl (fun a b => match a with
      | none => some b
      | some a => some (a.union b)) none).getD zero
    let exps := (List.range 3).map fun a =>
      let e := leastExp ((box.hi.at a).sub (box.lo.at a))
      max e (match n.exps[a]? with
        | some x => x
        | none => e + s.choose (2 ^ 32 + 4 * i + a) (255 - e))
    let q (a : Nat) (x : Q) : Q := (x.sub (box.lo.at a)).mul (Q.pow2 (127 - (exps.getD a 0 : Int)))
    let enc (b : Option Box) : List Nat × List Nat := match b with
      | none => ([0, 0, 0], [0, 0, 0])
      | some b => ((List.range 3).map fun a => (q a (b.lo.at a)).floor.toNat,
                   (List.range 3).map fun a => (-((q a (b.hi.at a)).neg.floor)).toNat)
    ⟨box, exps, bs.map enc⟩ :: rest

/-- A child entry's decoded box. -/
def NodeBox.decoded (b : NodeBox) (i : Nat) : Box :=
  let (lo, hi) := b.qs.getD i ([], [])
  let cor (l : List Nat) : V3 := V3.of fun a =>
    (b.box.lo.at a).add ((Q.int (l.getD a 0)).mul (Q.pow2 ((b.exps.getD a 0 : Int) - 127)))
  ⟨cor lo, cor hi⟩

/-- The surface area of a box in f32 steps. -/
def area (b : Box) : Fv :=
  let e (a : Nat) : Fv := r32 (.ofQ ((b.hi.at a).sub (b.lo.at a)) false)
  fmul (.fin (Q.int 2)) (fadd (fadd (fmul (e 0) (e 1)) (fmul (e 1) (e 2))) (fmul (e 2) (e 0)))

/-- SAH of the nodes from place i on, bottom-up (R294). -/
def costs (ns : List BNode) (bs : List NodeBox) : Nat → Nat → List Fv
  | 0, _ => []
  | fuel + 1, i =>
    match ns[i]?, bs[i]? with
    | some n, some b =>
      let rest := costs ns bs fuel (i + 1)
      let used := n.kids.zipIdx.filter (·.1 != .none)
      let un := used.foldl (fun (a : Option Box) x => match a with
        | none => some (b.decoded x.2)
        | some y => some (y.union (b.decoded x.2))) none
      let an := area (un.getD b.box)
      let c := used.foldl (fun acc x =>
        let ratio := if an.isZero then .fin (Q.int 1) else fdiv (area (b.decoded x.2)) an
        let cost : Fv := match x.1 with
          | .inner j => rest.getD (j - (i + 1)) (.fin (Q.int 1))
          | .leaf _ _ n => r32 (.ofQ (Q.of n 4) false)
          | .none => .zero false false
        fadd acc (fmul ratio cost)) (Fv.fin (Q.int 1))
      c :: rest
    | _, _ => []

/-- The bytes of child entry i of a node, whose inner children lie at `phys` (R294). -/
def kidBytes (ns : List BNode) (b : NodeBox) (phys : Nat → Nat) (k : Kid) (i : Nat) : List Byte :=
  let (lo, hi) := b.qs.getD i ([], [])
  let q := lo.map (BitVec.ofNat 8) ++ hi.map (BitVec.ofNat 8)
  match k with
  | .none => leBytes 12 0
  | .inner j => q ++ leBytes 4 (phys j) ++ leBytes 2 (1 + (match (ns[j]?).bind (·.fence) with
      | some f => 4 + 8 * f
      | none => 0))
  | .leaf k first cnt => q ++ leBytes 4 k ++ leBytes 2 (2 + 4 * first + 512 * (cnt - 1))

/-- The bytes of a node (R294): origin, exponents, count, SAH and what depends on how it came to be. -/
def nodeBytes (ns : List BNode) (bs : List NodeBox) (cs : List Fv) (phys : Nat → Nat) (tag i : Nat) : List Byte :=
  match ns[i]?, bs[i]? with
  | some n, some b =>
    let c := cs.getD i (.fin (Q.int 1))
    let org := (List.range 3).flatMap fun a => leBytes 4 (to32 (b.box.lo.at a))
    let f32 (x : Fv) : Nat := Fmt.f32.encode x
    let (sah, grow, nref, bgen) : Nat × Nat × Nat × Nat := match n.old with
      | none => (f32 c, 0x3C00, 0, tag)
      | some o => (field o 128 32, Fmt.f16.encode (roundFv .f16 11 {} ((n.cost.getD c).quot (Fmt.f32.decode (field o 128 32))).1).1,
                   min 0xFFFF (field o 176 16 + 1), field o 192 16)
    let par := match n.par with
      | some p => phys p
      | none => 0xFFFFFFFF
    org ++ b.exps.map (BitVec.ofNat 8) ++ leBytes 1 (n.kids.length + (if n.fence.isSome then 16 else 0)) ++ leBytes 4 sah ++
      leBytes 2 grow ++ leBytes 2 nref ++ leBytes 2 bgen ++ leBytes 2 0 ++ leBytes 4 par ++
      (n.kids.zipIdx.flatMap fun x => kidBytes ns b phys x.1 x.2) ++ leBytes (12 * (8 - n.kids.length)) 0
  | _, _ => []

/-- The bytes of a relocated node: its indices and its place follow, the rest is kept (R305). -/
def movedBytes (ns : List BNode) (phys : Nat → Nat) (i : Nat) : List Byte :=
  match ns[i]? with
  | none => []
  | some n =>
    let b := patch (n.old.getD []) 28 (leBytes 4 (match n.par with
      | some p => phys p
      | none => 0xFFFFFFFF))
    n.kids.zipIdx.foldl (fun b x => match x.1 with
      | .inner j => patch b (32 + 12 * x.2 + 6) (leBytes 4 (phys j))
      | _ => b) b

/-! ## Source trees (R304, R305) -/

/-- A generation's tree read from memory, in depth-first order, put behind the nodes of a list. -/
def State.loadTree (s : State) (c : Ctx) (o : Owner) (arena nblk : Nat) : Nat → Nat → Option Nat → Option Nat → List BNode →
    Except Halted (List BNode)
  | 0, _, _, _, ns => .ok ns
  | fuel + 1, at_, par, fence, ns =>
    match s.objRead c o 0 (64 * ns.length) (arena + 128 * at_) 128 with
    | .error e => .error e
    | .ok b =>
      let i := ns.length
      let step (acc : Except Halted (List BNode × List Kid)) (m : Nat) : Except Halted (List BNode × List Kid) :=
        match acc with
        | .error e => .error e
        | .ok (ns, kids) =>
          let ch := childOf b m
          match field ch 80 2 with
          | 1 =>
            if 64 * nblk ≤ field ch 48 32 || 64 * nblk ≤ ns.length then .ok (ns, kids ++ [.none])
            else
              match s.loadTree c o arena nblk fuel (field ch 48 32) (some i) (if flag ch 82 then some (field ch 83 13) else none) ns with
              | .error e => .error e
              | .ok ns' => .ok (ns', kids ++ [.inner ns.length])
          | 2 => .ok (ns, kids ++ [.leaf (field ch 48 32) (field ch 82 7) (field ch 89 7 + 1)])
          | _ => .ok (ns, kids ++ [.none])
      match (List.range (min 8 (field b 120 4))).foldl step (.ok (ns ++ [{ par := par, fence := fence, old := some b }], [])) with
      | .error e => .error e
      | .ok (ns, kids) => .ok (modAt ns i fun n => { n with kids := kids })

/-- The clusters under a node. -/
def leavesUnder (ns : List BNode) : Nat → Nat → List Nat
  | 0, _ => []
  | fuel + 1, i => ((ns[i]?).map (·.kids)).getD [] |>.flatMap fun k => match k with
    | .leaf k _ _ => [k]
    | .inner j => leavesUnder ns fuel j
    | .none => []
/-- The fences of the subtrees under a node, its own apart. -/
def fencesUnder (ns : List BNode) : Nat → Nat → List Nat
  | 0, _ => []
  | fuel + 1, i => ((ns[i]?).map (·.kids)).getD [] |>.flatMap fun k => match k with
    | .inner j => ((ns[j]?).bind (·.fence)).toList ++ fencesUnder ns fuel j
    | _ => []

/-- Whether REFIT rebuilds the fenced subtree at a node (R304). -/
def rebuilds (job : List Byte) (c : Fv) (old : List Byte) : Bool :=
  let sah := Fmt.f32.decode (field old 128 32)
  (Fmt.f16.decode (field job 192 16)).lt false (c.quot sah).1 ||
    (field job 208 16 != 0 && decide (field job 208 16 ≤ field old 176 16 + 1))

/-- The tree of a REFIT: the source copied, with the subtrees that are rebuilt grown anew; also the fences that went with
each of them. -/
def State.refitTree (s : State) (clus : List Clu) (job : List Byte) (src : List BNode) (cs : List Fv) : Nat → Nat → Option Nat →
    List BNode × List (Nat × List Nat) → List BNode × List (Nat × List Nat)
  | 0, _, _, acc => acc
  | fuel + 1, i, par, (ns, gone) =>
    match src[i]? with
    | none => (ns, gone)
    | some n =>
      match n.fence with
      | some f =>
        if rebuilds job (cs.getD i (.fin (Q.int 1))) (n.old.getD []) then
          let inc := ((leavesUnder src src.length i).eraseDups).filter fun k => (clus.getD k ⟨0, []⟩).included
          ((s.grow clus 0 (inc.length + 1) (sortPart clus inc) par (some f) false (ns, 0)).1, gone ++ [(f, fencesUnder src src.length i)])
        else copy fuel n par ns gone
      | none => copy fuel n par ns gone
where
  copy (fuel : Nat) (n : BNode) (par : Option Nat) (ns : List BNode) (gone : List (Nat × List Nat)) :
      List BNode × List (Nat × List Nat) :=
    let i := ns.length
    let step (acc : List BNode × List (Nat × List Nat) × List Kid) (k : Kid) : List BNode × List (Nat × List Nat) × List Kid :=
      let (ns, gone, kids) := acc
      match k with
      | .inner j =>
        let (ns', gone) := s.refitTree clus job src cs fuel j (some i) (ns, gone)
        (ns', gone, kids ++ [.inner ns.length])
      | k => (ns, gone, kids ++ [k])
    let (ns, gone, kids) := n.kids.foldl step (ns ++ [{ n with par := par, kids := [] }], gone, [])
    (modAt ns i fun n => { n with kids := kids }, gone)

/-! ## Plans -/

/-- The fence whose subtree a node is written with (R295): that of the nearest fenced root above it, or fence 1. -/
def fenceAbove (ns : List BNode) : Nat → Nat → Nat
  | 0, _ => 1
  | fuel + 1, i =>
    match ns[i]? with
    | none => 1
    | some n =>
      match n.fence, n.par with
      | some f, _ => f
      | none, some p => fenceAbove ns fuel p
      | none, none => 1

/-- The plan of a generation: per fence the fences that become ready with it, those inside it, and its writes. -/
def planOf (ns : List BNode) (nfence : Nat) (atOnce : Bool) (gone : List (Nat × List Nat)) (write : Nat → Nat × List Byte) :
    List (List Nat × List Nat × List (Nat × List Byte)) :=
  let idx := List.range ns.length
  let roots := idx.filterMap fun i => ((ns[i]?).bind (·.fence)).map fun f => (f, i)
  let vanished (f : Nat) : List Nat := ((gone.find? (·.1 == f)).map (·.2)).getD []
  let covered := roots.flatMap fun r => r.1 :: vanished r.1
  let bare := (List.range nfence).filter fun f => 2 ≤ f && !covered.contains f
  let of (f : Nat) : List (Nat × List Byte) := (idx.filter fun i => fenceAbove ns ns.length i == f).map write
  let inner (f : Nat) : List Nat := roots.filterMap fun r =>
    match (ns[r.2]?).bind (·.par) with
    | some p => if fenceAbove ns ns.length p = f then some r.1 else none
    | none => none
  (1 :: (if atOnce then [] else bare), [], of 1) :: (if atOnce then bare.map fun f => ([f], [], []) else []) ++
    roots.map fun r => (r.1 :: vanished r.1, inner r.1, of r.1)

/-- Owner codes of the blocks of an arena (R292). -/
def ownerOf (m : List Byte) (b : Nat) : Nat := field m (2 * b) 2
/-- A block's owner code set. -/
def setOwner (m : List Byte) (b x : Nat) : List Byte :=
  modAt m (b / 4) fun y => BitVec.ofNat 8 (y.toNat - bits y.toNat (2 * (b % 4)) 2 * 4 ^ (b % 4) + x * 4 ^ (b % 4))
/-- Free blocks of a map, lowest first. -/
def freeBlocks (m : List Byte) (nblk : Nat) : List Nat := (List.range nblk).filter fun b => ownerOf m b == 0
/-- The address of the owner map of an arena. -/
def mapAddr (obj arn : Nat) : Nat := obj + 256 + 2048 * arn
/-- The longest run of consecutive free blocks. -/
def longestRun (m : List Byte) (nblk : Nat) : Nat :=
  ((List.range nblk).foldl (fun (acc : Nat × Nat) b =>
    let run := if ownerOf m b = 0 then acc.2 + 1 else 0
    (max acc.1 run, run)) (0, 0)).1

/-! ## Jobs (R300 to R302) -/

/-- A job by its name. -/
def State.job? (s : State) (id : Nat) : Option Job := s.jobs.find? (·.id == id)
/-- A job put back. -/
def State.setJob (s : State) (j : Job) : State := { s with jobs := s.jobs.map fun (x : Job) => if x.id = j.id then j else x }
/-- The polder in whose scratchpad a job's record may lie. -/
def Job.home (j : Job) : Nat := (j.iss.map (·.h)).getD 0
/-- The structure object of a job. -/
def Job.obj (j : Job) : Nat := field j.job 0 64

/-- BUILD, REFIT and COMPACT (R301, R302, R312). -/
def jobOp (kind : Nat) (a : Opnd) (k : BitVec 3) (s : State) : Host.Outcome State Fault Refusal :=
  issue s (fun _ => engineDesc (.a2u a) .any .any) fun v w act =>
    let x := v.rd2 a (lowest act)
    let queued := v.s.jobs.filter fun j => j.die == v.p.die && j.st == 0 && (j.kind == 2) == (kind == 2)
    if x % 64 ≠ 0 then .trap { t := .misalign, addr := x }
    else if !inSpace v.p.spsize x 64 then .trap { t := .space, addr := x }
    else if v.f.tok.getLsbD k.toNat then .wait
    else if kind ≠ 2 && 64 ≤ queued.length then .wait
    else
      match v.engineOrder w with
      | none => .wait
      | some w =>
        let j : Job := { id := w.s.nextId, kind := kind, ctx := v.p.ctx, die := v.p.die, iss := some { h := v.l.h, f := v.l.f },
                         tok := k.toNat, addr := x }
        .next { w.setTokens (bit8 k.toNat) k.toNat false with
                  s := { w.s with jobs := w.s.jobs ++ [j], nextId := w.s.nextId + 1 } }

/-- BUILD (R312). -/
def execBuild (a : Opnd) (k : BitVec 3) (s : State) : Host.Outcome State Fault Refusal := jobOp 0 a k s
/-- REFIT (R312). -/
def execRefit (a : Opnd) (k : BitVec 3) (s : State) : Host.Outcome State Fault Refusal := jobOp 1 a k s
/-- COMPACT (R312). -/
def execCompact (a : Opnd) (k : BitVec 3) (s : State) : Host.Outcome State Fault Refusal := jobOp 2 a k s

/-- Whether a builder has taken a job: it has started, or its start is held by a fault. -/
def State.taken (s : State) (j : Job) : Bool := j.st != 0 || (s.heldBy (.job j.id)).isSome
/-- The builders of a die that jobs have taken: its own, and one for each SPLIT job of another die that still builds (R302). -/
def State.buildersBusy (s : State) (d : Nat) : Nat :=
  (s.jobs.filter fun x => x.kind != 2 && s.taken x && (x.die == d ||
    (x.kind == 0 && flag x.job 176 && x.st != 5 && ((s.ctx? x.ctx).map (·.dies.contains d)).getD false))).length
/-- Whether a job may be taken or go on (R302): builders take the jobs of their die in arrival order, two at a time, and a compactor
one at a time. -/
def State.jobTurn (s : State) (j : Job) : Bool :=
  let mine := s.jobs.filter fun x => x.die == j.die && (x.kind == 2) == (j.kind == 2)
  !s.dieDown j.die &&
    (if j.kind = 2 then (mine.head?.map (·.id)) == some j.id
     else s.taken j || (((mine.filter fun x => !s.taken x).head?.map (·.id)) == some j.id && s.buildersBusy j.die < 2))
/-- Whether a builder is free on each other die for a job that starts as a SPLIT job (R302). -/
def State.splitTurn (s : State) (c : Ctx) (j : Job) : Bool :=
  j.kind != 0 || !flag j.job 176 || c.dies.all fun d => d == j.die || s.buildersBusy d < 2
/-- The quarter of a split build in whose part a fence of a plan lies (R303). -/
def quarterOf (plan : List (List Nat × List Nat × List (Nat × List Byte))) : Nat → Nat → Option Nat
  | 0, _ => none
  | fuel + 1, f =>
    if 2 ≤ f ∧ f < 6 then some (f - 2)
    else match plan.find? fun x => x.2.1.contains f with
      | some x => quarterOf plan fuel (x.1.headD 0)
      | none => none
/-- The die that builds the subtree of a fence: the job's, or for a SPLIT job that of the quarter's virtual die, 0 for the root. -/
def Job.fenceDie (j : Job) (c : Ctx) (f : Nat) : Nat :=
  if j.kind = 0 && flag j.job 176 then (c.pdie (((quarterOf j.plan 4097 f).getD 0) % max 1 c.vdt.length)).getD j.die else j.die
/-- Whether the record of a job lies in a scratchpad range that earlier engine work still uses (R218). -/
def State.recordBusy (s : State) (j : Job) (o n : Nat) (write : Bool) : Bool :=
  spaceOf j.addr == 0xFE && s.spadBusy j.home j.id (j.addr % 2 ^ 32 + o : Nat) n write

/-- The layout of a job record and header outside R292, R300: code DESC, the cluster array apart. -/
def jobBad (kind : Nat) (r hd : List Byte) : Bool :=
  let f (lo w : Nat) : Nat := field r lo w
  f 179 13 != 0 || f 240 16 != 0 || f 288 224 != 0 ||
    (kind != 2 && (f 64 64 % 32 != 0 || f 128 32 == 0 || 2 ^ 24 < f 128 32 || !(isGlobal (f 64 64) && f 64 64 + 32 * f 128 32 ≤ 2 ^ 52))) ||
    field hd 128 16 == 0 || 8192 < field hd 128 16 || field hd 144 112 != 0 ||
    (List.range 2).any fun i =>
      let a := field hd (64 * i) 64
      a % 8192 != 0 || !(isGlobal a && a + 8192 * field hd 128 16 ≤ 2 ^ 52)

/-- What a job does at one go: stop with a code, or the state and the job as it stands. -/
abbrev JobStep := Except Halted (State × Job)

/-- A job goes to its end with a code. -/
def Job.ends (j : Job) (code : Nat) : Job := { j with st := 5, code := code, fail := 0, plan := [] }

/-- The entries of an object. -/
def State.entries (s : State) (c : Ctx) (o : Owner) (obj : Nat) : Except Halted (List (List Byte)) :=
  match s.objRead c o 0 8 (obj + 64) 64 with
  | .error e => .error e
  | .ok b => .ok [b.take 32, b.drop 32]
/-- The LIVE entry. -/
def liveOf (es : List (List Byte)) : Option Nat := (List.range 2).find? fun i => entState (es.getD i []) == 2

/-- The entry that a job takes (R297), with arena `arn` and its clusters: BUILDING, every fence unready. -/
def State.takeEntry (s : State) (c : Ctx) (j : Job) (e arn clus ncl : Nat) : JobStep :=
  let o := Owner.job j.id
  let tag := field j.job 160 16
  match s.objWrite c o 0 (2 ^ 16) (fenceAddr j.obj e 0) ((List.range 4096).flatMap fun _ => leBytes 2 0 ++ leBytes 2 tag) with
  | .error e => .error e
  | .ok s =>
    let b := leBytes 2 tag ++ leBytes 2 (1 + 8 * arn) ++ leBytes 4 0 ++ leBytes 4 6 ++ leBytes 4 0 ++ leBytes 8 clus ++
      leBytes 4 ncl ++ leBytes 4 0
    match s.objWrite c o 0 (2 ^ 17) (entryAddr j.obj e) b with
    | .error e => .error e
    | .ok s => .ok (s, { j with st := 3, ent := some e })

/-- The checks of a BUILD or REFIT and the entry it takes (R300, R303, R304). -/
def State.startBuild (s : State) (c : Ctx) (j : Job) (hd : List Byte) (ds : List (List Byte)) (es : List (List Byte)) : JobStep :=
  let tag := field j.job 160 16
  let empty := (List.range 2).find? fun i => entState (es.getD i []) == 0
  let live := liveOf es
  let other := (List.range 2).any fun i => some i != empty && entState (es.getD i []) != 0 && field (es.getD i []) 0 16 == tag
  let src := (live.map fun i => es.getD i [])
  if jobBad j.kind j.job hd || ds.any cluBad then .ok (s, j.ends 1)
  else if tag = 0 || other then .ok (s, j.ends 7)
  else if j.kind = 1 && (match src with
      | none => true
      | some x => field x 192 32 != field j.job 128 32) then .ok (s, j.ends 5)
  else
    match empty with
    | none => .ok (s, j.ends 2)
    | some e =>
      s.takeEntry c { j with src := if j.kind = 1 then live else none } e (match src with
        | some x => field x 19 1
        | none => 0) (field j.job 64 64) (field j.job 128 32)

/-- The checks of a relocation and the entry it takes (R305). -/
def State.startMove (s : State) (c : Ctx) (j : Job) (hd : List Byte) (es : List (List Byte)) : JobStep :=
  if !flag j.job 178 then .ok (s, j.ends 0)
  else
    match liveOf es with
    | none => .ok (s, j.ends 5)
    | some l =>
      let x := es.getD l []
      let arn := field x 19 1
      let nblk := field hd 128 16
      match s.objRead c (.job j.id) 0 24 (mapAddr j.obj arn) 2048 with
      | .error e => .error e
      | .ok m =>
        let f := (freeBlocks m nblk).length
        let frag := if f = 0 then 0 else 256 * (f - longestRun m nblk) / f
        let far := (List.range 2).all fun i => entState (es.getD i []) == 0 || field (es.getD i []) 19 1 == arn
        if frag < field j.job 224 8 || !far then .ok (s, j.ends 0)
        else
          match (List.range 2).find? fun i => entState (es.getD i []) == 0 with
          | none => .ok (s, j.ends 2)
          | some e => s.takeEntry c { j with src := some l } e (1 - arn) (field x 128 64) (field x 192 32)

/-- The tree of a job whose entry is taken: nodes, fences in use, those that vanished. -/
def State.jobTree (s : State) (c : Ctx) (j : Job) (hd : List Byte) (es : List (List Byte)) (clus : List Clu) :
    Except Halted (List BNode × Nat × List (Nat × List Nat)) :=
  match j.src with
  | none => let (ns, nf) := s.buildTree clus (flag j.job 176); .ok (ns, nf, [])
  | some l =>
    let x := es.getD l []
    let nblk := field hd 128 16
    match s.loadTree c (.job j.id) (field hd (if flag x 19 then 64 else 0) 64) nblk (64 * nblk + 1) (field x 32 32) none none [] with
    | .error e => .error e
    | .ok src =>
      if j.kind = 2 then .ok (src, field x 64 32, [])
      else
        let bs := s.boxes clus src 0
        let cs := costs src bs src.length 0
        let src := src.zipIdx.map fun (n, i) => { n with cost := cs[i]?, exps := ((bs[i]?).map (·.exps)).getD [] }
        let (ns, gone) := s.refitTree clus j.job src cs (src.length + 1) 0 none ([], [])
        .ok (ns, field x 64 32, gone)

/-- A job whose entry is taken plans its writes: its blocks are taken from the owner map, and the entry says where the root
stands and how many fences there are (R303 to R305). Without room for all nodes, lowest node first, it plans the subtrees that
have room and then ends with NOSPACE (R300, R432); a node without room is given a place past the arena. -/
def State.planJob (s : State) (c : Ctx) (j : Job) (hd : List Byte) (es : List (List Byte)) (clus : List Clu) (e : Nat) : JobStep :=
  let o := Owner.job j.id
  match s.jobTree c j hd es clus with
  | .error e => .error e
  | .ok (ns, nf, gone) =>
    let x := es.getD e []
    let arn := field x 19 1
    let nblk := field hd 128 16
    match s.objRead c o 0 24 (mapAddr j.obj arn) 2048 with
    | .error e => .error e
    | .ok m =>
      let need := (ns.length + 63) / 64
      let bl := (freeBlocks m nblk).take need
      match s.objWrite c o 0 (2 ^ 18) (mapAddr j.obj arn) (bl.foldl (fun m b => setOwner m b (e + 1)) m) with
      | .error e => .error e
      | .ok s =>
        let phys (i : Nat) : Nat := 64 * bl.getD (i / 64) nblk + i % 64
        let x := patch (patch x 4 (leBytes 4 (phys 0) ++ leBytes 4 nf)) 28 (leBytes 4 ns.length)
        match s.objWrite c o 0 (2 ^ 19) (entryAddr j.obj e) x with
        | .error e => .error e
        | .ok s =>
          let arena := field hd (64 * arn) 64
          let bs := s.boxes clus ns 0
          let cs := costs ns bs ns.length 0
          let write (i : Nat) : Nat × List Byte :=
            (arena + 128 * phys i, if j.kind = 2 then movedBytes ns phys i else nodeBytes ns bs cs phys (field j.job 160 16) i)
          let plan := planOf ns nf (j.kind == 0 && flag j.job 176) gone write
          if bl.length < need then
            .ok (s, { j with st := 4, fail := 3, plan := plan.filter fun y => y.2.2.all fun w => decide (w.1 < arena + 8192 * nblk) })
          else .ok (s, { j with st := 4, plan := plan })

/-- A job goes on as far as it can: it reads its record, is checked, takes an entry and plans (R300 to R305). -/
def State.runJob (s : State) (c : Ctx) (j : Job) : JobStep := do
  let o := Owner.job j.id
  let r ← s.objRead c o j.home 0 j.addr 64
  let j := if j.st = 0 then { j with job := r } else j
  if j.st = 0 && !s.splitTurn c j then .ok (s, { j with job := [] })
  else if j.st = 0 && (j.obj % 4096 != 0 || !(isGlobal j.obj && j.obj + 37120 ≤ 2 ^ 52)) then .ok (s, j.ends 1)
  else
    let hd ← s.objRead c o 0 4 j.obj 32
    let es ← s.entries c o j.obj
    if j.kind = 2 && j.st = 0 then
      let l := (List.range 2).any fun i => entState (es.getD i []) != 0 && field (es.getD i []) 0 16 == field j.job 160 16
      let cand := (List.range 2).any fun i => entState (es.getD i []) == 3 || entState (es.getD i []) == 4
      if jobBad 2 j.job hd then .ok (s, j.ends 1)
      else if flag j.job 178 && (field j.job 160 16 == 0 || l) then .ok (s, j.ends 7)
      else if flag j.job 178 && (liveOf es).isNone then .ok (s, j.ends 5)
      else if flag j.job 177 && cand then .ok (s, { j with st := 1 })
      else s.startMove c j hd es
    else if j.kind = 2 && j.st = 2 then s.startMove c j hd es
    else
      let ncl := if j.kind = 2 || jobBad j.kind j.job hd then 0 else field j.job 128 32
      let ds ← s.readClus c o (field j.job 64 64) 0 ncl
      if j.st = 0 then s.startBuild c j hd ds es
      else
        let clus ← s.readVerts c o ds
        match j.ent with
        | some e => s.planJob c j hd es clus e
        | none => .ok (s, j)

/-- A job has ended: its token clears at package scope, or its packet's job is done (R301). -/
def State.endJob (s : State) (j : Job) : State :=
  let s := ({ s with jobs := s.jobs.filter (·.id != j.id) }).clearFaults (.job j.id)
  match j.iss with
  | some i => s.clearToken i.h i.f j.tok none 5
  | none => { s with grids := s.grids.map fun (g : Grid) => if some g.id = j.grid then { g with jobDone := true } else g }

/-- A step of a job carried out: its faults are held (R400), one that was ended is code FAULT. -/
def State.putJob (s : State) (c : Ctx) (j : Job) (r : JobStep) : State :=
  match r with
  | .ok (s, j) => s.setJob j
  | .error (.hold f) => s.holdFault c (.job j.id) f
  | .error .ended => (s.clearFaults (.job j.id)).setJob (j.ends 4)
  | .error .pois => (s.contextDead c.c).endJob j

/-- A job with its context, when it is not held by a fault. -/
def State.freeJob (s : State) (id : Nat) : Option (Job × Ctx) :=
  match s.job? id with
  | none => none
  | some j =>
    if s.faults.any fun a => a.owner == .job id && !a.ended then none
    else (s.ctx? j.ctx).map fun c => (j, c)

/-- JOB_START (R302): a job is taken, or a taken job goes on after a fault. -/
def execJobStart (k : Nat) (s : State) : Host.Outcome State Fault Refusal :=
  match s.freeJob k with
  | none => .next s.idle
  | some (j, c) =>
    if !s.jobTurn j || !([0, 2, 3] : List Nat).contains j.st || (j.st = 0 && s.recordBusy j 0 64 false) then .next s.idle
    else
      let s := s.putJob c j (s.runJob c j)
      match s.freeJob k with
      | some (j, c) => .next (if j.st = 3 then s.putJob c j (s.runJob c j) else s).idle
      | none => .next s.idle

/-- An arena's owner map in which the blocks of entry e are free (R292, R305). -/
def unown (e : Nat) (m : List Byte) : List Byte := (List.range 8192).foldl (fun m b => if ownerOf m b = e + 1 then setOwner m b 0 else m) m
/-- RECLAIM (R305): after holds are released, the candidate becomes EMPTY and its blocks are freed; a pin ends the job. -/
def State.reclaim (s : State) (c : Ctx) (j : Job) : JobStep := do
  let o := Owner.job j.id
  let es ← s.entries c o j.obj
  match (List.range 2).find? fun i => entState (es.getD i []) == 3 || entState (es.getD i []) == 4 with
  | none => .ok (s, { j with st := 2 })
  | some e =>
    if field (es.getD e []) 96 32 ≠ 0 then .ok (s, j.ends 6)
    else if s.rays.any fun r => r.obj == j.obj && r.held == some e && (s.body? r.iss.h).map (·.ctx) == some j.ctx then .ok (s, j)
    else
      let m0 ← s.objRead c o 0 24 (mapAddr j.obj 0) 4096
      let s ← s.objWrite c o 0 (2 ^ 18) (mapAddr j.obj 0) (unown e (m0.take 2048) ++ unown e (m0.drop 2048))
      let s ← s.objWrite c o 0 (2 ^ 19) (entryAddr j.obj e) (leBytes 4 (8 * field (es.getD e []) 19 1 * 65536))
      .ok (s, { j with st := 2 })

/-- RECLAIM (R305). -/
def execReclaim (k : Nat) (s : State) : Host.Outcome State Fault Refusal :=
  match s.freeJob k with
  | some (j, c) => .next (if j.st = 1 && s.jobTurn j then s.putJob c j (s.reclaim c j) else s).idle
  | none => .next s.idle

/-- Fence words written, in an entry (R295). -/
def State.writeFences (s : State) (c : Ctx) (o : Owner) (obj e tag fst : Nat) : List Nat → Except Halted State
  | [] => .ok s
  | f :: fs =>
    match s.objWrite c o 0 (2 ^ 20 + 4 * f) (fenceAddr obj e f) (leBytes 2 fst ++ leBytes 2 tag) with
    | .error e => .error e
    | .ok s => s.writeFences c o obj e tag fst fs
/-- The writes of a subtree by the builder of a die. -/
def State.writeNodes (s : State) (c : Ctx) (o : Owner) (die : Nat) : List (Nat × List Byte) → Except Halted State
  | [] => .ok s
  | x :: xs =>
    match s.objPut c o (pastFar die) 0 (2 ^ 21 + 8 * xs.length) x.1 x.2 with
    | .error e => .error e
    | .ok s => s.writeNodes c o die xs

/-- Fence 0 becomes ready: the generation is LIVE, and another one that was LIVE is RETIRED (R297). Every fence word of the entry
is ready then, those from NFENCE on too (R432). -/
def State.goLive (s : State) (c : Ctx) (j : Job) (e : Nat) : JobStep := do
  let o := Owner.job j.id
  let es ← s.entries c o j.obj
  let set (x : List Byte) (st : Nat) : List Byte := [BitVec.ofNat 8 (st + 8 * field x 19 1)]
  let s ← s.objWrite c o 0 (2 ^ 20) (fenceAddr j.obj e 0) ((List.range 4096).flatMap fun _ => leBytes 2 1 ++ leBytes 2 (field j.job 160 16))
  let s ← if entState (es.getD (1 - e) []) = 2 then s.objWrite c o 0 (2 ^ 18) (entryAddr j.obj (1 - e) + 2) (set (es.getD (1 - e) []) 3) else .ok s
  let s ← s.objWrite c o 0 (2 ^ 19) (entryAddr j.obj e + 2) (set (es.getD e []) 2)
  .ok (s, j.ends 0)

/-- FENCE_READY (R296): a subtree whose inner fences are ready is written and its fence becomes ready; fence 0 after all. A job
without room fails in fence 0's place, after some of the subtrees that have room (R432). -/
def State.readyFence (s : State) (c : Ctx) (j : Job) (fence : Nat) : JobStep :=
  let o := Owner.job j.id
  match j.ent with
  | none => .ok (s, j)
  | some e =>
    if fence = 0 then (if j.fail ≠ 0 then .ok (s, j.ends j.fail) else if j.plan.isEmpty then s.goLive c j e else .ok (s, j))
    else
      match j.plan.find? fun x => x.1.head? == some fence with
      | none => .ok (s, j)
      | some (fs, inner, ws) =>
        if inner.any fun f => j.plan.any fun x => x.1.head? == some f then .ok (s, j)
        else do
          let s ← s.writeNodes c o (j.fenceDie c fence) ws
          let s ← s.writeFences c o j.obj e (field j.job 160 16) 1 fs
          .ok (s, { j with plan := j.plan.filter (fun x => x.1.head? != some fence), nodes := j.nodes + ws.length })

/-- FENCE_READY (R296). -/
def execFenceReady (k fence : Nat) (s : State) : Host.Outcome State Fault Refusal :=
  match s.freeJob k with
  | some (j, c) => .next (if j.st = 4 && !s.dieDown (j.fenceDie c fence) then s.putJob c j (s.readyFence c j fence) else s).idle
  | none => .next s.idle

/-- A failed job's entry becomes FAILED, and its unready fences fail (R297). -/
def State.failEntry (s : State) (c : Ctx) (j : Job) : Except Halted State :=
  match j.ent with
  | none => .ok s
  | some e => do
    if j.code = 0 then .ok s
    else
      let o := Owner.job j.id
      let fs ← s.objRead c o 0 24 (fenceAddr j.obj e 0) 16384
      let fs' := (List.range 4096).flatMap fun i =>
        let w := (fs.drop (4 * i)).take 4
        if field w 0 2 = 0 then patch w 0 [2] else w
      let x ← s.objRead c o 0 2048 (entryAddr j.obj e) 32
      let s ← s.objWrite c o 0 (2 ^ 18) (fenceAddr j.obj e 0) fs'
      s.objWrite c o 0 (2 ^ 19) (entryAddr j.obj e + 2) [BitVec.ofNat 8 (4 + 8 * field x 19 1)]

/-- JST and JNODES written (R300). -/
def State.writeJst (s : State) (c : Ctx) (j : Job) : Except Halted State := do
  let s ← s.objWrite c (.job j.id) j.home (2 ^ 20) (j.addr + 29) (leBytes 1 j.code)
  s.objWrite c (.job j.id) j.home (2 ^ 20 + 8) (j.addr + 32) (leBytes 4 j.nodes)

/-- JOB_END (R301): JST and JNODES are written and the token clears. A write whose fault was ended is dropped. -/
def execJobEnd (k : Nat) (s : State) : Host.Outcome State Fault Refusal :=
  match s.freeJob k with
  | none => .next s.idle
  | some (j, c) =>
    if j.st ≠ 5 || s.dieDown j.die || s.recordBusy j 29 7 true then .next s.idle
    else
      let fin (s : State) : State :=
        match s.writeJst c j with
        | .ok s => s.endJob j
        | .error (.hold f) => s.holdFault c (.job k) f
        | .error _ => s.endJob j
      match s.failEntry c j with
      | .ok s => .next (fin s).idle
      | .error (.hold f) => .next (s.holdFault c (.job k) f).idle
      | .error .pois => .next ((s.contextDead c.c).endJob j).idle
      | .error .ended => .next (fin s).idle

end Sys2Proof.Machine
end

