-- ==== Sys2Proof/Machine/March.lean ====
section
/-! DEFINITION. Mesh and grid march, 0xD8 to 0xDB, with the steps of its threads (spec/13_march.md). A step of the model lets
a thread make some of its passes, each read from memory at one moment. -/
namespace Sys2Proof.Machine

/-! ## Reads (R334) -/

/-- Why a thread of the unit does not go on. -/
inductive WalkStop where
  | hold (f : PFault)
  | fault
  | pois
  | badmesh
  deriving DecidableEq, Repr

/-- A read of n bytes by a thread of the unit: of the die's far copies when it uses them, else of the home. -/
def State.walkRead (s : State) (c : Ctx) (w : Walk) (a n : Nat) : Except WalkStop (List Byte) :=
  if 2 ^ 52 < a + n then .error .fault
  else
    match s.gread c (if w.far then dieOf (coreOf w.iss.h) else pastFar (dieOf (coreOf w.iss.h))) (2 ^ 39) (n / 32 + 2) a n with
    | .ok (b, q) => if q then .error .pois else .ok b
    | .error f => .error (.hold f)

/-! ## Meshes (R314 to R318) -/

/-- A descriptor breaks R314. -/
def meshBad (m : List Byte) : Bool :=
  field m 262 250 != 0 || field m 128 32 == 0 || field m 128 32 == 0xFFFFFFFF || field m 160 32 == 0 || field m 160 32 == 0xFFFFFFFF ||
    4 < field m 258 3 || field m 0 64 % 4 != 0 || field m 64 64 % 64 != 0 || field m 192 64 % (if flag m 257 then 16 else 32) != 0 ||
    !(isGlobal (field m 0 64) && isGlobal (field m 64 64) && isGlobal (field m 192 64))

/-- A face: its outward normal (none: degenerate), the value of n·x on its plane, and the neighbour. -/
structure Face where
  n : Option V3
  k : Q
  nb : Nat
  deriving DecidableEq, Repr

/-- A cell: the indices of its vertices, and its faces. -/
structure Cell where
  idx : List Nat
  faces : List Face
  deriving DecidableEq, Repr

/-- The coordinates of vertices by their indices. -/
def State.meshVerts (s : State) (c : Ctx) (w : Walk) : List Nat → Except WalkStop (List V3)
  | [] => .ok []
  | j :: js =>
    if field w.mesh 128 32 ≤ j then .error .badmesh
    else
      match s.walkRead c w (field w.mesh 0 64 + 12 * j) 12 with
      | .error e => .error e
      | .ok b =>
        match vec32 b 0 with
        | none => .error .badmesh
        | some p =>
          match s.meshVerts c w js with
          | .error e => .error e
          | .ok ps => .ok (p :: ps)

/-- Face f of a tetrahedron (R319). -/
def tetFace (vs : List V3) (nbs : List Nat) (f : Nat) : Face :=
  let zero : V3 := V3.of fun _ => Q.int 0
  let b := (List.range 4).filter (· != f)
  let v (i : Nat) : V3 := vs.getD i zero
  let b0 := v (b.getD 0 0)
  let n := ((v (b.getD 1 0)).sub b0).cross ((v (b.getD 2 0)).sub b0)
  let side := n.dot ((v f).sub b0)
  let n' := if side.num < 0 then n else zero.sub n
  { n := if side.isZero then none else some n', k := n'.dot b0, nb := nbs.getD f 0xFFFFFFFF }

/-- Face f of a polyhedral cell (R316, R319). -/
def polyFace (b : List Byte) (f : Nat) : Face :=
  let o := 80 + 20 * f
  let w := field b (8 * (o + 12)) 32
  let n := match vec32 b o with
    | some n => if finite32 w && !n.isZero then some n else none
    | none => none
  { n := n, k := if finite32 w then q32 w else Q.int 0, nb := field b (8 * (o + 16)) 32 }

/-- Whether the cells are polyhedral. -/
def Walk.poly (w : Walk) : Bool := flag w.mesh 256
/-- The bytes of cell c. -/
def State.cellBytes (s : State) (c : Ctx) (w : Walk) (k : Nat) : Except WalkStop (List Byte) :=
  let n := if w.poly then 320 else 32
  s.walkRead c w (field w.mesh 64 64 + n * k) n
/-- A polyhedral header outside R316. -/
def polyBad (b : List Byte) : Bool :=
  field b 0 4 < 4 || 12 < field b 0 4 || field b 4 5 < 1 || 16 < field b 4 5 || field b 9 23 != 0 || field b 32 96 != 0
/-- A cell read for a step (R318): a tetrahedron with its vertices. -/
def State.cell (s : State) (c : Ctx) (w : Walk) (k : Nat) : Except WalkStop Cell :=
  match s.cellBytes c w k with
  | .error e => .error e
  | .ok b =>
    if w.poly then
      if polyBad b then .error .badmesh
      else .ok ⟨(List.range (field b 4 5)).map fun i => field b (128 + 32 * i) 32, (List.range (field b 0 4)).map (polyFace b)⟩
    else
      let idx := (List.range 4).map fun i => field b (32 * i) 32
      let nbs := (List.range 4).map fun i => field b (128 + 32 * i) 32
      match s.meshVerts c w idx with
      | .error e => .error e
      | .ok vs => .ok ⟨idx, (List.range 4).map (tetFace vs nbs)⟩

/-- The lowest face of cell k whose neighbour is c, or 15 (R321). -/
def State.entryFace (s : State) (ctx : Ctx) (w : Walk) (k c : Nat) : Except WalkStop Nat :=
  match s.cellBytes ctx w k with
  | .error e => .error e
  | .ok b =>
    let nb (f : Nat) : Nat := if w.poly then field b (8 * (96 + 20 * f)) 32 else field b (128 + 32 * f) 32
    .ok (((List.range (if w.poly then min 12 (field b 0 4) else 4)).find? fun f => nb f == c).getD 15)

/-! ## Interpolation (R317, R322) -/

/-- Element k of the field record of a vertex, as a value; +0 when the mesh has none. -/
def State.fieldAt (s : State) (c : Ctx) (w : Walk) (k j : Nat) : Except WalkStop Fv :=
  if (if k < 4 then field w.mesh 258 3 ≤ k else !flag w.mesh 261) then .ok (.zero false false)
  else
    let n := if flag w.mesh 257 then 16 else 32
    match s.walkRead c w (field w.mesh 192 64 + n * j) n with
    | .error e => .error e
    | .ok b => .ok (if n = 16 then Fmt.bf16.decode (field b (16 * k) 16) else Fmt.f32.decode (field b (32 * k) 32))

/-- A list of reads. -/
def seqRead {α β : Type} (f : α → Except WalkStop β) : List α → Except WalkStop (List β)
  | [] => .ok []
  | a :: as =>
    match f a with
    | .error e => .error e
    | .ok b => match seqRead f as with
      | .error e => .error e
      | .ok bs => .ok (b :: bs)

/-- The exact barycentric coordinates of x in a tetrahedron; none: its vertices are coplanar. -/
def bary (vs : List V3) (x : V3) : Option (List Q) :=
  match vs with
  | [a, b, c, d] =>
    let det (p q r : V3) : Q := p.dot (q.cross r)
    let D := det (b.sub a) (c.sub a) (d.sub a)
    if D.isZero then none
    else
      let l1 := (det (x.sub a) (c.sub a) (d.sub a)).div D
      let l2 := (det (b.sub a) (x.sub a) (d.sub a)).div D
      let l3 := (det (b.sub a) (c.sub a) (x.sub a)).div D
      some [((Q.int 1).sub (l1.add (l2.add l3))), l1, l2, l3]
  | _ => none

/-- The exact mean of weighted values; NaN when one of them is not finite; its rounding (R322). -/
def weighted (ws : List Q) (vs : List Fv) : Fv :=
  if vs.any fun v => v.isNan || v.isInf then .nan false
  else r32 (Fv.ofQ ((ws.zip vs).foldl (fun a x => a.add (x.1.mul x.2.toQ)) (Q.int 0)) false)

/-- interp (R322) at a point of cell `k`; none: it is not a point. -/
def State.interp (s : State) (c : Ctx) (w : Walk) (cell : Cell) (x : Option V3) (k : Nat) : Except WalkStop Fv :=
  match x with
  | none => .ok (.nan false)
  | some x => do
    let vs ← s.meshVerts c w cell.idx
    match if w.poly then none else bary vs x with
    | some l =>
      let fs ← seqRead (s.fieldAt c w k) cell.idx
      return weighted l fs
    | none =>
      match vs.findIdx? fun v => (v.sub x).isZero with
      | some i =>
        let f ← s.fieldAt c w k (cell.idx.getD i 0)
        return if f.isNan || f.isInf then .nan false else f
      | none =>
        let fs ← seqRead (s.fieldAt c w k) cell.idx
        let om := vs.map fun v => ((x.sub v).dot (x.sub v)).inv
        let sum := om.foldl Q.add (Q.int 0)
        return weighted (om.map (·.div sum)) fs

/-! ## The march (R319 to R328) -/

/-- Word i of a list as a value. -/
def fw (l : List Word) (i : Nat) : Fv := Fmt.f32.decode ((l.getD i 0).toNat)
/-- A value as an f32 word. -/
def wf (v : Fv) : Word := BitVec.ofNat 32 (Fmt.f32.encode v)
/-- The origin and direction of a walk: for MLOC from the mean of the hint's vertices, in `query` exactly. -/
structure Line where
  o : V3
  d : V3
  deriving DecidableEq, Repr

/-- The exact point at t; none when t is infinite. -/
def Line.point (l : Line) (t : Fv) : Option V3 :=
  if t.isInf || t.isNan then none else some (V3.of fun i => (l.o.at i).add (t.toQ.mul (l.d.at i)))

/-- exit_face (R320): the face and its parameter. -/
def exitFace (fs : List Face) (l : Line) (t : Fv) (e : Nat) : Nat × Fv :=
  let cand := fs.zipIdx.filter fun x => x.2 != e
  let step (best : Option (Nat × Fv)) (x : Face × Nat) : Option (Nat × Fv) :=
    match x.1.n with
    | none => best
    | some n =>
      if (n.dot l.d).num ≤ 0 then best
      else
        let r := (roundFv .f32 24 { mode := 2 } (.ofQ ((x.1.k.sub (n.dot l.o)).div (n.dot l.d)) false)).1
        let tf := if t.lt false r then r else t
        match best with
        | none => some (x.2, tf)
        | some b => if tf.lt false b.2 then some (x.2, tf) else best
  match cand.foldl step none with
  | some b => b
  | none =>
    let deg := cand.filter fun x => x.1.n.isNone
    let f := match deg.find? fun x => x.1.nb != 0xFFFFFFFF with
      | some x => x.2
      | none => match deg.head? with
        | some x => x.2
        | none => ((cand.head?).map (·.2)).getD 0
    (f, t)

/-- The least f32 above a value that is not +infinity. -/
def nextUp (v : Fv) : Fv :=
  let x := Fmt.f32.encode v
  if v.isZero then Fmt.f32.decode 1 else if v.neg? then Fmt.f32.decode (x - 1) else if v.isInf then v else Fmt.f32.decode (x + 1)

/-- The status word (R324). -/
def statusWord (code lface z : Nat) (nudged : Bool) (e n : Nat) : Word :=
  BitVec.ofNat 32 (code + 16 * lface + 256 * z + (if nudged then 2048 else 0) + 4096 * e + 65536 * n)

/-- The fields of a walk's state block (R324). -/
structure Mark where
  c : Nat
  t : Fv
  e : Nat
  z : Nat
  lface : Nat
  nudged : Bool
  n : Nat
  deriving DecidableEq, Repr

/-- The fields of a state block. -/
def Mark.of (st : List Word) : Mark :=
  let x := (st.getD 6 0).toNat
  { c := (st.getD 0 0).toNat, t := fw st 1, e := bits x 12 4, z := bits x 8 3, lface := bits x 4 4, nudged := bit x 11, n := bits x 16 9 }
/-- A state block with its fields. -/
def Mark.put (m : Mark) (st : List Word) (code : Nat) : List Word :=
  setAt (setAt (setAt st 0 (BitVec.ofNat 32 m.c)) 1 (wf m.t)) 6 (statusWord code m.lface m.z m.nudged m.e m.n)

/-- A walk after some work: it goes on, or stops with a code. -/
abbrev Going := Walk × Option Nat

/-- One sample taken (R326). -/
def takeSample (w : Walk) (dt σ : Fv) (cs : List Fv) : Walk :=
  let st := w.st
  let st :=
    if σ.isNan || σ.lt false (.zero false false) then st
    else
      let a := fmul σ dt
      let τ := match a with
        | .fin q => (exExp2 q.neg).round r32
        | .inf _ => Fv.zero false false
        | .nan n => .nan n
        | .zero _ _ => .fin (Q.int 1)
      let al := fadd (.fin (Q.int 1)) τ.negate
      let wt := fmul (fw st 5) al
      let st := (List.range 3).foldl (fun l k => setAt l (2 + k) (wf (fadd (fw st (2 + k)) (fmul wt (cs.getD k (.nan false)))))) st
      setAt st 5 (wf (fmul (fw st 5) τ))
  { w with st := setAt st 7 (st.getD 7 0 + 1), count := w.count + 1 }

/-- The parameter of sample i (R326, R333). -/
def sampleAt (q : List Word) (i : Word) : Fv :=
  r32 (Fv.ofQ ((fw q 3).toQ.add ((Q.int i.toNat).mul (fw q 9).toQ)) false)

/-- Sample mode on a segment (R326): every sample up to `tend`. -/
def State.samples (s : State) (c : Ctx) (cell : Cell) (l : Line) (tend : Fv) : Nat → Walk → Walk × Except WalkStop (Option Nat)
  | 0, w => (w, .ok none)
  | fuel + 1, w =>
    let ti := sampleAt w.query (w.st.getD 7 0)
    if tend.lt false ti then (w, .ok none)
    else
      let x := l.point ti
      match s.interp c w cell x 0, seqRead (fun k => s.interp c w cell x (4 + k)) [0, 1, 2] with
      | .ok σ, .ok cs =>
        let w := takeSample w (fw w.query 9) σ cs
        let T := fw w.st 5
        if !T.isNan && !(fw w.query 10).isNan && T.lt false (fw w.query 10) then (w, .ok (some 4))
        else if 1024 ≤ w.count then (w, .ok (some 1))
        else s.samples c cell l tend fuel w
      | .error e, _ => (w, .error e)
      | _, .error e => (w, .error e)

/-- Iso mode on a segment (R327): the point of the hit, if there is one. -/
def State.isoHit (s : State) (c : Ctx) (w : Walk) (cell : Cell) (l : Line) (t tend : Fv) : Except WalkStop (Option Fv) := do
  let isc := bits (w.query.getD 8 0).toNat 10 2
  let fi ← s.interp c w cell (l.point t) isc
  let fo ← s.interp c w cell (l.point tend) isc
  if fi.isNan || fi.isInf || fo.isNan || fo.isInf then return none
  else
    let gi := fi.toQ.sub (fw w.query 9).toQ
    let go := fo.toQ.sub (fw w.query 9).toQ
    if gi.isZero then return some t
    else if go.isZero || decide (gi.num < 0) != decide (go.num < 0) then
      return some (r32 (.ofQ (t.toQ.add ((gi.div (gi.sub go)).mul (tend.toQ.sub t.toQ))) false))
    else return none

/-- Components written at a point of a cell: the vec3 in words 2 to 4, component k in word `at` for each pair. -/
def State.writeAt (s : State) (c : Ctx) (w : Walk) (cell : Cell) (x : Option V3) (more : List (Nat × Nat)) : Except WalkStop Walk := do
  let ks := [(2, 4), (3, 5), (4, 6)] ++ more
  let vs ← seqRead (fun (y : Nat × Nat) => s.interp c w cell x y.2) ks
  return { w with st := (ks.zip vs).foldl (fun l y => setAt l y.1.1 (wf y.2)) w.st }

/-- The mode of a walk: sample, iso, probe; 3 for MLOC. -/
def Walk.mode (w : Walk) : Nat := if w.kind = 1 then 3 else bits (w.query.getD 8 0).toNat 0 2
/-- tmax of a walk. -/
def Walk.tmax (w : Walk) : Fv := if w.kind = 1 then .fin (Q.int 1) else fw w.query 7
/-- The step budget of a walk. -/
def Walk.budget (w : Walk) : Nat := if w.kind = 1 then 256 else bits (w.query.getD 8 0).toNat 2 8 + 1

/-- The mode's work on a segment (R325): the walk, and its stop. -/
def State.segment (s : State) (c : Ctx) (w : Walk) (cell : Cell) (l : Line) (m : Mark) (tend : Fv) : Walk × Except WalkStop (Option Nat) :=
  match w.mode with
  | 0 => s.samples c cell l tend 1024 w
  | 1 =>
    match s.isoHit c w cell l m.t tend with
    | .error e => (w, .error e)
    | .ok none => (w, .ok none)
    | .ok (some th) =>
      match s.writeAt c w cell (l.point th) [(5, bits (w.query.getD 8 0).toNat 10 2)] with
      | .error e => (w, .error e)
      | .ok w => ({ w with st := setAt w.st 1 (wf th) }, .ok (some 2))
  | _ => (w, .ok none)

/-- R321: the step across face f with parameter tx, taken after the mode's work. -/
def State.cross (s : State) (c : Ctx) (w : Walk) (cell : Cell) (m : Mark) (f : Nat) (tx : Fv) : Except WalkStop (Mark × Option Nat) := do
  let zero := !m.t.lt false tx && !tx.lt false m.t
  let z := if zero then m.z + 1 else 0
  let (tx, z, nud) : Fv × Nat × Bool := if 8 ≤ z then (nextUp tx, 0, true) else (tx, z, m.nudged)
  let nb := ((cell.faces[f]?).map (·.nb)).getD 0xFFFFFFFF
  if nb = 0xFFFFFFFF then return ({ m with t := tx, z := z, nudged := nud }, some 3)
  else if field w.mesh 160 32 ≤ nb then throw .badmesh
  else
    let e ← s.entryFace c w nb m.c
    let m := { m with c := nb, t := tx, e := e, z := z, nudged := nud, n := m.n + 1 }
    return (m, if m.n = w.budget then some 1 else none)

/-- One pass of R325: the walk afterwards and its code, or what stops it. -/
def State.pass (s : State) (c : Ctx) (w : Walk) (l : Line) : Walk × Except WalkStop (Option Nat) :=
  let m := Mark.of w.st
  match s.cell c w m.c with
  | .error e => (w, .error e)
  | .ok cell =>
    let (f, tx) := exitFace cell.faces l m.t m.e
    let m := { m with lface := f }
    let w := { w with st := m.put w.st 0 }
    let tend := if w.tmax.lt false tx then w.tmax else tx
    match s.segment c w cell l m tend with
    | (w, .error e) => (w, .error e)
    | (w, .ok (some k)) => (w, .ok (some k))
    | (w, .ok none) =>
      if !tx.lt false w.tmax then
        let w := { w with st := { m with t := w.tmax }.put w.st 0 }
        if w.mode = 2 then
          match s.writeAt c w cell (l.point w.tmax) [(5, 0), (7, 1)] with
          | .error e => ({ w with st := m.put w.st 0 }, .error e)
          | .ok w => (w, .ok (some 0))
        else (w, .ok (some 0))
      else
        match s.cross c w cell m f tx with
        | .error e => (w, .error e)
        | .ok (m, k) => ({ w with st := m.put w.st 0 }, .ok k)

/-- The line of a walk (R325, R329). -/
def Walk.theLine (w : Walk) : Line :=
  if w.kind ≠ 1 then ⟨V3.of fun i => (fw w.query i).toQ, V3.of fun i => (fw w.query (4 + i)).toQ⟩
  else
    let q (i : Nat) : Q := let x := w.line.getD i (0, 1); ⟨x.1, x.2⟩
    ⟨V3.of q, V3.of fun i => q (3 + i)⟩
/-- The line of MLOC, read once from its hint cell (R329). -/
def State.lineOf (s : State) (c : Ctx) (w : Walk) : Except WalkStop Walk :=
  if w.kind ≠ 1 then .ok w
  else do
    let b ← s.cellBytes c w (w.query.getD 3 0).toNat
    let idx ← (if w.poly then (if polyBad b then .error .badmesh else .ok ((List.range (field b 4 5)).map fun i => field b (128 + 32 * i) 32))
      else .ok ((List.range 4).map fun i => field b (32 * i) 32))
    let vs ← s.meshVerts c w idx
    let o := V3.of fun a => (vs.foldl (fun q v => q.add (v.at a)) (Q.int 0)).div (Q.int vs.length)
    let q (v : V3) : List (Int × Nat) := [v.x, v.y, v.z].map fun (x : Q) => (x.num, x.den)
    return { w with line := q o ++ q (V3.of fun a => (fw w.query a).toQ.sub (o.at a)) }

/-- Whether a query is invalid (R325, R329, R333), its cell and entry face apart. -/
def Walk.bad (w : Walk) : Bool :=
  let q := w.query
  let fin (i : Nat) : Bool := finite32 (q.getD i 0).toNat
  let x8 := (q.getD 8 0).toNat
  let line := !([0, 1, 2, 4, 5, 6] : List Nat).all fin || ([4, 5, 6] : List Nat).all (fun i => (fw q i).isZero) || (fw q 7).isNan
  let grid := !fin 9 || (fw q 9).isZero || (fw q 9).neg? || !fin 3
  match w.kind with
  | 0 =>
    line || w.mode == 3 || bits x8 12 20 != 0 || (q.getD 11 0) != 0 || !finite32 (w.st.getD 1 0).toNat || field w.mesh 160 32 ≤ (w.st.getD 0 0).toNat ||
      (w.mode == 0 && grid) || (w.mode == 1 && !fin 9)
  | 1 => !([0, 1, 2] : List Nat).all fin || field w.mesh 160 32 ≤ (q.getD 3 0).toNat
  | _ => line || grid || bits x8 7 25 != 0

/-! ## SAMPLE (R330 to R333) -/

/-- A grid descriptor is refused (R330). -/
def gridBad (g : List Byte) : Bool :=
  let nlev := field g 332 4
  match vec32 g 0, vec32 g 12 with
  | some lo, some hi =>
    (List.range 3).any (fun a => (hi.at a).le (lo.at a)) || 10 < field g 320 4 || 10 < field g 324 4 || 10 < field g 328 4 ||
      field g 340 5 < 10 || 24 < field g 340 5 || 64 < (nlev + 1) * (if flag g 336 then 4 else 2) ||
      (List.range (nlev + 1)).any (fun l => field g (512 + 16 * l) 16 == 0) || field g 192 64 % 8 != 0 || field g 256 64 % 8 != 0 ||
      !isGlobal (field g 192 64) || !isGlobal (field g 256 64) || field g 337 3 != 0 || field g 345 167 != 0 || field g 768 256 != 0
  | _, _ => true

/-- u of a point (R331); none: it is not in the grid. -/
def gridPoint (g : List Byte) (x : Option V3) : Option V3 :=
  match x, vec32 g 0, vec32 g 12 with
  | some x, some lo, some hi =>
    let u := V3.of fun a => ((x.at a).sub (lo.at a)).div ((hi.at a).sub (lo.at a))
    if (List.range 3).all fun a => !(u.at a).lt (Q.int 0) && (u.at a).lt (Q.int 1) then some u else none
  | _, _, _ => none

/-- The occupancy bit of a point (R331). -/
def State.occupied (s : State) (c : Ctx) (w : Walk) (u : V3) : Except WalkStop Bool := do
  let g := w.mesh
  let L (a : Nat) : Nat := field g (320 + 4 * a) 4
  let i (a : Nat) : Nat := ((u.at a).mul (Q.pow2 (L a))).floor.toNat
  let b := i 0 + 2 ^ L 0 * (i 1 + 2 ^ L 1 * i 2)
  let x ← s.walkRead c w (field g 192 64 + b / 8) 1
  return flag x (b % 8)

/-- Features of level l at a point (R332): F bf16 values. -/
def State.features (s : State) (c : Ctx) (w : Walk) (u : V3) (l : Nat) : Except WalkStop (List Byte) := do
  let g := w.mesh
  let F := if flag g 336 then 4 else 2
  let N := field g (512 + 16 * l) 16
  let T := 2 ^ field g 340 5
  let sa (a : Nat) : Q := (u.at a).mul (Q.int N)
  let ga (a : Nat) : Nat := (sa a).floor.toNat
  let ra (a : Nat) : Q := (sa a).sub (Q.int (ga a))
  let corner (k : Nat) : Except WalkStop (Q × List Byte) := do
    let x (a : Nat) : Nat := ga a + bits k a 1
    let wt := (List.range 3).foldl (fun q a => q.mul (if bit k a then ra a else (Q.int 1).sub (ra a))) (Q.int 1)
    let idx := if (N + 1) ^ 3 ≤ T then x 0 + (N + 1) * (x 1 + (N + 1) * x 2)
      else (x 0 ^^^ (x 1 * 0x9A3C5E27) % 2 ^ 32 ^^^ (x 2 * 0xC4B1D06B) % 2 ^ 32) % T
    let b ← s.walkRead c w (field g 256 64 + 2 * F * (l * T + idx)) (2 * F)
    return (wt, b)
  let cs ← seqRead corner (List.range 8)
  return (List.range F).flatMap fun j =>
    let vs := cs.map fun x => Fmt.bf16.decode (field x.2 (16 * j) 16)
    if vs.any fun v => v.isNan || v.isInf then leBytes 2 0x7FC0
    else
      let sum := ((cs.map (·.1)).zip vs).foldl (fun a x => a.add (x.1.mul x.2.toQ)) (Q.int 0)
      leBytes 2 (Fmt.bf16.encode (roundFv .bf16 8 {} (.ofQ sum false)).1)

/-- A feature row (R333). -/
def State.featureRow (s : State) (c : Ctx) (w : Walk) (u : V3) : Except WalkStop (List Byte) := do
  let ls ← seqRead (s.features c w u) (List.range (field w.mesh 332 4 + 1))
  let b := ls.flatten
  return b ++ List.replicate (128 - b.length) 0

/-- One index of SAMPLE examined (R333): the state, the walk and its code. -/
def State.sampleStep (s : State) (c : Ctx) (w : Walk) : State × Walk × Except WalkStop (Option Nat) :=
  let q (i : Nat) : Nat := (w.query.getD i 0).toNat
  let n := (w.st.getD 1 0).toNat
  if n = bits (q 8) 2 5 + 1 then (s, w, .ok (some 8))
  else if 65536 ≤ w.count then (s, w, .ok (some 1))
  else
    let ti := sampleAt w.query (w.st.getD 0 0)
    if (fw w.query 7).lt false ti then (s, w, .ok (some 0))
    else
      let l : Line := ⟨V3.of fun i => (fw w.query i).toQ, V3.of fun i => (fw w.query (4 + i)).toQ⟩
      let next := { w with st := setAt w.st 0 (w.st.getD 0 0 + 1), count := w.count + 1 }
      match gridPoint w.mesh (l.point ti) with
      | none => (s, next, .ok none)
      | some u =>
        match s.occupied c w u with
        | .error e => (s, w, .error e)
        | .ok false => (s, next, .ok none)
        | .ok true =>
          let next := { next with st := setAt (setAt next.st 1 (BitVec.ofNat 32 (n + 1))) 3 (wf ti) }
          if w.helper then (s, next, .ok none)
          else
            match s.featureRow c w u with
            | .error e => (s, w, .error e)
            | .ok row =>
              let r := q 10 + n
              let s := (s.spWrite w.iss.h (w.addr % 2 ^ 32 + 128 * r) row false).spWrite w.iss.h (q 11 + 4 * r) (wordBytes (wf ti)) false
              (s, next, .ok none)

/-- Whether SAMPLE ends at once with BADQ (R333). -/
def State.sampleBad (s : State) (w : Walk) : Bool :=
  let q (i : Nat) : Nat := (w.query.getD i 0).toNat
  let rows := q 10 + bits (q 8) 2 5 + 1
  let S := ((s.body? w.iss.h).map (·.spsize)).getD 0
  w.bad || !w.latched || S < w.addr % 2 ^ 32 + 128 * rows || S < q 11 + 4 * rows || q 11 % 4 != 0

/-! ## Threads of the unit (R336 to R338) -/

/-- A thread of the unit by its name. -/
def State.walk? (s : State) (id : Nat) : Option Walk := s.walks.find? (·.id == id)
/-- A thread put back. -/
def State.setWalk (s : State) (w : Walk) : State := { s with walks := s.walks.map fun (x : Walk) => if x.id = w.id then w else x }

/-- The result block of a thread that ends with a code; λ is what MLOC found (R324, R329, R333). -/
def Walk.block (w : Walk) (code : Nat) (lam : List Word) : List Word :=
  let m := Mark.of w.st
  match w.kind with
  | 0 => if code = 7 then setAt w.st 6 (statusWord 7 m.lface m.z false m.e 0) else m.put w.st code
  | 1 => [BitVec.ofNat 32 m.c, statusWord code m.lface m.z m.nudged m.e m.n] ++ lam ++ [0, 0]
  | _ => setAt w.st 2 (BitVec.ofNat 32 code)

/-- A thread ends: its block is written unless its thread has gone, and F3 drops with the last of its instruction. -/
def State.endWalk (s : State) (w : Walk) (code : Nat) (lam : List Word := [0, 0, 0, 0]) : State :=
  let s := if w.keep then s.modPolder w.iss.h fun p => p.deliverBlock w.iss.f w.g w.id w.t w.dst (w.block code lam) else s
  let s := { s with walks := s.walks.filter (·.id != w.id) }.clearFaults (.walk w.id)
  if s.walks.any (·.inst == w.inst) then s
  else s.modFasc w.iss.h w.iss.f fun f => { f with cnt := modAt f.cnt 3 (· - 1) }

/-- λ0 to λ3 of the point that MLOC has found (R329). -/
def State.mlocLam (s : State) (c : Ctx) (w : Walk) : Except WalkStop (List Word) :=
  if w.poly then .ok [0, 0, 0, 0]
  else do
    let m := Mark.of w.st
    let cell ← s.cell c w m.c
    let vs ← s.meshVerts c w cell.idx
    match bary vs (V3.of fun i => (fw w.query i).toQ) with
    | none => return [0, 0, 0, 0]
    | some l => return l.map fun x => wf (r32 (.ofQ x false))

/-- Whether the entry face of a state block is not below the face count of its cell (R325). -/
def State.badFace (s : State) (c : Ctx) (w : Walk) : Except WalkStop Bool :=
  let e := (Mark.of w.st).e
  if w.kind ≠ 0 || e = 15 then .ok false
  else if !w.poly then .ok (4 ≤ e)
  else do
    let b ← s.cellBytes c w (Mark.of w.st).c
    return decide (field b 0 4 ≤ e)

/-- The mesh descriptor of an instruction whose read at issue failed: one later read serves all of its threads (R314). -/
def State.latchMesh (s : State) (c : Ctx) (w : Walk) : Except WalkStop (State × Walk) :=
  if w.latched || w.kind = 2 then .ok (s, w)
  else
    match s.walkRead c w w.addr 64 with
    | .error e => .error e
    | .ok m =>
      let set (x : Walk) : Walk := { x with mesh := m, latched := true }
      .ok ({ s with walks := s.walks.map fun (x : Walk) => if x.inst = w.inst && x.kind = w.kind then set x else x }, set w)

/-- The start of a thread: its query is checked, and MLOC's line is read; the code when it ends at once. -/
def State.beginWalk (s : State) (c : Ctx) (w : Walk) : Except WalkStop (Walk × Option Nat) := do
  if w.begun then return (w, none)
  else if w.kind = 2 then return ({ w with begun := true }, if s.sampleBad w then some 7 else none)
  else
    if meshBad w.mesh then return (w, some 5)
    else if w.bad then return (w, some 7)
    else
      let f ← s.badFace c w
      let w ← s.lineOf c w
      let k := Mark.of w.st
      return ({ w with begun := true },
        if f then some 7 else if w.kind = 0 && !k.t.lt false w.tmax then some 0 else none)

/-- What a stop does: the thread is held, ends with FAULT or BADMESH, or its context dies. -/
def State.stopWalk (s : State) (c : Ctx) (w : Walk) : WalkStop → State
  | .hold f => (s.setWalk w).holdFault c (.walk w.id) f
  | .fault => s.endWalk w 6
  | .badmesh => s.endWalk w 5
  | .pois => (s.contextDead c.c).endWalk { w with keep := false } 6

/-- Passes of a thread: at most n of them. -/
def State.runWalk (s : State) (c : Ctx) : Nat → Walk → State
  | 0, w => s.setWalk w
  | n + 1, w =>
    if w.kind = 2 then
      match s.sampleStep c w with
      | (s, w, .error e) => s.stopWalk c w e
      | (s, w, .ok (some k)) => s.endWalk w k
      | (s, w, .ok none) => State.runWalk s c n w
    else
      match s.pass c w w.theLine with
      | (w', .error .badmesh) => s.stopWalk c w' .badmesh
      | (_, .error e) => s.stopWalk c w e  -- as at the start of the step (R336)
      | (w, .ok none) => State.runWalk s c n w
      | (w, .ok (some k)) =>
        if w.kind = 1 && k = 0 then
          match s.mlocLam c w with
          | .ok l => s.endWalk w 0 l
          | .error e => s.stopWalk c w e
        else s.endWalk w k

/-- Virtual ranges that a thread of the unit reads (R314 to R317, R330 to R332): the mesh with its vertices, cells and fields, or the
grid's occupancy bits and feature tables. -/
def Walk.ranges (w : Walk) : List (Nat × Nat) :=
  let m := w.mesh
  if w.kind = 2 then
    [(field m 192 64, 2 ^ (field m 320 4 + field m 324 4 + field m 328 4) / 8),
     (field m 256 64, (field m 332 4 + 1) * 2 ^ field m 340 5 * (if flag m 336 then 8 else 4))]
  else
    [(w.addr, 64), (field m 0 64, 12 * field m 128 32), (field m 64 64, (if w.poly then 320 else 32) * field m 160 32),
     (field m 192 64, (if flag m 257 then 16 else 32) * field m 128 32)]

/-- MARCH_UNIT_THREAD_END (R338): a thread makes some of its passes, and ends with its last. -/
def execMarchUnitThreadEnd (k : Nat) (s : State) : Host.Outcome State Fault Refusal :=
  match s.walk? k with
  | none => .next s.idle
  | some w =>
    match (s.body? w.iss.h).bind fun p => s.ctx? p.ctx with
    | none => .next s.idle
    | some c =>
      if s.faults.any fun a => a.owner == .walk k && !a.ended then .next s.idle
      else if s.faults.any fun a => a.owner == .walk k then .next (s.stopWalk c w .fault).idle
      else
        let s := s.strayFar c (dieOf (coreOf w.iss.h)) (s.strayAt w.ranges)
        match s.latchMesh c w with
        | .error e => .next (s.stopWalk c w e).idle
        | .ok (s, w) =>
          match s.beginWalk c w with
          | .error e => .next (s.stopWalk c w e).idle
          | .ok (w, some k) => .next (s.endWalk w k).idle
          | .ok (w, none) => .next (s.runWalk c (1 + s.choose (2 ^ 34) (2 ^ 17)) w).idle

/-! ## Issue (R311, R323, R329, R333, R339, R340) -/

/-- MARCH, MLOC and SAMPLE: nq query words and nr result words per thread, `st` the state block that they start from. -/
def walkOp (kind nq nr : Nat) (rw : Bool) (a b c : Opnd) (trap : V → Nat → Option TrapInfo) (mesh : V → V → Nat → Option (List Byte) × V)
    (latch : V → List Word → Option (List Byte))
    (st : V → List Word → Nat → List Word) (s : State) : Host.Outcome State Fault Refusal :=
  issue s (fun _ => { a := .vr nr rw a, b := .vq nq b, c := .a2u c, wall := true }) fun v w act =>
    let x := v.rd2 c (lowest act) 2
    let dsts := (List.range nr).map a.plus
    match trap v x with
    | some t => .trap t
    | none =>
      if !w.capOk dsts then .trap { t := .regcap }
      else if 1024 < v.s.unitLoad v.p.core + (threadsOf act).length then .wait
      else
        match v.engineOrder w with
        | none => .wait
        | some w =>
          let (got, w) := mesh v w x
          let inst := w.s.nextId
          let one (y : Nat × Nat) : Walk :=
            let q := (List.range nq).map fun i => v.rd (b.plus i) y.1 1
            let m := if kind = 2 then latch v q else got
            { id := inst + 1 + y.2, iss := { h := v.l.h, f := v.l.f }, g := v.l.g, t := y.1, inst := inst, kind := kind, dst := a.code,
              mesh := m.getD [], latched := m.isSome, addr := x, query := q, st := st v q y.1, helper := v.f.r.hmask.getLsbD y.1,
              far := Config.freeBool (v.s.draw (2 ^ 34 + y.2)) }
          let ws := (threadsOf act).zipIdx.map one
          let w := dsts.foldl (fun w o => w.bindDst act o) { w with f := { w.f with cnt := modAt w.f.cnt 3 (· + 1) } }
          .next { w with s := { w.s with walks := w.s.walks ++ ws, nextId := inst + 1 + ws.length } }

/-- The mesh descriptor at issue (R314, R339): its alignment and space, and its bytes when they can be read. -/
def meshTrap (x : Nat) : Option TrapInfo :=
  if x % 64 ≠ 0 then some { t := .misalign, addr := x }
  else if !(isGlobal x && x + 64 ≤ 2 ^ 52) then some { t := .space, addr := x }
  else none

/-- The mesh descriptor as an instruction reads it at issue (R314, R334); none: the read waits, or fails. -/
def V.meshGet (v w : V) (x : Nat) : Option (List Byte) × V :=
  match v.engGet w 0 x 64 with
  | .ok (b, w) => (some b, w)
  | .error _ => (none, w)

/-- MARCH (R323 to R325). -/
def execMarch (a b c : Opnd) (s : State) : Host.Outcome State Fault Refusal :=
  walkOp 0 12 8 true a b c (fun _ x => meshTrap x) V.meshGet (fun _ _ => none)
    (fun v _ t =>
      let st := (List.range 8).map fun i => v.rd (a.plus i) t
      let m := Mark.of st
      setAt st 6 (statusWord 0 m.lface m.z false m.e 0)) s

/-- MLOC (R329). -/
def execMloc (a b c : Opnd) (s : State) : Host.Outcome State Fault Refusal :=
  walkOp 1 4 8 false a b c (fun _ x => meshTrap x) V.meshGet (fun _ _ => none)
    (fun _ q _ => [q.getD 3 0, 0, 0, 0, 0, 0, statusWord 0 0 0 false 15 0, 0]) s

/-- SAMPLE (R333): it reads words 0 and 3 of its result block and consumes the poison of those (R129). -/
def execSample (a b c : Opnd) (s : State) : Host.Outcome State Fault Refusal :=
  walkOp 2 12 4 false a b c
    (fun v x =>
      if (threadsOf v.active).any fun t => v.pois a t || v.pois (a.plus 3) t then some { t := .poison }
      else if x % 128 ≠ 0 then some { t := .misalign, addr := x }
      else if !inWindow 0xFE 32 x 1 v.p.spsize then some { t := .space, addr := x }
      else none)
    (fun _ w _ => (none, w)) (fun v q => v.p.glatch.getD (bits (q.getD 8 0).toNat 0 2) none)  -- copied whole at issue (R340)
    (fun v _ t => [v.rd a t, 0, 0, v.rd (a.plus 3) t]) s

/-- GRIDSET (R330, R339, R340): the sub-group is held until the latch is written. -/
def execGridset (a : Opnd) (n : BitVec 2) (s : State) : Host.Outcome State Fault Refusal :=
  issue s (fun _ => engineDesc (.a2u a) .any .any) fun v w act =>
    let x := v.rd2 a (lowest act)
    let sp := spaceOf x == 0xFE
    if x % 128 ≠ 0 then .trap { t := .misalign, addr := x }
    else if !inSpace v.p.spsize x 128 then .trap { t := .space, addr := x }
    else
      match v.engineOrder w with
      | none => .wait
      | some w =>
        let got : Except TrapInfo (List Byte × V) :=
          if sp then (let (b, q) := v.p.spRead (x % 2 ^ 32) 128; if q then .error { t := .poison } else .ok (b, w))
          else v.engGet w 0 x 128
        match got with
        | .error t => .trap t
        | .ok (b, w) =>
          if gridBad b then .trap { t := .griddesc }
          else .hold { w with e := { w.e with hold := .gridset n.toNat b } }

/-- GRID_LATCH_WRITTEN (R340). -/
def execGridLatchWritten (h f g : Nat) (s : State) : Host.Outcome State Fault Refusal :=
  match s.polder? h with
  | none => .next s.idle
  | some p =>
    let held : Option Hold := ((p.fs[f]?).bind fun (x : Fascine) => x.r.ents[g]?).map fun (e : SplitEntry) => e.hold
    match held with
    | some (.gridset n b) => .next ((s.setPolder { p with glatch := setAt p.glatch n (some b) }).modFasc h f (·.release g)).idle
    | _ => .next s.idle

end Sys2Proof.Machine
end

