-- ==== Sys2Proof/Machine/Tile.lean ====
section
/-! DEFINITION. What a matrix engine computes (spec/03_numbers.md R87 to R90, spec/11_operand_slot.md R266 to R282): elements
of tiles and scales, block sums, the special record, and the values that a drain writes. -/
namespace Sys2Proof.Machine

/-- Whether a format code is an integer one: i8 or n8 (R266). -/
def intCode (c : Nat) : Bool := c == 4 || c == 5
/-- Bits of an element of a format (R266). -/
def codeWidth (c : Nat) : Nat := if c = 2 then 4 else if c = 3 then 16 else 8
/-- The value of an element of a floating format; k4 through a codebook table (R70, R266). -/
def codeFv (c : Nat) (book : List Byte) (x : Nat) : Fv :=
  match c with
  | 0 => Fmt.e4m3.decode x
  | 1 => Fmt.e5m2.decode x
  | 2 => Fmt.bf16.decode (leNat ((book.drop (2 * x)).take 2))
  | _ => Fmt.bf16.decode x
/-- The value of an element of an integer format. -/
def codeInt (c x : Nat) : Int := if c = 4 then signed 8 x else x % 256

/-- Element number i of a tile in a slot, as bits (R267). -/
def tileBits (m : Memory) (w i : Nat) : Nat :=
  bits (leNat (m.readN (w * i / 8) 2)) (w * i % 8) w

/-- A block scale byte (R71). `sc` is ASC or BSC. -/
def scaleFv (sc : Nat) (b : Byte) : Fv :=
  match sc with
  | 0 => .fin ⟨1, 1⟩
  | 1 => if b = 0xFF then .nan false else .fin (Q.pow2 ((b.toNat : Int) - 127))
  | _ => Fmt.e4m3.decode b.toNat

/-- An operand value as the arrays take it: special values add nothing (R89). -/
def finQ : Fv → Q
  | .fin q => q
  | _ => ⟨0, 1⟩
/-- Whether a value is infinite or NaN. -/
def Fv.special (x : Fv) : Bool := x.isNan || x.isInf

/-- t of R87 from an exact block sum and its scales; exact when both scales are E8M0 or both are 1. -/
def blockTerm (asc bsc : Nat) (s : Q) (sa sb : Fv) : Q :=
  let x := (s.mul (finQ sa)).mul (finQ sb)
  if asc = bsc ∧ asc < 2 then x else if x.isZero then x else roundSig 40 x

/-- The accumulator's addition (R87): one RNE rounding to f32; an exact zero leaves the word as it is. -/
def accAdd (acc : Word) (t : Q) : Word :=
  if t.isZero then acc
  else BitVec.ofNat 32 (Fmt.f32.encode (roundFv Fmt.f32 24 {} (Fv.add 0 (Fmt.f32.decode acc.toNat) (.fin t)).1).1)

/-- A code of the special record from a value: 0 none, 1 +inf, 2 -inf, 3 NaN. -/
def specOf : Fv → Nat
  | .nan _ => 3
  | .inf s => if s then 2 else 1
  | _ => 0
/-- Two entries of the special record combined (R280). -/
def specJoin (a b : Nat) : Nat := if a = 0 then b else if b = 0 then a else if a = b then a else 3

/-- One product's entry in the special record (R280). -/
def specProduct (a b sa sb : Fv) : Nat :=
  if a.special || b.special || sa.special || sb.special then specOf (((a.mul b).1.mul sa).1.mul sb).1 else 0

/-- An exact sum. -/
def qsum (l : List Q) : Q := l.foldl Q.add ⟨0, 1⟩

/-- Products of one block for one element: pairs of operand values. -/
structure Block where
  asc : Nat := 0
  bsc : Nat := 0
  sa : Fv := .fin ⟨1, 1⟩
  sb : Fv := .fin ⟨1, 1⟩
  prods : List (Fv × Fv)
  deriving DecidableEq, Repr

/-- A floating block added into an accumulator word and its special entry (R87, R89, R280). -/
def Block.commit (b : Block) (acc : Word) (sp : Nat) : Word × Nat :=
  let s := qsum (b.prods.map fun x => if x.1.special || x.2.special then ⟨0, 1⟩ else (finQ x.1).mul (finQ x.2))
  let t : Q := if b.sa.special || b.sb.special then ⟨0, 1⟩ else blockTerm b.asc b.bsc s b.sa b.sb
  (accAdd acc t, b.prods.foldl (fun a x => specJoin a (specProduct x.1 x.2 b.sa b.sb)) sp)

/-- The inputs of one block of a loop: tiles, bitmaps when sparse, scales, codebooks (R276, R277). -/
structure BlockIn where
  fmt : List Byte
  tabs : List Byte
  ta : Memory
  tb : Memory
  abmp : Option (List Byte) := none
  bbmp : Option (List Byte) := none
  asc : List Byte := []
  bsc : List Byte := []
  deriving DecidableEq, Repr

/-- Codebook table t of the copies an operation holds (R283). -/
def tabOf (tabs : List Byte) (t : Bool) : List Byte := if t then tabs.drop 32 else tabs.take 32
/-- A bit of a bitmap; true without one (R277). -/
def bmpBit (m : Option (List Byte)) (i : Nat) : Bool :=
  match m with
  | none => true
  | some l => (l.getD (i / 8) 0).getLsbD (i % 8)

/-- Element A(m, k) or B(k, n) of a block as a floating value; a bitmap zero reads +0 (R277). -/
def BlockIn.elF (x : BlockIn) (isA : Bool) (row k : Nat) : Fv :=
  let c := if isA then field x.fmt 0 4 else field x.fmt 4 4
  let i := row * fmtK x.fmt + k
  if bmpBit (if isA then x.abmp else x.bbmp) i then
    codeFv c (tabOf x.tabs (flag x.fmt (if isA then 13 else 14))) (tileBits (if isA then x.ta else x.tb) (codeWidth c) i)
  else .zero false false
/-- The same element of an integer format. -/
def BlockIn.elI (x : BlockIn) (isA : Bool) (row k : Nat) : Int :=
  let c := if isA then field x.fmt 0 4 else field x.fmt 4 4
  let i := row * fmtK x.fmt + k
  if bmpBit (if isA then x.abmp else x.bbmp) i then codeInt c (tileBits (if isA then x.ta else x.tb) 8 i) else 0

/-- Block j of a step committed into element (m, n) (R276, R87, R88). -/
def BlockIn.element (x : BlockIn) (j m n : Nat) (acc : Word) (sp : Nat) : Word × Nat :=
  let ks := (List.range (fmtBL x.fmt)).map (· + j * fmtBL x.fmt)
  if intCode (field x.fmt 0 4) then
    (acc + BitVec.ofInt 32 (ks.foldl (fun (a : Int) k => a + x.elI true m k * x.elI false n k) 0), sp)
  else
    let nb := fmtNb x.fmt
    let sc (code : Nat) (l : List Byte) (i : Nat) : Fv := if code = 0 then .fin ⟨1, 1⟩ else scaleFv code (l.getD i 0)
    let b : Block :=
      { asc := field x.fmt 9 2, bsc := field x.fmt 11 2,
        sa := sc (field x.fmt 9 2) x.asc (m * nb + j), sb := sc (field x.fmt 11 2) x.bsc (n * nb + j),
        prods := ks.map fun k => (x.elF true m k, x.elF false n k) }
    b.commit acc sp

/-- An accumulator with every element passed through f, which sees row, column, word and special entry (R272). -/
def Accum.mapAll (a : Accum) (f : Nat → Nat → Word → Nat → Word × Nat) : Accum :=
  (List.range 1536).foldl (fun a i =>
    let (w, sp) := f (i / 48) (i % 48) (SMap.get 0 a.words i) (SMap.get 0 a.spec i)
    { a with words := SMap.set 0 a.words i w, spec := SMap.set 0 a.spec i sp }) a

/-- The outer-product steps of a block: positions with a bit of A's column and a bit of B's row (R277). -/
def BlockIn.outerSteps (x : BlockIn) (j : Nat) : Nat :=
  ((List.range (fmtBL x.fmt)).filter fun k =>
    let k := k + j * fmtBL x.fmt
    (List.range 32).any (fun m => bmpBit x.abmp (m * fmtK x.fmt + k)) &&
      (List.range 48).any (fun n => bmpBit x.bbmp (n * fmtK x.fmt + k))).length

/-! ## The drain (R280, R282, R90) -/

/-- v(m, n) of R280; the accumulator holds integers or floating values. -/
def Accum.value (a : Accum) (isInt : Bool) (m n : Nat) : Fv :=
  let sp := SMap.get 0 a.spec (48 * m + n)
  let w := SMap.get 0 a.words (48 * m + n)
  let acc := if isInt then Fv.ofQ (Q.int w.toInt) false else Fmt.f32.decode w.toNat
  if (List.range 48).any (fun k => SMap.get 0 a.spec (48 * m + k) == 3) then .nan false
  else if sp = 0 then acc
  else
    let neg := sp == 2
    match acc with
    | .inf s => if s = neg then .inf neg else .nan false
    | _ => .inf neg

/-- One drained element as bytes (R282); each of its two roundings draws afresh (R75, R90). -/
def drainElement (fmt : List Byte) (a : Accum) (m n draw : Nat) : List Byte :=
  let isInt := intCode (field fmt 0 4)
  let w := SMap.get 0 a.words (48 * m + n)
  let df := field fmt 16 3
  if isInt && df == 5 then wordBytes w
  else
    let r (k : Nat) : Rnd := { mode := field fmt 19 3, satf := flag fmt 22, draw := Config.draw16 (draw + k) % 65536 }
    let x := a.value isInt m n
    let ta := Fmt.f32.decode (field fmt 96 32)
    let tb := Fmt.f32.decode (field fmt 128 32)
    let y := (roundFv Fmt.f32 24 (r 0) ((x.mul ta).1.mul tb).1).1
    match df with
    | 0 => leBytes 4 (Fmt.f32.encode y)
    | 5 => leBytes 4 (wrap 32 (toInt 0 (r 1) y).1)
    | k =>
      let F := if k = 1 then Fmt.bf16 else if k = 2 then Fmt.f16 else if k = 3 then Fmt.e4m3 else Fmt.e5m2
      leBytes (F.w / 8) (F.encode (roundFv F F.p (r 1) y).1)

/-- The bytes of row m of a drain. -/
def drainRow (fmt : List Byte) (a : Accum) (m draw : Nat) : List Byte :=
  (List.range 48).flatMap fun n => drainElement fmt a m n (draw + 2 * n)

/-- Every word +0 and the special record empty (R282, R288). -/
def Accum.cleared (a : Accum) : Accum := { a with words := [], spec := [] }

end Sys2Proof.Machine
end

