-- ==== Sys2Proof/Machine/Matrix.lean ====
section
/-! DEFINITION. Operand slots and the matrix engines, 0xC0 to 0xCC, with their steps (spec/11_operand_slot.md R265 to
R289). -/
namespace Sys2Proof.Machine

/-! ## Access -/

/-- The engine of the issuing fascine's partition (R265). -/
def V.engine (v : V) : Engine := ((v.p.ranks[v.l.f / 8]?).bind fun r => v.p.engines.find? (·.part == r.1)).getD { part := 8 }
/-- That engine put back. -/
def V.setEngine (w : V) (e : Engine) : V :=
  { w with p := { w.p with engines := w.p.engines.map fun (x : Engine) => if x.part = e.part then e else x } }
/-- The engine of partition e of polder h. -/
def State.engine? (s : State) (h e : Nat) : Option (Polder × Engine) :=
  (s.polder? h).bind fun p => (p.engines.find? (·.part == e)).map fun x => (p, p.pruned x)
/-- An engine of a polder put back. -/
def State.setEngine (s : State) (h : Nat) (e : Engine) : State :=
  s.modPolder h fun p => { p with engines := p.engines.map fun (x : Engine) => if x.part = e.part then e else x }

/-- MXDESC (R271, R273, R275, R278, R281): its chapter names no cause for the record (R375, log 55). -/
def mxdesc : TrapInfo := { t := .mxdesc }
/-- SLOTST (R268). -/
def slotst : TrapInfo := { t := .slotst }

/-- Fields of a matrix instruction (R285): its literal needs `.slots` of 1 or more. -/
def mxDesc (a b : FChk) (ok : V → Bool) (v : V) : Desc := { engineDesc a b (.lit (v.p.nslots != 0 && ok v)) with wall := true }
/-- The check of a slot literal. -/
def slotOk (n : BitVec 4) (v : V) : Bool := decide (n.toNat < v.p.nslots)

/-- Slot n of an engine. -/
def Engine.slot (e : Engine) (n : Nat) : Slot := e.slots.getD n {}
/-- Slot n changed. -/
def Engine.modSlot (e : Engine) (n : Nat) (f : Slot → Slot) : Engine := { e with slots := modAt e.slots n f }
/-- Accumulator n changed. -/
def Engine.modAcc (e : Engine) (n : Nat) (f : Accum → Accum) : Engine := { e with accs := modAt e.accs n f }

/-- The operand x of an instruction that reads n bytes of scratchpad at x: alignment and bounds (R285). -/
def V.offsetTrap (v : V) (x align n : Nat) : Option TrapInfo :=
  if x % align ≠ 0 then some { t := .misalign, addr := x }
  else if v.p.spsize < x + n then some { t := .space, addr := x }
  else none

/-! ## Slots (R268, R286) -/

/-- OSCLAIM (R286). -/
def execOsclaim (p : Fin 8) (n : BitVec 4) (s : State) : Host.Outcome State Fault Refusal :=
  issue s (mxDesc .any .any (slotOk n)) fun v w act =>
    let free := (v.engine.slot n.toNat).st == 0
    let w := if free then w.setEngine (v.engine.modSlot n.toNat fun x => { x with st := 1 }) else w
    .next (w.wrP p.val act fun _ => free)

/-- OSREL (R286). -/
def execOsrel (n : BitVec 4) (s : State) : Host.Outcome State Fault Refusal :=
  issue s (mxDesc .any .any (slotOk n)) fun v w _ =>
    if (v.engine.slot n.toNat).st = 0 then .trap slotst
    else .next (w.setEngine (v.engine.modSlot n.toNat fun x => { x with st := 0 }))

/-- OSLOAD (R286): a load of 6144 bytes is queued, counted in F3. -/
def execOsload (a : Opnd) (n : BitVec 4) (s : State) : Host.Outcome State Fault Refusal :=
  issue s (mxDesc (.u a) .any (slotOk n)) fun v w act =>
    let x := (v.rd a (lowest act)).toNat
    match v.offsetTrap x 128 6144 with
    | some t => .trap t
    | none =>
      if (v.engine.slot n.toNat).st = 0 then .trap slotst
      else
        match v.engineOrder w with
        | none => .wait
        | some w =>
          let e := w.engine.modSlot n.toNat fun y => { y with st := 2 }
          let o : MOp := { id := w.s.nextId, kind := 0, a := n.toNat, f := v.l.f, src := x }
          .next { w.setEngine { e with q := e.q ++ [o] } with
                    f := { w.f with cnt := modAt w.f.cnt 3 (· + 1) }, s := { w.s with nextId := w.s.nextId + 1 } }

/-- Slots that an operation still reads or writes: number, and whether it writes (R269). -/
def MOp.slots (o : MOp) : List (Nat × Bool) :=
  match o.kind with
  | 0 => [(o.a, true)]
  | 2 | 3 =>
    let nb := max 1 (fmtNb o.fmt)
    let i0 := o.pos / nb
    let count (n : Nat) : Nat := if n = 0 then 16 else n
    let an := count (field o.desc 20 4)
    let bn := count (field o.desc 28 4)
    let left := min 16 (field o.desc 0 16 - i0)
    (List.range left).flatMap fun k =>
      [((field o.desc 16 4 + (i0 + k) % an) % 16, flag o.desc 32), ((field o.desc 24 4 + (i0 + k) % bn) % 16, flag o.desc 33)]
  | _ => []

/-- Whether an operation must wait for one that issued before it and uses one of these slots (R269). -/
def Engine.slotBusy (e : Engine) (id : Nat) (use : List (Nat × Bool)) : Bool :=
  e.q.any fun o => decide (o.id < id) && o.slots.any fun x => use.any fun y => x.1 == y.1 && (x.2 || y.2)

/-- The state of a slot when a load has written it: LOADED when no other load of it is queued (R268). -/
def Engine.loaded (e : Engine) (n id : Nat) : Engine :=
  e.modSlot n fun x =>
    if x.st = 2 ∧ !(e.q.any fun o => o.id != id && o.slots.any fun y => y.1 == n && y.2) then { x with st := 3 } else x

/-- 6144 bytes of scratchpad from an offset written into a slot, poison with them (R130, R268). -/
def Polder.loadSlot (p : Polder) (src : Nat) (x : Slot) : Slot :=
  { x with mem := Memory.writeN [] 0 (p.spad.readN src 6144),
           pois := (p.spois.filter fun y => src ≤ y && y < src + 6144).map (· - src) }

/-- SLOT_LOAD_COMPLETE (R268): the oldest queued load of a slot writes it. -/
def execSlotLoadComplete (h e slot : Nat) (s : State) : Host.Outcome State Fault Refusal :=
  match s.engine? h e with
  | none => .next s.idle
  | some (p, x) =>
    match x.q.find? fun o => o.kind == 0 && o.a == slot with
    | none => .next s.idle
    | some o =>
      if x.slotBusy o.id o.slots || s.spadBusy h o.id o.src 6144 false e then .next s.idle
      else
        let x := (x.loaded slot o.id).modSlot slot (p.loadSlot o.src)
        let s := s.setEngine h { x with q := x.q.filter (·.id != o.id) }
        .next (s.modFasc h o.f fun f => { f with cnt := modAt f.cnt 3 (· - 1) }).idle

/-! ## Formats and codebooks (R270, R271, R283, R287) -/

/-- The reset value of the format block (R270). -/
def fmtReset : List Byte := leBytes 12 0 ++ leBytes 4 0x3F800000 ++ leBytes 4 0x3F800000 ++ leBytes 12 0

/-- Whether MFMT refuses a format block (R271). -/
def fmtBad (f : List Byte) : Bool :=
  (pairK (field f 0 4) (field f 4 4)).isNone || 5 < field f 16 3 || field f 19 3 == 7 || field f 9 2 == 3 || field f 11 2 == 3 ||
    (3 ≤ field f 0 4 && (field f 9 2 != 0 || field f 11 2 != 0)) || flag f 15 || field f 23 9 != 0 || field f 160 96 != 0

/-- A read of n bytes of scratchpad by the engine at issue: none: it waits; else the bytes, or a consumption of poison
(R130, R218). -/
def V.engineRead (v : V) (x n : Nat) : Option (List Byte × Bool) :=
  if v.s.spadBusy v.l.h v.s.nextId (x : Nat) n false v.engine.part then none else some (v.p.spRead x n)

/-- The common form of an instruction that reads n bytes of scratchpad at value(A): its checks, its order, its read. -/
def V.withRead (v w : V) (x align n : Nat) (k : V → List Byte → Res) : Res :=
  match v.offsetTrap x align n with
  | some t => .trap t
  | none =>
    match v.engineOrder w with
    | none => .wait
    | some w =>
      match v.engineRead x n with
      | none => .wait
      | some (b, q) => if q then .trap { t := .poison } else k w b

/-- MFMT (R287). -/
def execMfmt (a : Opnd) (n : BitVec 2) (s : State) : Host.Outcome State Fault Refusal :=
  issue s (mxDesc (.u a) .any fun _ => true) fun v w act =>
    v.withRead w (v.rd a (lowest act)).toNat 32 32 fun w b =>
      if fmtBad b then .trap mxdesc else .next (w.setEngine (w.engine.modAcc n.toNat fun x => { x with fmt := b }))

/-- MCBOOK (R283): the sub-group is held until the table is written. -/
def execMcbook (a : Opnd) (t : BitVec 1) (s : State) : Host.Outcome State Fault Refusal :=
  issue s (mxDesc (.u a) .any fun _ => true) fun v w act =>
    v.withRead w (v.rd a (lowest act)).toNat 32 32 fun w b =>
      .hold { w with e := { w.e with hold := .codebook t.toNat b } }

/-- CODEBOOK_TABLE_WRITTEN (R283). -/
def execCodebookTableWritten (h f g : Nat) (s : State) : Host.Outcome State Fault Refusal :=
  match s.polder? h with
  | none => .next s.idle
  | some p =>
    let held : Option Hold := ((p.fs[f]?).bind fun (x : Fascine) => x.r.ents[g]?).map fun (e : SplitEntry) => e.hold
    match held with
    | some (.codebook t b) =>
      let part := ((p.ranks[f / 8]?).map (·.1)).getD 8
      let p := { p with engines := p.engines.map fun (e : Engine) => if e.part = part then { e with books := setAt e.books t b } else e }
      .next ((s.setPolder p).modFasc h f (·.release g)).idle
    | _ => .next s.idle

/-! ## Versioned operations (R273, R288) -/

/-- Issue of a versioned operation on accumulator n that expects version v: the checks of R273 and the queue. -/
def V.version (v w : V) (n x kind : Nat) (desc : List Byte) : Res :=
  let e := v.engine
  let c := (e.acc n).ver
  let ver := x % 65536
  if 32768 ≤ (ver + 65536 - c) % 65536 || e.q.any (fun o => o.kind != 0 && o.a == n && o.v == ver) then .trap mxdesc
  else if 16 ≤ (e.q.filter (·.kind != 0)).length then .wait
  else
    let o : MOp := { id := w.s.nextId, kind := kind, a := n, v := ver, f := v.l.f, desc := desc, fmt := (e.acc n).fmt,
                     tabs := e.books.flatten }
    let loads := o.slots.filterMap fun y => if y.2 then some y.1 else none
    let e := loads.foldl (fun e k => e.modSlot k fun z => if z.st = 0 then z else { z with st := 2 }) w.engine
    .next { w.setEngine { e with q := e.q ++ [o] } with
              f := { w.f with cnt := modAt w.f.cnt 3 (· + 1) }, s := { w.s with nextId := w.s.nextId + 1 } }

/-- MZERO (R288). -/
def execMzero (b : Opnd) (n : BitVec 2) (s : State) : Host.Outcome State Fault Refusal :=
  issue s (mxDesc .any (.u b) fun _ => true) fun v w act =>
    match v.engineOrder w with
    | none => .wait
    | some w => v.version w n.toNat (v.rd b (lowest act) 1).toNat 1 []

/-- Whether a range that starts at an integer offset leaves the scratchpad. -/
def outside (S : Nat) (x : Int × Nat) : Bool := x.1 < 0 || (S : Int) < x.1 + x.2

/-- The trap of a loop descriptor (R275, R277): a named slot that is FREE, else a field outside its bounds. -/
def V.loopTrap (v : V) (n : Nat) (d : List Byte) (sparse : Bool) : Option TrapInfo :=
  let f := (v.engine.acc n).fmt
  let o : MOp := { id := 0, kind := 2, a := n, desc := d, fmt := f }
  let steps := field d 0 16
  let named := o.slots.map (·.1)
  let ends := if steps = 0 then [] else (loopReads d f sparse 0) ++ (loopReads d f sparse (steps - 1))
  let w (k : Nat) : Nat := field d (32 * k) 32
  if named.any fun k => decide (k < v.p.nslots) && (v.engine.slot k).st == 0 then some slotst
  else if named.any (fun k => decide (v.p.nslots ≤ k)) || field d 33 31 / 2 != 0 || ends.any (outside v.p.spsize) ||
      (flag d 32 && (w 2 % 128 != 0 || w 3 % 128 != 0)) || (flag d 33 && (w 4 % 128 != 0 || w 5 % 128 != 0)) ||
      (sparse && field d 384 128 != 0) then some mxdesc
  else none

/-- MLOOP (R276). -/
def execMloop (a b : Opnd) (n : BitVec 2) (s : State) : Host.Outcome State Fault Refusal :=
  issue s (mxDesc (.u a) (.u b) fun _ => true) fun v w act =>
    v.withRead w (v.rd a (lowest act)).toNat 32 32 fun w d =>
      match v.loopTrap n.toNat d false with
      | some t => .trap t
      | none => v.version w n.toNat (v.rd b (lowest act) 1).toNat 2 d

/-- MSPARSE (R277). -/
def execMsparse (a b : Opnd) (n : BitVec 2) (s : State) : Host.Outcome State Fault Refusal :=
  issue s (mxDesc (.u a) (.u b) fun _ => true) fun v w act =>
    v.withRead w (v.rd a (lowest act)).toNat 64 64 fun w d =>
      match v.loopTrap n.toNat d true with
      | some t => .trap t
      | none => v.version w n.toNat (v.rd b (lowest act) 1).toNat 3 d

/-- Whether MGUST refuses a descriptor under a format (R278). -/
def gustBad (d f : List Byte) : Bool :=
  let a := field f 0 4
  let b := field f 4 4
  let sp (x : Nat) : Bool := isGlobal x || (spaceOf x == 0xFE && x % 2 ^ 56 < 2 ^ 32)
  !((a < 2 && b < 2) || (a == 3 && b == 3) || (intCode a && intCode b)) || field f 9 2 != 0 || field f 11 2 != 0 ||
    field d 0 32 % 4 != 0 || field d 32 32 % 4 != 0 || field d 64 32 % 2 != 0 || field d 128 64 % 4 != 0 || field d 192 64 % 4 != 0 ||
    !sp (field d 128 64) || !sp (field d 192 64) || field d 272 240 != 0

/-- MGUST (R278). -/
def execMgust (a b : Opnd) (n : BitVec 2) (s : State) : Host.Outcome State Fault Refusal :=
  issue s (mxDesc (.u a) (.u b) fun _ => true) fun v w act =>
    v.withRead w (v.rd a (lowest act)).toNat 64 64 fun w d =>
      if gustBad d (v.engine.acc n.toNat).fmt then .trap mxdesc
      else v.version w n.toNat (v.rd b (lowest act) 1).toNat 4 d

/-- Whether MDRAIN refuses a descriptor (R281). -/
def drainBad (S : Nat) (d f : List Byte) : Bool :=
  let dst := field d 0 64
  let pitch := field d 64 32
  dst % 16 != 0 || pitch % 16 != 0 || field d 97 31 != 0 || !(isGlobal dst || spaceOf dst == 0xFE) ||
    (spaceOf dst == 0xFE && !inWindow 0xFE 32 dst (31 * pitch + 48 * drainSize f) S)

/-- MDRAIN (R281, R282). -/
def execMdrain (a b : Opnd) (n : BitVec 2) (s : State) : Host.Outcome State Fault Refusal :=
  issue s (mxDesc (.u a) (.u b) fun _ => true) fun v w act =>
    v.withRead w (v.rd a (lowest act)).toNat 16 16 fun w d =>
      if drainBad v.p.spsize d (v.engine.acc n.toNat).fmt then .trap mxdesc
      else v.version w n.toNat (v.rd b (lowest act) 1).toNat 5 d

/-! ## Counters and status (R274, R289) -/

/-- The operation on accumulator n that runs. -/
def Engine.running? (e : Engine) (n : Nat) : Option MOp := e.q.find? fun o => o.kind != 0 && o.a == n && o.running

/-- A DONE value that an operation has reached: blocks and rows are counted one by one (R274). -/
def MOp.someDone (o : MOp) (s : State) : Nat :=
  if o.kind = 3 ∨ o.kind = 4 then (0 :: o.reached).getD (s.choose (2 ^ 33) (o.reached.length + 1)) 0 else s.choose (2 ^ 33) (o.units + 1)
/-- Units committed by an operation. -/
def MOp.commit (o : MOp) (n : Nat) : MOp :=
  { o with units := o.units + n, reached := if o.kind = 3 ∨ o.kind = 4 then (o.units + n) :: o.reached else o.reached }

/-- The status word of accumulator n (R274); `reached` gives the DONE value read of an operation that runs, one that it has
reached. -/
def Engine.status (e : Engine) (n : Nat) (reached : MOp → Nat) : Word :=
  let a := e.acc n
  let run := e.running? n
  let (kind, done) := match run with
    | some o => (o.kind, reached o)
    | none => (a.opk, a.done)
  BitVec.ofNat 32 ((if run.isSome then 2 ^ 31 else 0) + kind * 2 ^ 28 + a.err * 2 ^ 26 + (if a.spec.isEmpty then 0 else 2 ^ 25) +
    min done 0xFFFFFF)

/-- MVER (R289). -/
def execMver (a : Opnd) (n : BitVec 2) (s : State) : Host.Outcome State Fault Refusal :=
  issue s (mxDesc (.d a) .any fun _ => true) fun v w act =>
    v.result w { a := .d a, unif := true } a act fun _ => BitVec.ofNat 32 (v.engine.acc n.toNat).ver

/-- MSTEP (R289). -/
def execMstep (a : Opnd) (n : BitVec 2) (s : State) : Host.Outcome State Fault Refusal :=
  issue s (mxDesc (.d a) .any fun _ => true) fun v w act =>
    v.result w { a := .d a, unif := true } a act fun _ => v.engine.status n.toNat (·.someDone v.s)

/-- MWAIT (R289): its return is an acquire at polder scope. -/
def execMwait (b : Opnd) (n : BitVec 2) (s : State) : Host.Outcome State Fault Refusal :=
  issue s (mxDesc .any (.u b) fun _ => true) fun v w act =>
    let x := (v.rd b (lowest act) 1).toNat % 65536
    if ((v.engine.acc n.toNat).ver + 65536 - x) % 65536 < 32768 then .next (w.acquire 2) else .wait

/-! ## Running (R273, R276 to R282) -/

/-- MATRIX_OP_START (R273): the operation that expects the counter's value starts. -/
def execMatrixOpStart (h e a : Nat) (s : State) : Host.Outcome State Fault Refusal :=
  match s.engine? h e with
  | none => .next s.idle
  | some (_, x) =>
    if (x.running? a).isSome then .next s.idle
    else
      match x.q.find? fun o => o.kind != 0 && o.a == a && o.v == (x.acc a).ver with
      | none => .next s.idle
      | some o =>
        .next (s.setEngine h { x with q := x.q.map fun (y : MOp) => if y.id = o.id then { y with running := true } else y }).idle

/-- Whether the operation has committed its last unit, or has met an error that ends it. -/
def MOp.finished (o : MOp) : Bool :=
  2 ≤ o.err || (match o.kind with
    | 2 | 3 => decide (field o.desc 0 16 * fmtNb o.fmt ≤ o.pos)
    | 4 => decide (32 * 2 ^ 33 ≤ o.pos)
    | 5 => decide (32 ≤ o.pos)
    | _ => true)

/-- MATRIX_OP_COMPLETE (R273): the version advances, the status is kept, F3 drops. A completed drain clears the accumulator
when DZERO asks for it (R282), and is a release (R218). -/
def execMatrixOpComplete (h e a : Nat) (s : State) : Host.Outcome State Fault Refusal :=
  match s.engine? h e with
  | none => .next s.idle
  | some (_, x) =>
    match x.running? a with
    | none => .next s.idle
    | some o =>
      if !o.finished then .next s.idle
      else
        let x := x.modAcc a fun y =>
          let y := if o.kind = 1 || (o.kind == 5 && o.err == 0 && flag o.desc 96) then y.cleared else y
          { y with ver := (y.ver + 1) % 65536, opk := o.kind, err := o.err, done := if o.kind = 1 then 0 else o.units }
        let s := (s.setEngine h { x with q := x.q.filter (·.id != o.id) }).clearFaults (.matrix h e o.id)
        .next (s.modFasc h o.f fun f => { f with cnt := modAt f.cnt 3 (· - 1) }).idle

/-- An operation changed. -/
def Engine.modOp (e : Engine) (id : Nat) (f : MOp → MOp) : Engine :=
  { e with q := e.q.map fun (y : MOp) => if y.id = id then f y else y }

/-- Slots of the step that a loop's next block belongs to. -/
def MOp.stepSlots (o : MOp) : List (Nat × Bool) := (MOp.slots { o with desc := patch o.desc 0 (leBytes 2 (o.pos / max 1 (fmtNb o.fmt) + 1)) })

/-- Whether a range of slot bytes meets a poisoned sector. -/
def Slot.poisonedAt (x : Slot) (lo n : Nat) : Bool := x.pois.any fun y => decide (y < lo + n) && decide (lo < y + 32)

/-- Bytes of scratchpad read by the engine from an integer offset. -/
def Polder.spBytes (p : Polder) (x : Int × Nat) : List Byte × Bool := p.spRead x.1.toNat x.2

/-- One block of a loop (R276, R277): its step's tiles are loaded first when the descriptor says so. None: it waits for
other engine work; else the polder's engine afterwards, and whether poison was consumed. -/
def State.loopBlock (s : State) (p : Polder) (e : Engine) (o : MOp) : Option (Engine × Bool) :=
  let nb := max 1 (fmtNb o.fmt)
  let i := o.pos / nb
  let j := o.pos % nb
  let sparse := o.kind == 3
  let reads := loopReads o.desc o.fmt sparse i
  let use := o.stepSlots
  if e.slotBusy o.id use || reads.any (fun x => s.spadBusy p.h o.id x.1 x.2 false e.part) then none
  else
    let sa := (use.getD (2 * 0) (0, false)).1
    let sb := (use.getD 1 (0, false)).1
    let d (k : Nat) : Nat := field o.desc (32 * k) 32
    let load (e : Engine) (ld : Bool) (slot base inc : Nat) : Engine :=
      if ld && j == 0 then (e.loaded slot o.id).modSlot slot (p.loadSlot (stepOff base inc i).toNat) else e
    let e := load e (flag o.desc 32) sa (d 2) (d 3)
    let e := load e (flag o.desc 33) sb (d 4) (d 5)
    let asc := if field o.fmt 9 2 = 0 then ([], false) else p.spBytes (stepOff (field o.fmt 32 32) (d 6) i, 32 * nb)
    let bsc := if field o.fmt 11 2 = 0 then ([], false) else p.spBytes (stepOff (field o.fmt 64 32) (d 7) i, 48 * nb)
    let am := if sparse then p.spBytes (stepOff (d 8) (d 10) i, 4 * fmtK o.fmt) else ([], false)
    let bm := if sparse then p.spBytes (stepOff (d 9) (d 11) i, 6 * fmtK o.fmt) else ([], false)
    let bl := fmtBL o.fmt
    let hit (x : Slot) (c rows : Nat) : Bool := (List.range rows).any fun m =>
      x.poisonedAt (codeWidth c * (m * fmtK o.fmt + j * bl) / 8) (codeWidth c * bl / 8)
    let pois := asc.2 || bsc.2 || am.2 || bm.2 || hit (e.slot sa) (field o.fmt 0 4) 32 || hit (e.slot sb) (field o.fmt 4 4) 48
    let x : BlockIn :=
      { fmt := o.fmt, tabs := o.tabs, ta := (e.slot sa).mem, tb := (e.slot sb).mem,
        abmp := if sparse then some am.1 else none, bbmp := if sparse then some bm.1 else none, asc := asc.1, bsc := bsc.1 }
    let units := if sparse then x.outerSteps j else 1
    some ((e.modAcc o.a fun a => a.mapAll fun m n w sp => x.element j m n w sp).modOp o.id
      (fun y => { y.commit units with pos := y.pos + 1 }), pois)

/-- What a run of MGUST adds up for each column: pairs of operand bits, and the count of entries and of indices past KMAX
(R279). -/
structure Run where
  terms : List (Nat × Nat × Nat) := []   -- column, element of A, element of B
  n : Nat := 0
  skipped : Bool := false
  rows : List (Nat × List (Nat × Nat)) := []   -- rows of B in the fibre cache
  deriving DecidableEq, Repr

/-- How an engine read fails: outside its space or bound (ERR 2), a fault, or poison. -/
inductive GErr where
  | space
  | page (f : PFault)
  | poison
  deriving DecidableEq, Repr

/-- An engine read of n bytes at a generic address for a matrix operation. -/
def State.gustRead (s : State) (c : Ctx) (p : Polder) (tag a n : Nat) : Except GErr (List Byte) :=
  if !inSpace p.spsize a n then .error .space
  else
    match s.eread c p.h p.die tag a n with
    | .error f => .error (.page f)
    | .ok (b, q) => if q then .error .poison else .ok b
/-- A word of it. -/
def State.gustWord (s : State) (c : Ctx) (p : Polder) (tag a : Nat) : Except GErr Nat :=
  match s.gustRead c p tag a 4 with
  | .ok b => .ok (leNat b)
  | .error e => .error e

/-- The entries of row k of B that fall in the tile: (column, value bits). -/
def State.gustRow (s : State) (c : Ctx) (p : Polder) (d : List Byte) (tag : Nat) : Nat → Nat → Except GErr (List (Nat × Nat))
  | 0, _ => .ok []
  | fuel + 1, q =>
    match s.gustWord c p tag (field d 192 64 + 4 * q), State.gustRow s c p d (tag + 1) fuel (q + 1) with
    | .error e, _ => .error e
    | .ok _, .error e => .error e
    | .ok e, .ok l =>
      let n : Int := (e / 65536 : Nat) - (field d 256 16 : Nat)
      .ok (if 0 ≤ n ∧ n < 48 then (n.toNat, e % 65536) :: l else l)

/-- The entries of row k of B for entry p of A: as the fibre cache holds the row, when it still does, or as memory gives it (R279). -/
def State.gustFetch (s : State) (c : Ctx) (pl : Polder) (d : List Byte) (rows : List (Nat × List (Nat × Nat))) (p k : Nat) :
    Except GErr (List (Nat × Nat)) :=
  let read : Except GErr (List (Nat × Nat)) :=
    match s.gustWord c pl 2 (field d 128 64 + 4 * k), s.gustWord c pl 3 (field d 128 64 + 4 * (k + 1)) with
    | .ok q0, .ok q1 => s.gustRow c pl d 4 (q1 - q0) q0
    | .error e, _ => .error e
    | _, .error e => .error e
  match rows.find? (·.1 == k) with
  | some x => if Config.freeBool (s.draw (2 ^ 33 + p)) then .ok x.2 else read
  | none => read

/-- A row entered into a fibre cache of 64 rows; which it displaces is free (R279). -/
def cacheRow (l : List (Nat × List (Nat × Nat))) (victim : Nat) (x : Nat × List (Nat × Nat)) : List (Nat × List (Nat × Nat)) :=
  let l := l.filter (·.1 != x.1)
  x :: if l.length < 64 then l else l.eraseIdx (victim % l.length)

/-- A run of entries p, p + 1, … below hi whose indices lie in block blk (R279). -/
def State.gustRun (s : State) (c : Ctx) (pl : Polder) (d f : List Byte) (hi blk : Nat) : Nat → Nat → Run → Except GErr Run
  | 0, _, r => .ok r
  | fuel + 1, p, r =>
    if hi ≤ p then .ok r
    else
      let sp (o : Nat) : Nat := 0xFE * 2 ^ 56 + o
      let es := if field f 0 4 = 3 then 2 else 1
      match s.gustWord c pl 0 (sp (field d 32 32 + 4 * p)) with
      | .error e => .error e
      | .ok k =>
        if k / fmtBL f ≠ blk then .ok r
        else
          match s.gustRead c pl 1 (sp (field d 64 32 + es * p)) es with
          | .error e => .error e
          | .ok av =>
            if field d 96 32 ≤ k then State.gustRun s c pl d f hi blk fuel (p + 1) { r with n := r.n + 1, skipped := true }
            else
              match s.gustFetch c pl d r.rows p k with
              | .error e => .error e
              | .ok l => State.gustRun s c pl d f hi blk fuel (p + 1)
                  { r with n := r.n + 1, terms := r.terms ++ l.map (fun x => (x.1, leNat av, x.2)),
                           rows := cacheRow r.rows (Config.freeNat (s.draw (2 ^ 34 + p))) (k, l) }

/-- A run committed into row m of an accumulator (R279). -/
def Accum.commitRun (a : Accum) (f : List Byte) (m : Nat) (r : Run) : Accum :=
  let ca := field f 0 4
  let cb := field f 4 4
  a.mapAll fun i n w sp =>
    if i ≠ m then (w, sp)
    else
      let ts := r.terms.filter (·.1 == n)
      if intCode ca then (w + BitVec.ofInt 32 (ts.foldl (fun (x : Int) t => x + codeInt ca t.2.1 * codeInt cb t.2.2) 0), sp)
      else (Block.mk 0 0 (.fin ⟨1, 1⟩) (.fin ⟨1, 1⟩) (ts.map fun t => (codeFv ca [] t.2.1, codeFv cb [] (if cb = 3 then t.2.2 else t.2.2 % 256)))).commit w sp

/-- The next row of a Gustavson product that has entries left, from row m of which k are done: with its pointers, which are read once
(R279); none: there is none. -/
def State.gustNext (s : State) (c : Ctx) (p : Polder) (o : MOp) : Nat → Nat → Nat → Option (Nat × Nat) → Except GErr (Option (Nat × Nat × Nat × Nat))
  | 0, _, _, _ => .ok none
  | fuel + 1, m, k, span =>
    if 32 ≤ m then .ok none
    else
      let sp (x : Nat) : Nat := 0xFE * 2 ^ 56 + x
      let ptr : Except GErr (Nat × Nat) := match span with
        | some x => .ok x
        | none =>
          match s.gustWord c p 0 (sp (field o.desc 0 32 + 4 * m)), s.gustWord c p 1 (sp (field o.desc 0 32 + 4 * (m + 1))) with
          | .ok lo, .ok hi => .ok (lo, hi)
          | .error e, _ => .error e
          | _, .error e => .error e
      match ptr with
      | .error e => .error e
      | .ok (lo, hi) => if hi ≤ lo + k then State.gustNext s c p o fuel (m + 1) 0 none else .ok (some (m, k, lo, hi))

/-- An operation ends with an error code. -/
def Engine.fail (e : Engine) (id err : Nat) : Engine := e.modOp id fun y => { y with err := err }

/-- A read of a Gustavson product that fails. -/
def State.gustFail (s : State) (c : Ctx) (p : Polder) (e : Engine) (o : MOp) : GErr → State
  | .space => s.setEngine p.h (e.fail o.id 2)
  | .page f => s.holdFault c (.matrix p.h e.part o.id) f
  | .poison => s.contextDead p.ctx

/-- One run of a Gustavson product (R279). -/
def State.gustStep (s : State) (c : Ctx) (p : Polder) (e : Engine) (o : MOp) : State :=
  if (gustReads p o.desc o.fmt).any fun x => s.spadBusy p.h o.id x.1 x.2 false e.part then s
  else
    match s.gustNext c p o 33 (o.pos / 2 ^ 33) (o.pos % 2 ^ 33) o.span with
    | .error x => s.gustFail c p e o x
    | .ok none => s.setEngine p.h (e.modOp o.id fun y => { y with pos := 32 * 2 ^ 33 })
    | .ok (some (m, k, lo, hi)) =>
      -- the row has begun: a run that is held starts again, and not the row
      let e := e.modOp o.id fun y => { y with pos := m * 2 ^ 33 + k, span := some (lo, hi) }
      let s := s.setEngine p.h e
      match s.gustWord c p 2 (0xFE * 2 ^ 56 + (field o.desc 32 32 + 4 * (lo + k))) with
      | .error x => s.gustFail c p e o x
      | .ok x =>
        match s.gustRun c p o.desc o.fmt hi (x / fmtBL o.fmt) (hi - lo - k) (lo + k) { rows := o.rows } with
        | .error x => s.gustFail c p e o x
        | .ok r =>
          s.setEngine p.h ((e.modAcc o.a (·.commitRun o.fmt m r)).modOp o.id fun y =>
            { y.commit r.n with pos := m * 2 ^ 33 + k + r.n, rows := r.rows, err := if r.skipped then max y.err 1 else y.err })

/-- The operation `id` of engine `part` of polder h, if it is still there. -/
def State.mop? (s : State) (h part id : Nat) : Option MOp := (s.engine? h part).bind fun x => x.2.q.find? (·.id == id)
/-- That operation changed. -/
def State.modMop (s : State) (h part id : Nat) (f : MOp → MOp) : State :=
  s.modPolder h fun p => { p with engines := p.engines.map fun (x : Engine) => if x.part = part then x.modOp id f else x }

/-- Some of the sectors of a drain's row are written, in a free order: n of them at most; a page that does not translate holds the
drain. -/
def State.drainSome (s : State) (c : Ctx) (p : Polder) (part id : Nat) : Nat → State
  | 0 => s
  | n + 1 =>
    let s := State.drainSome s c p part id n
    match s.mop? p.h part id with
    | none => s
    | some o =>
      let i := s.choose (n + 2 ^ 32) o.todo.length
      match o.todo[i]?, s.heldBy (.matrix p.h part id) with
      | some (a, b), none =>
        match s.ewrite c p.h p.die (64 * n) a b false with
        | .error f => s.holdFault c (.matrix p.h part id) f
        | .ok s' => (if spaceOf a = 0xFE then s' else s'.dropL1 c p p.die (64 * n) 3 a b.length).modMop p.h part id
            fun y => { y with todo := y.todo.eraseIdx i }
      | _, _ => s

/-- A row of a drain, or sectors of it (R217, R282). -/
def State.drainStep (s : State) (c : Ctx) (p : Polder) (e : Engine) (o : MOp) : State :=
  let a := field o.desc 0 64 + o.pos * field o.desc 64 32
  let n := 48 * drainSize o.fmt
  if spaceOf a = 0xFE && s.spadBusy p.h o.id (a % 2 ^ 32 : Nat) n true e.part then s
  else if !inSpace p.spsize a n then s.setEngine p.h (e.fail o.id 2)
  else
    let s := if !o.todo.isEmpty then s
      else
        let b := drainRow o.fmt (e.acc o.a) o.pos (s.draw (2 ^ 33))
        s.modMop p.h e.part o.id fun y => { y with todo := (pieces (n / 16 + 2) a n).map fun (x, k) => (x, (b.drop (x - a)).take k) }
    let s := s.drainSome c p e.part o.id (1 + s.choose (2 ^ 31) 8)
    if ((s.mop? p.h e.part o.id).map (·.todo.isEmpty)).getD false then
      s.modMop p.h e.part o.id fun y => { y.commit 1 with pos := y.pos + 1 }
    else s

/-- MATRIX_BLOCK_COMMIT (R276, R277, R279, R282): the running operation of an accumulator commits its next block, run or
row. -/
def execMatrixBlockCommit (h e a : Nat) (s : State) : Host.Outcome State Fault Refusal :=
  match s.engine? h e with
  | none => .next s.idle
  | some (p, x) =>
    match x.running? a, s.ctx? p.ctx with
    | some o, some c =>
      if o.finished then .next s.idle
      else
        match s.heldBy (.matrix h e o.id) with
        | some f => .next (if f.ended then s.setEngine h (x.fail o.id 3) else s).idle
        | none =>
          if o.kind = 4 then .next (s.gustStep c p x o).idle
          else if o.kind = 5 then .next (s.drainStep c p x o).idle
          else
            match s.loopBlock p x o with
            | none => .next s.idle
            | some (y, pois) => .next (if pois then s.contextDead p.ctx else s.setEngine h y).idle
    | _, _ => .next s.idle

end Sys2Proof.Machine
end

