-- ==== Sys2Proof/Machine/Place.lean ====
section
/-! DEFINITION. Placement of polders on cores (spec/07_polder_ring.md R182 to R185; R11, R13, R125, R155, R260, R265, R389, R433):
what a core still holds, the choice of cores and partitions, which is free (log 14), and a polder as it is placed. -/
namespace Sys2Proof.Machine

/-! ## Shapes (R345, R347, R355) -/

/-- What a polder asks for, from a packet, a TMPL or a node table entry. -/
structure Shape where
  ranks : Nat
  ppr : Nat := 1
  rcores : Nat := 0
  fuse : Bool := false
  regs : Nat
  bars : Nat
  slots : Nat
  spad : Nat
  cwin : Nat := 0
  cwlen : Nat := 0
  hmask : Mask := 0
  deriving DecidableEq, Repr

/-- The shape of a kernel packet (R345). -/
def packetShape (b : List Byte) : Shape :=
  { ranks := field b 128 4, ppr := field b 132 4, rcores := field b 136 4, fuse := flag b 140, regs := field b 144 8,
    bars := field b 152 7, slots := field b 160 5, spad := field b 192 32, cwin := field b 256 64, cwlen := field b 224 32,
    hmask := BitVec.ofNat 16 (field b 16 16) }
/-- The shape that a TMPL gives (R347): one polder, with a constant window of its starter's. -/
def tmplShape (b : List Byte) (cwin : Nat) : Shape :=
  { ranks := field b 128 4, regs := field b 144 8, bars := field b 152 7, slots := field b 160 5, spad := field b 192 32,
    cwin := cwin, cwlen := 64 }
/-- The shape of a node (R355). -/
def nodeShape (e : List Byte) : Shape :=
  { ranks := field e 64 4, regs := field e 80 8, bars := field e 88 7, slots := field e 96 5, spad := field e 128 32,
    cwin := field e 320 64, cwlen := field e 288 32 }

/-- Scratchpad bytes that a polder takes (R182). -/
def Shape.bytes (x : Shape) : Nat := roundUp (x.spad + 16 * x.bars) 128
/-- The same for a placed polder. -/
def Polder.bytes (p : Polder) : Nat := roundUp (p.spsize + 16 * p.bars.length) 128
/-- Whether a shape's fields are in their ranges (R345). -/
def Shape.ok (x : Shape) : Bool :=
  1 ≤ x.ranks && x.ranks ≤ 8 && 1 ≤ x.regs && x.regs ≤ 160 && x.bars ≤ 64 && x.slots ≤ 16 && x.spad % 128 == 0 &&
    x.spad + 16 * x.bars ≤ 4194304

/-! ## What a core holds -/

/-- The polders on a core. -/
def State.onCore (s : State) (core : Nat) : List Polder := s.polders.filter (·.core == core)
/-- Scratchpad bytes of a core (R11). -/
def State.capacity (s : State) (core : Nat) : Nat := if ((s.dies[dieOf core]?).getD {}).berm then 4194304 else 2097152
/-- Bytes of bin that a graph reserves on a core (R358). -/
def Grid.binBytes (g : Grid) : Nat :=
  g.pkt.nodes.foldl (fun n e => n + (field e 103 7 + 1) * 16 * (field e 101 2 + 1)) 0
/-- Scratchpad bytes of a core that are taken. -/
def State.spadUsed (s : State) (core : Nat) : Nat :=
  (s.onCore core).foldl (fun n p => n + p.bytes) 0 + s.grids.foldl (fun n g => if g.bins.contains core then n + g.binBytes else n) 0

/-- How many more ranks of a shape a partition of a core takes (R13, R125, R265). -/
def rankRoom (ps : List Polder) (x : Shape) (part : Nat) : Nat :=
  let count (p : Polder) : Nat := (p.ranks.filter (·.1 == part)).length
  if x.slots ≠ 0 && ps.any (fun p => p.nslots != 0 && count p != 0) then 0
  else
    let used := ps.foldl (fun n p => n + count p) 0
    let ents := ps.foldl (fun n p => n + 8 * p.regs * count p) 0
    min (64 - used) ((4096 - ents) / (8 * x.regs))

/-- The partition and rank slot of each rank of a polder, n of them: any that has room, its lowest free slot. -/
def State.pickRanks (s : State) (core : Nat) (x : Shape) : Nat → Option (List (Nat × Nat))
  | 0 => some []
  | n + 1 =>
    match s.pickRanks core x n with
    | none => none
    | some rs =>
      let ps := s.onCore core
      let parts := (List.range 8).filter fun k => (rs.filter (·.1 == k)).length < rankRoom ps x k
      match parts[s.choose (2 ^ 36 + 16 * core + n) parts.length]? with
      | none => none
      | some k =>
        let taken := ps.flatMap (·.ranks) ++ rs
        ((List.range 64).find? fun i => !taken.contains (k, i)).map fun i => rs ++ [(k, i)]

/-- Whether a core is kept for another ring: a fused one that runs has it, or a restored one has reserved it (R185, R433). -/
def State.keptFor (s : State) (core ring : Nat) : Bool :=
  s.polders.any (fun p => p.fuse && 1 < p.rcores && p.ring != ring && p.kcores.contains core) ||
    s.reserved.any fun r => r.1 != ring && r.2.2.contains core

/-- Whether a core has what one polder of a shape asks for, apart from its partitions; `io` says which of the inlet and
outlet core it claims (R182, R260). -/
def State.hasRoom (s : State) (core ring : Nat) (x : Shape) (io : List Nat) : Bool :=
  let ps := s.onCore core
  !s.dieDown (dieOf core) && !s.keptFor core ring && ps.length < 512 && s.spadUsed core + x.bytes ≤ s.capacity core &&
    !(ps.any fun p => p.io.any fun c => io.contains c.k)

/-! ## A polder as it is placed -/

/-- The engines that a polder reserves, in partition order (R265, R379). -/
def freshEngines (slots : Nat) (ranks : List (Nat × Nat)) : List Engine :=
  if slots = 0 then []
  else ((ranks.map (·.1)).foldl (fun l k => insertNat k l) []).map fun k =>
    { part := k, slots := List.replicate slots {}, accs := List.replicate 4 { fmt := fmtReset },
      books := [List.replicate 32 0, List.replicate 32 0] }

/-- A fascine as placed (R155). -/
def freshFasc (hmask : Mask) (bars : Nat) : Fascine :=
  { r := { ents := [{ mask := 0xFFFF, val := true }, {}, {}, {}], hmask := hmask, preds := List.replicate 16 0,
           s := List.replicate 48 0, spois := List.replicate 48 false },
    chstat := List.replicate 4 0, cnt := List.replicate 4 0, ts := List.replicate 8 0, snaps := List.replicate 4 0,
    wrec := List.replicate bars {}, bseen := List.replicate 16 0, bord := List.replicate 16 0 }

/-- Which of the inlet and outlet core a kernel header claims (R260, R347). -/
def claims (head : List Byte) : List Nat :=
  (if field head 128 32 = 0 then [] else [0]) ++ (if field head 224 32 = 0 then [] else [1])
/-- An inlet or outlet core as claimed: its image is not loaded yet (R260, R351). -/
def freshIo (head : List Byte) (core pl spad k : Nat) : IoCore :=
  let x := setAt (setAt (setAt (List.replicate 32 (0 : Word)) 10 (BitVec.ofNat 32 pl)) 11 (BitVec.ofNat 32 core)) 12 (BitVec.ofNat 32 spad)
  { k := k, img := field head (if k = 0 then 64 else 160) 64, len := field head (if k = 0 then 128 else 224) 32, x := x,
    slst := List.replicate 8 0 }

/-- The lowest region of a context's undo pool that no polder holds (R389). -/
def State.undoRegion (s : State) (c : Ctx) : Option Nat :=
  let held := (s.polders.filter (·.ctx == c.c)).filterMap (·.ureg) ++ (s.saved.filter (·.p.ctx == c.c)).filterMap (·.p.ureg)
  (List.range (held.length + 1)).find? fun i => decide (i < c.upnum) && !held.contains i

/-- What a placed polder is to the package. -/
structure Role where
  queue : Nat := 0
  grid : Option Nat := none
  pl : Nat := 0
  prio : Nat := 0
  ring : Nat
  sys : Bool := false
  tself : Option Nat := none
  target : Nat := 0
  node : Option Nat := none
  depth : Nat := 0
  kcores : List Nat := []

/-- The first 16 words of a constant window of some length, as a core of a die reads them (R137); none: a home cannot be reached
now (R8, R22). Words of a page that does not translate are free (log 63). -/
def State.readCw (s : State) (c : Ctx) (die cwin cwlen : Nat) : Option (List Word) :=
  match s.gread c (pastFar die) 0 4 cwin (min 64 cwlen) with
  | .ok (b, _) => some (bytesWords 16 b)
  | .error e => if e.cause = 0 then none else some ((List.range 16).map fun i => Config.freeWord (s.draw (i + 2 ^ 32)))

/-- The n bundles of a kernel's code from address `code` on, as they stand when its launch begins (R27, R347): what the memory holds
behind each page that is mapped, which is no read of the machine. -/
def State.codeNow (s : State) (c : Ctx) (launch code n : Nat) : State :=
  (List.range n).foldl (fun s i =>
    match walk s c atHome (code + 16 * i) with
    | .ok (leaf, lvl) =>
      match leafLoc c leaf ((code + 16 * i) / 2 ^ levelShift lvl * 2 ^ levelShift lvl) (code + 16 * i) with
      | .glob tgt x _ => s.noteCode launch tgt x
      | _ => s
    | .error _ => s) s
/-- What the code of launches that have ended has held is forgotten. -/
def State.sweepCodes (s : State) : State :=
  { s with codes := s.codes.filter fun h =>
      s.grids.any (·.id == h.launch) || s.polders.any (·.launch == h.launch) || s.saved.any (·.p.launch == h.launch) }

/-- One polder of a shape placed on a core, when the core has room (R182): its handle and the state. Its start is an
acquire at system scope (R352). -/
def State.placeOn (s : State) (c : Ctx) (core : Nat) (x : Shape) (head : List Byte) (kobj : Nat) (r : Role) : Option (Nat × State) :=
  if !s.hasRoom core r.ring x (claims head) then none
  else
    match s.pickRanks core x x.ranks, (if bit c.dbg 0 && bit c.dbg 2 then (s.undoRegion c).map some else some none), s.readCw c (dieOf core) x.cwin x.cwlen with
    | some rs, some ureg, some cw =>
      match (List.range 512).find? fun i => (s.polder? (512 * core + i)).isNone with
      | none => none
      | some i =>
        let h := 512 * core + i
        let (id, s) := s.fresh
        let launch := r.grid.getD id
        let p : Polder :=
          { h := h, ctx := c.c, sys := r.sys, tself := r.tself, htgt := r.target, queue := r.queue, grid := r.grid, pl := r.pl,
            prio := r.prio, hmask0 := x.hmask, code := kobj + 256, cwin := x.cwin, cwlen := x.cwlen, cw := cw, ranks := rs,
            regs := x.regs, bars := List.replicate x.bars { exparr := 8 * x.ranks }, nslots := x.slots, spsize := x.spad,
            breg := List.replicate 16 [], bpois := List.replicate 16 false, brel := List.replicate 16 0,
            glatch := List.replicate 4 none, engines := freshEngines x.slots rs,
            io := (claims head).map (freshIo head core r.pl x.spad), fs := List.replicate (8 * x.ranks) (freshFasc x.hmask x.bars),
            ring := r.ring, kcores := r.kcores, launch := launch, uid := id, ppr := x.ppr, rcores := x.rcores, fuse := x.fuse,
            debug := bit c.dbg 0, ureg := ureg, node := r.node, depth := r.depth }
        let s := s.sweepCodes.codeNow c launch (kobj + 256) (field head 32 32 / 16)
        some (h, (s.setPolder (p.setDieHalt (c.halted.contains (dieOf core)))).invalidate p 6)
    | _, _, _ => none

/-! ## The cores of a ring (R184, R185) -/

/-- Sublists of length n, in order. -/
def sublistsOf : Nat → List Nat → List (List Nat)
  | 0, _ => [[]]
  | _ + 1, [] => []
  | n + 1, x :: xs => (sublistsOf n xs).map (x :: ·) ++ sublistsOf (n + 1) xs

/-- The cores of an octet, numbered from 0 to 31 over the package. -/
def octetCores (o : Nat) : List Nat := (List.range 8).map (8 * o + ·)
/-- The octets of some dies. -/
def octetsOf (dies : List Nat) : List Nat := dies.eraseDups.flatMap fun d => (List.range 8).map (8 * d + ·)

/-- Polders of a ring with co-residency placed on the cores ks, in the same beat or not at all: js are their numbers in the
ring. -/
def State.placeAll (s : State) (c : Ctx) (x : Shape) (head : List Byte) (kobj : Nat) (role : Nat → Role) (ks : List Nat) :
    List Nat → Option State
  | [] => some s
  | j :: js =>
    match s.placeOn c (ks.getD (j % x.rcores) 0) x head kobj { role j with kcores := ks } with
    | none => none
    | some (_, s) => State.placeAll s c x head kobj role ks js

/-- A ring with co-residency placed on n distinct cores of one octet of some dies: which is free. -/
def State.placeRing (s : State) (c : Ctx) (dies : List Nat) (x : Shape) (head : List Byte) (kobj : Nat) (role : Nat → Role) : Option State :=
  let sets := (octetsOf dies).flatMap fun o => sublistsOf x.rcores ((octetCores o).filter fun k =>
    s.hasRoom k (role 0).ring x (claims head) && !(x.fuse && 1 < x.rcores && !(s.onCore k).isEmpty))
  match sets[s.choose (2 ^ 37) sets.length]? with
  | none => none
  | some ks => s.placeAll c x head kobj role ks (List.range x.ppr)

/-- Whether a ring of a shape fits on an empty octet of a die (R346 FIT). -/
def State.fitsDie (s : State) (x : Shape) (head : List Byte) (die : Nat) : Bool :=
  let m := if x.rcores = 0 then 1 else (x.ppr + x.rcores - 1) / x.rcores
  let per := min 64 (512 / max 1 x.regs)
  m * x.bytes ≤ s.capacity (64 * die) && (if x.slots = 0 then m * x.ranks ≤ 8 * per else m * ((x.ranks + per - 1) / per) ≤ 8) &&
    (m == 1 || (claims head).isEmpty)

/-! ## Kernel headers (R347) -/

/-- A kernel header outside R347, its reserved bytes 128 to 255 with it, TMPL apart. -/
def headBad (h : List Byte) : Bool :=
  field h 0 8 != 1 || field h 8 24 != 0 || field h 32 32 % 16 != 0 || field h 256 256 != 0 ||
    field h 1024 1024 != 0 || 32768 < field h 128 32 || 32768 < field h 224 32 || field h 64 64 % 4 != 0 || field h 160 64 % 4 != 0 ||
    !isGlobal (field h 64 64) || !isGlobal (field h 160 64)
/-- A kernel object of a polder without a packet (R347): its 256 bytes break the layout, or its TMPL breaks R345. -/
def kernelBad (h : List Byte) : Bool := headBad h || !(tmplShape (h.drop 64) 0).ok


end Sys2Proof.Machine
end

