-- ==== Sys2Proof/Machine/Queue.lean ====
section
/-! DEFINITION. Queues, packets and their order, tail launches and the privileged queue (spec/14_queue_kernel.md R342 to R354,
R363, R364): the launch sequencers' steps, LAUNCH and QSIG. -/
namespace Sys2Proof.Machine

/-- Where a queue rests between packets. -/
def Queue.rest (q : Queue) : QState := if q.err then .error else .idle

/-- A queue stops with a code (R343, R346): a packet in hand is given up, but for a child at DOOR, which is no error of the
child's (R353); the host is told its ring index. A queue in PLACING goes on placing. -/
def State.stopQueue (s : State) (q : Queue) (code index : Nat) : State :=
  let kept := if code = 3 then q.pkt.filter (·.parent.isSome) else none
  let q' := { q with err := true, ecode := code, pkt := kept, tails := q.tails.filter (·.parent.isSome), st := if q.st = .placing || kept.isSome then q.st else .error }
  (s.putQueue q').notify 2 q.ctx q.q code (index % 2 ^ 32)

/-! ## Wait conditions (R348, R349) -/

/-- Whether a path stands before another in the order of a queue: of two, the one whose first differing number is less. -/
def pathLt : List Nat → List Nat → Bool
  | _, [] => false
  | [], _ :: _ => true
  | a :: as, b :: bs => a < b || (a == b && pathLt as bs)
/-- Whether a path is a beginning of another. -/
def isPrefix : List Nat → List Nat → Bool
  | [], _ => true
  | a :: as, b :: bs => a == b && isPrefix as bs
  | _, _ => false

/-- The wait condition of a packet (R349). -/
def State.waitMet (s : State) (c : Nat) (b : List Byte) : Bool :=
  let k := field b 335 2
  if k = 0 then true
  else
    match s.queue? (field b 320 15) with
    | none => false
    | some w =>
      let v := if k = 1 then w.done % 2 ^ 32 else w.sig
      w.ctx == c && (v + 2 ^ 32 - field b 352 32) % 2 ^ 32 < 2 ^ 31

/-- The BARR condition of a packet (R348): every earlier packet has completed, and for a child what is ahead of it in its tree. -/
def State.barrMet (s : State) (q : Queue) (p : Pkt) : Bool :=
  !flag p.bytes 4 ||
    (q.done == p.root && s.grids.all fun g =>
      !(g.q == q.q && g.pkt.root == p.root && pathLt g.pkt.path p.path && !isPrefix g.pkt.path p.path))

/-- A WAITING queue becomes READY when its conditions hold. -/
def State.wakeOne (s : State) (q : Queue) : State :=
  match q.st, q.pkt with
  | .waiting, some p =>
    let p := { p with met := p.met || s.waitMet q.ctx p.bytes }
    s.setQueue { q with pkt := some p, st := if p.met && s.barrMet q p then .ready else .waiting, since := s.beat }
  | _, _ => s
/-- Every waiting queue is looked at, after an event of R349. -/
def State.wake (s : State) : State := s.queues.foldl (fun s q => match s.queue? q.q with
  | some q => s.wakeOne q
  | none => s) s

/-! ## Doorbells (R344) -/

/-- A doorbell with write index w. -/
def State.doorbell (s : State) (n : Nat) (w : Nat) : State :=
  match s.queue? n with
  | none => s
  | some q =>
    let d := (w + 2 ^ 32 - q.wr % 2 ^ 32) % 2 ^ 32
    if !q.en || q.err || d = 0 || 2 ^ 31 ≤ d then s
    else if (w + 2 ^ 32 - q.rd % 2 ^ 32) % 2 ^ 32 ≤ 2 ^ q.logn then s.putQueue { q with wr := q.wr + d }
    else s.stopQueue q 3 q.rd

/-! ## Checks (R345, R346) -/

/-- The fields that packets of a kind use, as bit ranges (first bit, width). -/
def usedFields : Nat → List (Nat × Nat)
  | 0 => [(0, 6), (8, 3), (12, 20), (32, 109), (144, 15), (160, 5), (192, 145), (352, 96)]
  | 1 => [(0, 6), (8, 3), (12, 4), (32, 40), (320, 17), (352, 160)]
  | 2 => [(0, 6), (8, 3), (12, 4), (320, 17), (352, 160)]
  | _ => [(0, 6), (8, 3), (12, 4), (320, 17), (352, 96)]
/-- Whether every bit outside some ranges is 0. -/
def onlyFields (b : List Byte) (l : List (Nat × Nat)) : Bool :=
  (List.range 512).all fun i => !flag b i || l.any fun x => decide (x.1 ≤ i) && decide (i < x.1 + x.2)

/-- A packet's fields break R345: code PKT. -/
def packetBad (b : List Byte) : Bool :=
  let k := field b 0 4
  let x := packetShape b
  let n := field b 32 32
  !onlyFields b (usedFields k) || field b 335 2 == 3 || field b 384 64 % 8 != 0 || !isGlobal (field b 384 64) ||
    (match k with
     | 0 =>
       !x.ok || n == 0 || x.ppr < 1 || 8 < x.ppr || n % max 1 x.ppr != 0 || x.ppr < x.rcores || (x.fuse && x.rcores == 0) ||
         field b 64 64 % 256 != 0 || !isGlobal (field b 64 64) || x.cwlen % 64 != 0 || 65536 < x.cwlen || x.cwin % 64 != 0 ||
         !(isGlobal x.cwin && x.cwin + x.cwlen ≤ 2 ^ 52)
     | 1 => n == 0 || field b 448 64 % 64 != 0 || !(isGlobal (field b 448 64) && field b 448 64 + 64 * (field b 64 8 + 1) ≤ 2 ^ 52)
     | 2 => field b 448 64 % 64 != 0 || !isGlobal (field b 448 64)
     | 3 => false
     | _ => true)

/-- A node table entry outside R355. -/
def nodeBad (c : Ctx) (e : List Byte) : Bool :=
  let x := nodeShape e
  let rsize := 16 * (field e 101 2 + 1)
  !x.ok || field e 68 4 != 1 || field e 72 5 != 0 || flag e 95 || field e 77 3 != 0 || field e 0 64 % 256 != 0 || !isGlobal (field e 0 64) ||
    32 < field e 110 6 || field e 116 12 != 0 || x.spad < (field e 103 7 + 1) * rsize ||
    (field e 160 32 != 0 && (field e 160 32 < 250 || 64000 < field e 160 32)) || field e 192 64 % 4096 != 0 || !isGlobal (field e 192 64) ||
    field e 256 32 % (4096 * max 1 c.vdt.length) != 0 || 2 ^ 52 < field e 192 64 + field e 256 32 || x.cwlen % 64 != 0 || 65536 < x.cwlen ||
    x.cwin % 64 != 0 || !(isGlobal x.cwin && x.cwin + x.cwlen ≤ 2 ^ 52) || field e 384 128 != 0

/-- The physical dies that a packet allows; none: it names a die that is not bound (R346 DIES). -/
def Ctx.allowed (c : Ctx) (b : List Byte) : Option (List Nat) :=
  let m := field b 12 4
  let vs := (List.range 4).filter fun v => if m = 0 then (c.pdie v).isSome else bit m v
  if vs.all fun v => (c.pdie v).isSome then some (vs.filterMap c.pdie) else none

/-- A read by a sequencer (R346, R347). -/
def State.seqRead (s : State) (c : Ctx) (q tag a n : Nat) : Except Halted (List Byte) := s.objRead c (.packet q) 0 tag a n

/-- The header of a packet's or node's kernel object (R347): all of it but TMPL, which only a polder without a packet of its own reads. -/
def State.seqHead (s : State) (c : Ctx) (q tag a : Nat) : Except Halted (List Byte) :=
  match s.seqRead c q tag a 64, s.seqRead c q (tag + 2) (a + 128) 128 with
  | .ok h, .ok x => .ok (h ++ List.replicate 64 0 ++ x)
  | .error e, _ => .error e
  | _, .error e => .error e
/-- Kernel headers read in order. -/
def State.readHeads (s : State) (c : Ctx) (q : Nat) : List (List Byte) → Except Halted (List (List Byte))
  | [] => .ok []
  | e :: es =>
    match s.seqHead c q (2 ^ 12 + 8 * es.length) (field e 0 64), s.readHeads c q es with
    | .ok h, .ok hs => .ok (h :: hs)
    | .error e, _ => .error e
    | _, .error e => .error e

/-- The nodes of a graph packet (R345), read from its node table. -/
def State.readNodes (s : State) (c : Ctx) (q : Nat) (b : List Byte) : Except Halted (List (List Byte)) :=
  let nn := field b 64 8 + 1
  (s.seqRead c q 2 (field b 448 64) (64 * nn)).map fun t => (List.range nn).map fun i => (t.drop (64 * i)).take 64
/-- The places that a packet which breaks R345 names, where they are addresses, read for their faults: FAULT stands before every other
code (R346). -/
def State.peekPacket (s : State) (c : Ctx) (q : Nat) (b : List Byte) : Except Halted Unit := do
  let a := field b 448 64
  let k := field b 64 64
  if field b 0 4 = 0 ∧ k % 256 = 0 ∧ isGlobal k then
    let _ ← s.seqHead c q 2 k
  if field b 0 4 = 1 ∧ a % 64 = 0 ∧ isGlobal a ∧ a + 64 * (field b 64 8 + 1) ≤ 2 ^ 52 then
    let nodes ← s.readNodes c q b
    let _ ← s.readHeads c q (nodes.filter fun e => field e 0 64 % 256 = 0 && isGlobal (field e 0 64))

/-- A packet checked (R346): its code, 0 for none, with the headers and the nodes that were read. -/
def State.checkPacket (s : State) (c : Ctx) (q : Queue) (p : Pkt) : Except Halted (Nat × Pkt) := do
  let b := p.bytes
  let k := field b 0 4
  let event := k == 4 && q.priv && p.parent.isNone
  let late (p : Pkt) (bad : Bool) (x : Option (Shape × List Byte)) : Nat × Pkt :=
    (if bad then 1
     else match c.allowed b with
      | none => 5
      | some ds =>
        if field b 335 2 ≠ 0 && ((s.queue? (field b 320 15)).map (·.ctx)) != some c.c && !event then 6
        else match x with
          | none => 0
          | some (sh, h) => if ds.any (s.fitsDie sh h) then 0 else 2, p)
  if event then
    let h ← s.seqRead c q.q 2 q.hkobj 256
    let sh := tmplShape (h.drop 64) p.addr
    let ds := c.dies
    return (if kernelBad h then 1 else if ds.any (s.fitsDie sh h) then 0 else 2, { p with heads := [h] })
  else if packetBad b then
    s.peekPacket c q.q b
    return (1, p)
  else
    match k with
    | 0 =>
      let h ← s.seqHead c q.q 2 (field b 64 64)
      return late { p with heads := [h] } (headBad h) (some (packetShape b, h))
    | 1 =>
      let nodes ← s.readNodes c q.q b
      if nodes.any (nodeBad c) then
        let _ ← s.readHeads c q.q (nodes.filter fun e => field e 0 64 % 256 = 0 && isGlobal (field e 0 64))
        return (1, p)
      else
        let hs ← s.readHeads c q.q nodes
        return late { p with heads := hs, nodes := nodes } (hs.any headBad) (some (nodeShape (nodes.headD []), hs.headD []))
    | _ => return late p false none

/-! ## Fetch (R343, R346, R353) -/

/-- A grid that a child belonged to has one child less to wait for. -/
def State.childDone (s : State) (parent : Option Nat) : State :=
  match parent.bind s.grid? with
  | some g => s.setGrid { g with kids := g.kids - 1 }
  | none => s

/-- The outcome of the checks of the packet in hand. -/
def State.fetched (s : State) (c : Ctx) (q : Queue) (p : Pkt) (child : Bool) (r : Except Halted (Nat × Pkt)) : State :=
  let q' := if child then { q with tails := q.tails.drop 1 } else q
  match r with
  | .error (.hold f) => (s.setQueue { q with st := .fetch }).holdFault c (.packet q.q) f
  | .error .pois => s.contextDead c.c
  | .error .ended => ((s.clearFaults (.packet q.q)).stopQueue q' 4 p.root).childDone p.parent
  | .ok (0, p) =>
    let s := s.clearFaults (.packet q.q)
    s.wakeOne { q' with st := .waiting, pkt := some p }
  | .ok (k, p) => ((s.clearFaults (.packet q.q)).stopQueue q' k p.root).childDone p.parent

/-- PACKET_FETCH (R346): the next packet of a queue is read and checked: a child that stands ahead of the ring, else the one
at RD. -/
def execPacketFetch (n : Nat) (s : State) : Host.Outcome State Fault Refusal :=
  match s.queue? n with
  | none => .next s.idle
  | some q =>
    match s.ctx? q.ctx with
    | none => .next s.idle
    | some c =>
      if c.dead || q.pkt.isSome || q.st == .placing || s.faults.any (fun a => a.owner == .packet n && !a.ended) then .next s.idle
      else
        match q.tails with
        | p :: _ => .next (s.fetched c q p true (s.checkPacket c q p)).idle
        | [] =>
          if !q.en || q.err || q.wr = q.rd then .next s.idle
          else
            let a := q.qbase + 64 * (q.rd % 2 ^ q.logn)
            let p : Pkt := { bytes := [], addr := a, root := q.rd, path := [q.rd] }
            match s.seqRead c n 0 a 64 with
            | .error e => .next (s.fetched c q p false (.error e)).idle
            | .ok b =>
              let p := { p with bytes := b }
              .next (s.fetched c q p false (s.checkPacket c q p)).idle

/-! ## Selection (R350) -/

/-- The die of the sequencer that serves a queue. -/
def State.seqDie (s : State) (q : Queue) : Option Nat := (s.ctx? q.ctx).bind fun c => c.pdie (q.q % max 1 c.vdt.length)
/-- Whether what a party of a die sends to the sequencer of a queue waits on its way (R8, R22, R407). -/
def State.seqShut (s : State) (die q : Nat) : Bool :=
  match (s.queue? q).bind s.seqDie with
  | some d => s.cutOff die d
  | none => false
/-- The priority of a packet: PRIO capped by PMAX (R345); 7 for an event packet (R364). -/
def Queue.prio (q : Queue) (b : List Byte) : Nat := if field b 0 4 = 4 then 7 else min (field b 8 3) q.pmax
/-- A READY queue's place in the order of R350. -/
def State.selectKey (s : State) (q : Queue) : Nat × Nat × Nat × Nat :=
  (7 - min 7 (q.prio ((q.pkt.map (·.bytes)).getD []) + (s.beat - q.since) / 65536), q.since, q.q, 0)
/-- Lexicographic order. -/
def before3 (a b : Nat × Nat × Nat × Nat) : Bool :=
  a.1 < b.1 || (a.1 == b.1 && (a.2.1 < b.2.1 || (a.2.1 == b.2.1 && a.2.2.1 < b.2.2.1)))
/-- Whether a packet places polders: a kernel, graph or event packet (R345). -/
def placesPolders (b : List Byte) : Bool := field b 0 4 ≤ 1 || field b 0 4 == 4
/-- Whether the sequencer may select a queue's packet: it is READY, its context is ACTIVE, or HELD when the packet places no polder,
and no other READY packet of the sequencer goes before it (R350, R367). -/
def State.mayPick (s : State) (q : Queue) : Bool :=
  let ok (x : Queue) : Bool := x.st == .ready && (match s.ctx? x.ctx with
    | some c => (!c.hold || !((x.pkt.map fun p => placesPolders p.bytes).getD true)) && !c.dead
    | none => false)
  match s.seqDie q with
  | none => false
  | some d =>
    ok q && !s.dieDown d && s.queues.all fun x => x.q == q.q || !ok x || s.seqDie x != some d || !before3 (s.selectKey x) (s.selectKey q)

/-- The code of a launch as its launch begins (R27): its kernel's, and of a graph that of each node. -/
def State.launchCode (s : State) (c : Ctx) (g : Grid) : State :=
  let one (s : State) (x : Nat × List Byte) : State := s.codeNow c g.id (x.1 + 256) (field x.2 32 32 / 16)
  match field g.pkt.bytes 0 4 with
  | 0 => one s (field g.pkt.bytes 64 64, g.pkt.heads.headD [])
  | 1 => ((g.pkt.nodes.map fun e => field e 0 64).zip g.pkt.heads).foldl one s
  | 4 => one s (g.hkobj, g.pkt.heads.headD [])
  | _ => s

/-- PACKET_SELECT (R350): RD advances, and the packet starts: a marker completes, a build packet's job is queued, the rings of
the others are placed next. -/
def execPacketSelect (n : Nat) (s : State) : Host.Outcome State Fault Refusal :=
  match s.queue? n with
  | none => .next s.idle
  | some q =>
    match q.pkt, s.ctx? q.ctx with
    | some p, some c =>
      if !s.mayPick q then .next s.idle
      else
        let (id, s) := s.fresh
        let k := field p.bytes 0 4
        let places := placesPolders p.bytes
        let g : Grid := { id := id, ctx := q.ctx, q := n, pkt := p, prio := q.prio p.bytes, placed := !places,
                          jobDone := k != 2, bind := q.bind, priv := q.priv, hkobj := q.hkobj }
        let q := { q with pkt := none, rd := if p.parent.isNone then q.rd + 1 else q.rd, pgrid := id,
                          st := if places then .placing else q.rest }
        let s := ((s.setGrid g).launchCode c g).putQueue q
        if k = 2 then
          let j : Job := { id := s.nextId, kind := 0, ctx := q.ctx, die := ((c.allowed p.bytes).getD []).headD 0, iss := none, tok := 0,
                           grid := some id, addr := field p.bytes 448 64 }
          .next { s with jobs := s.jobs ++ [j], nextId := s.nextId + 1 }.idle
        else .next s.idle
    | _, _ => .next s.idle

/-! ## Placement (R351, R358, R373) -/

/-- The shape, header and kernel object of a grid's own polders: a kernel, an event kernel, node 0 of a graph. -/
def Grid.kernel (g : Grid) : Shape × List Byte × Nat :=
  match field g.pkt.bytes 0 4 with
  | 0 => (packetShape g.pkt.bytes, g.pkt.heads.headD [], field g.pkt.bytes 64 64)
  | 1 => (nodeShape (g.pkt.nodes.headD []), g.pkt.heads.headD [], field (g.pkt.nodes.headD []) 0 64)
  | _ => (tmplShape ((g.pkt.heads.headD []).drop 64) g.pkt.addr, g.pkt.heads.headD [], g.hkobj)
/-- Polders of a grid's packet. -/
def Grid.count (g : Grid) : Nat := if field g.pkt.bytes 0 4 = 4 then 1 else field g.pkt.bytes 32 32
/-- The role of polder `pl` of a grid. -/
def Grid.role (g : Grid) (ring pl : Nat) : Role :=
  { queue := g.q, grid := some g.id, pl := pl, prio := g.prio, ring := ring, sys := g.priv,
    node := if field g.pkt.bytes 0 4 = 1 then some 0 else none }

/-- Bins reserved on the core of a graph's first polder there, when they fit beside its polders (R358). -/
def State.reserveBins (s : State) (gid core : Nat) : State :=
  match s.grid? gid with
  | none => s
  | some g =>
    let others := (s.onCore core).filter (·.grid == some gid)
    if g.pkt.nodes.isEmpty || g.bins.contains core || others.length ≠ 1 || s.capacity core < s.spadUsed core + g.binBytes then s
    else s.setGrid { g with bins := g.bins ++ [core] }

/-- The queue of a grid, while the binding lasts that the grid's packet was taken from (R343). -/
def State.queueOf (s : State) (g : Grid) : Option Queue := (s.queue? g.q).filter (·.bind == g.bind)

/-- A ring of a grid has been placed. -/
def State.ringPlaced (s : State) (g : Grid) (ppr : Nat) : State :=
  let g := { g with ring := g.ring + 1, octet := none, left := [], rid := 0 }
  let fin := g.count ≤ g.ring * ppr
  let s := s.setGrid { g with placed := fin }
  match if fin then s.queueOf g else none with
  | some q => s.setQueue { q with st := q.rest }
  | none => s

/-- The next ring of a grid: with co-residency whole, else one of its polders; no change when it does not fit. Its queue may have been
unbound or bound again meanwhile (R343). -/
def State.placeNext (s : State) (c : Ctx) (g : Grid) : State :=
  let (x, head, kobj) := g.kernel
  let dies := (if field g.pkt.bytes 0 4 = 4 then some c.dies else c.allowed g.pkt.bytes).getD []
  if x.rcores ≠ 0 then
    let (rid, s1) := s.fresh
    match s1.placeRing c dies x head kobj fun j => g.role rid (g.ring * x.ppr + j) with
    | none => s
    | some s => s.ringPlaced g x.ppr
  else
    let (rid, s1) := if g.left.isEmpty then s.fresh else (g.rid, s)
    let left := if g.left.isEmpty then List.range x.ppr else g.left
    let cores := (match g.octet with
      | some o => octetCores o
      | none => (octetsOf dies).flatMap octetCores).filter fun k => s.hasRoom k rid x (claims head)
    match cores[s.choose (2 ^ 37) cores.length]?, left[s.choose (2 ^ 37 + 1) left.length]? with
    | some k, some j =>
      match s1.placeOn c k x head kobj (g.role rid (g.ring * x.ppr + j)) with
      | none => s
      | some (_, s) =>
        let left := left.filter (· != j)
        let g := { g with octet := some (k / 8), rid := rid, left := left }
        (if left.isEmpty then s.ringPlaced g x.ppr else s.setGrid g).reserveBins g.id k
    | _, _ => s

/-- A trap handler that waits is placed on a core of its die (R373). -/
def State.placeHandler (s : State) (c : Ctx) (x : Pending) : State :=
  let sh := tmplShape (x.head.drop 64) (c.tring + 64 * x.tself)
  let (rid, s1) := s.fresh
  let cores := ((octetsOf [x.die]).flatMap octetCores).filter fun k => s.hasRoom k rid sh (claims x.head)
  match cores[s.choose (2 ^ 37) cores.length]? with
  | none => s
  | some k =>
    match s1.placeOn c k sh x.head x.kobj { queue := x.q, prio := 7, ring := rid, sys := true, tself := some x.tself, target := x.target } with
    | none => s
    | some (_, s) => { s with pending := s.pending.filter (·.id != x.id) }

/-- RING_PLACE (R351): a ring of the selected packet, or a trap handler, is placed on cores that hold its resources. -/
def execRingPlace (k : Nat) (s : State) : Host.Outcome State Fault Refusal :=
  match s.grid? k, s.pending.find? (·.id == k) with
  | some g, _ =>
    match s.ctx? g.ctx with
    | some c => .next (if g.placed || c.dead || c.hold then s else s.placeNext c g).idle
    | none => .next s.idle
  | none, some x =>
    match s.ctx? x.ctx with
    | some c => .next (if c.dead || c.hold then s else s.placeHandler c x).idle
    | none => .next s.idle
  | none, none => .next s.idle

/-! ## Completion (R348, R353, R360) -/

/-- Whether a grid's own polders have all retired, and for a graph its bins and spillway parts are empty (R360). -/
def State.gridQuiet (s : State) (g : Grid) : Bool :=
  g.placed && g.jobDone && !(s.polders.any (·.grid == some g.id)) && !(s.saved.any (·.p.grid == some g.id)) &&
    !(s.bins.any fun b => b.grid == g.id && !b.recs.isEmpty) && !(s.spills.any fun x => x.grid == g.id && !x.held.isEmpty)

/-- Children put where their parent stood, ahead of later packets; a packet in hand that stands behind one of them is
given back (R353); a wait condition of it that held still holds (R349). -/
def Queue.addTails (q : Queue) (ps : List Pkt) : Queue :=
  let ins (l : List Pkt) (p : Pkt) : List Pkt := l.filter (fun x => pathLt x.path p.path) ++ [p] ++ l.filter fun x => !pathLt x.path p.path
  let q := { q with tails := ps.foldl ins q.tails }
  match q.pkt, q.tails with
  | some h, t :: _ =>
    if pathLt t.path h.path then
      { q with pkt := none, st := q.rest, tails := ins q.tails { h with heads := [], nodes := [] } }
    else q
  | _, _ => q

/-- TAIL_CHILD_START (R353): the children of a grid whose polders have retired enter their queue's order. -/
def execTailChildStart (k : Nat) (s : State) : Host.Outcome State Fault Refusal :=
  match s.grid? k with
  | none => .next s.idle
  | some g =>
    if g.started || !s.gridQuiet g then .next s.idle
    else
      let kids : List Pkt := g.pool.zipIdx.map fun x =>
        { bytes := x.1, root := g.pkt.root, depth := g.pkt.depth + 1, parent := some k, path := g.pkt.path ++ [x.2] }
      match s.queueOf g with
      | some q => .next ((s.setGrid { g with started := true, kids := kids.length, pool := [] }).setQueue (q.addTails kids)).idle
      | none => .next (s.setGrid { g with started := true, pool := [] }).idle  -- the queue is unbound (log 20)

/-- DONE advances over the packets that have completed in ring order (R348). -/
def Queue.advance (q : Queue) : Nat → Queue
  | 0 => q
  | n + 1 => if q.comp.contains q.done then Queue.advance { q with comp := q.comp.filter (· != q.done), done := q.done + 1 } n else q

/-- PACKET_COMPLETE (R348): DONEADDR is written, DONE advances for a root packet, and the host is notified. -/
def execPacketComplete (k : Nat) (s : State) : Host.Outcome State Fault Refusal :=
  match s.grid? k with
  | none => .next s.idle
  | some g =>
    match s.ctx? g.ctx with
    | none => .next s.idle
    | some c =>
      let own := Owner.place k
      if c.dead || !s.gridQuiet g || !(g.started || g.pool.isEmpty) || g.kids ≠ 0 ||
          s.faults.any (fun a => a.owner == own && !a.ended) then .next s.idle
      else
        let b := g.pkt.bytes
        let addr := if field b 0 4 = 4 then 0 else field b 384 64
        let written : Except Halted State := if addr = 0 then .ok s else s.objWrite c own 0 0 addr (leBytes 8 s.time)
        let fin (s : State) : State :=
          let s := { s with grids := s.grids.filter (·.id != k), bins := s.bins.filter (·.grid != k),
                            spills := s.spills.filter (·.grid != k) }.clearFaults own
          let s := s.childDone g.pkt.parent
          let s := match s.queueOf g, g.pkt.parent with
            | some q, none =>
              let q' := Queue.advance { q with comp := g.pkt.root :: q.comp } (q.comp.length + 1)
              let s := if q'.done = q.done then s else s.arrive q.q
              s.putQueue (if q'.done = q.done then q' else { q' with dts := s.time })
            | _, _ => s
          let s := if flag b 5 && field b 0 4 ≠ 4 then s.notify 1 g.ctx g.q (g.pkt.root % 2 ^ 32) 0 else s
          s.wake
        match written with
        | .ok s => .next (fin s).idle
        | .error (.hold f) => .next (s.holdFault c own f).idle
        | .error _ => .next (fin s).idle

/-! ## LAUNCH (R354) -/

/-- LAUNCH. -/
def execLaunch (p : Fin 8) (b : Opnd) (s : State) : Host.Outcome State Fault Refusal :=
  issue s (fun _ => engineDesc .any (.a2u b) .any) fun v w act =>
    let x := v.rd2 b (lowest act)
    let sp := spaceOf x == 0xFE
    if x % 64 ≠ 0 then .trap { t := .misalign, addr := x }
    else if !inSpace v.p.spsize x 64 then .trap { t := .space, addr := x }
    else
      match v.engineOrder w with
      | none => .wait
      | some w =>
        if sp && v.s.spadBusy v.l.h v.s.nextId (x % 2 ^ 32 : Nat) 64 false then .wait
        else
          let got : Except TrapInfo (List Byte × V) :=
            if sp then (let (b, q) := v.p.spRead (x % 2 ^ 32) 64; if q then .error { t := .poison } else .ok (b, w)) else v.engGet w 0 x 64
          match got with
          | .error t => .trap t
          | .ok (pk, w) =>
            if packetBad pk || field pk 0 4 = 4 then .trap { t := .qpkt }
            else
              match v.p.grid.bind w.s.grid? with
              | none => .next (w.wrP p.val act fun _ => false)
              | some g =>
                if g.pkt.depth = 64 || 64 ≤ g.pool.length then .next (w.wrP p.val act fun _ => false)
                else .next ({ w with s := w.s.setGrid { g with pool := g.pool ++ [pk] } }.wrP p.val act fun _ => true)

/-! ## QSIG (R363) -/

/-- A change of SIG: an event when the value differs or `always` (R349, R363). -/
def State.signalQueue (s : State) (n v : Nat) (always : Bool) : State :=
  match s.queue? n with
  | none => s
  | some q =>
    if v = q.sig && !always then s
    else
      let s := s.arrive n
      (s.putQueue { q with sig := v, sts := s.time }).wake

/-- The common form of QSIG: a release at system scope, then the update of queue Q. -/
def qsigOp (b : Opnd) (k : Nat → Nat → State → State) (s : State) : Host.Outcome State Fault Refusal :=
  issue s (fun _ => { b := .u b, unif := true, log := false }) fun v w act =>
    if !v.quiet || v.s.seqShut v.p.die v.p.queue then .wait
    else .nextThen w.releaseB (k v.p.queue (v.rd b (lowest act) 1).toNat)

/-- QSIG_ADD (R363). -/
def execQsigAdd (b : Opnd) (s : State) : Host.Outcome State Fault Refusal :=
  qsigOp b (fun q x s => s.signalQueue q ((((s.queue? q).map (·.sig)).getD 0 + x) % 2 ^ 32) true) s
/-- QSIG_MAX (R363). -/
def execQsigMax (b : Opnd) (s : State) : Host.Outcome State Fault Refusal :=
  qsigOp b (fun q x s => s.signalQueue q (max (((s.queue? q).map (·.sig)).getD 0) x) false) s
/-- QSIG_NOTIFY (R363). -/
def execQsigNotify (b : Opnd) (s : State) : Host.Outcome State Fault Refusal :=
  qsigOp b (fun q x s => match s.queue? q with
    | some y => s.notify 3 y.ctx q x 0
    | none => s) s

/-! ## The privileged queue (R364, R387) -/

/-- An event packet (R364). -/
def eventBytes (c : Nat) (n : Notice) : List Byte :=
  leBytes 4 (4 + 7 * 256) ++ leBytes 1 n.cls ++ leBytes 1 n.die ++ leBytes 2 (if n.ovf then 1 else 0) ++ leBytes 8 n.ts ++ leBytes 8 n.det ++
    leBytes 2 c ++ leBytes 38 0

/-- EVENT_PACKET_WRITE (R364): the oldest notice is written into the context's privileged queue, WR advances, and then its
class is counted. -/
def execEventPacketWrite (c : Nat) (s : State) : Host.Outcome State Fault Refusal :=
  match s.ctx? c, s.queues.find? fun q => q.priv && q.ctx == c && q.st != .unbound with
  | some x, some q =>
    match x.evq with
    | [] => .next s.idle
    | n :: rest =>
      if 2 ^ q.logn ≤ q.wr - q.rd || x.dead then .next s.idle
      else
        match s.gwrite x atHome 0 false 4 (q.qbase + 64 * (q.wr % 2 ^ q.logn)) (eventBytes c n) with
        | .error f => .next (s.holdFault x (.packet q.q) f).idle
        | .ok s =>
          let evc := modAt x.evc (n.cls - 1) fun k => (k + 1) % 2 ^ 32
          let s := (s.putQueue { q with wr := q.wr + 1 }).setCtx { x with evq := rest, evc := evc }
          let mine := (s.saved.filter (·.p.ctx == x.c)).map (·.p.h) ++ (s.sampled.filter (·.ctx == x.c)).map (·.h)
          .next (mine.foldl (fun s h => (s.pend h 4 0 n.cls (evc.getD (n.cls - 1) 0)).getD s) s).idle
  | _, _ => .next s.idle

end Sys2Proof.Machine
end

