-- ==== Sys2Proof/Machine/Graph.lean ====
section
/-! DEFINITION. Culvert windows, work graphs and the retirement of polders (spec/07_polder_ring.md R183, R187;
spec/10_sluice.md R264; spec/14_queue_kernel.md R355 to R362): records, bins, spillways, NODEQ and BINFLUSH. -/
namespace Sys2Proof.Machine

/-! ## Nodes (R355) -/

/-- Node n of a grid. -/
def Grid.node (g : Grid) (n : Nat) : List Byte := g.pkt.nodes.getD n []
/-- Record size of a node. -/
def nodeRsize (e : List Byte) : Nat := 16 * (field e 101 2 + 1)
/-- Coalescing count of a node. -/
def nodeCount (e : List Byte) : Nat := field e 103 7 + 1
/-- Bin timer of a node, in nanoseconds. -/
def nodeTimer (e : List Byte) : Nat := if field e 160 32 = 0 then 2000 else field e 160 32
/-- The virtual dies that a context has parts for. -/
def Ctx.nvd (c : Ctx) : Nat := max 1 c.vdt.length
/-- Records that a spillway part of a node holds. -/
def nodeParts (c : Ctx) (e : List Byte) : Nat := (field e 256 32 / c.nvd - 64) / (nodeRsize e + 16)
/-- Where a node's spillway part begins. -/
def partBase (c : Ctx) (e : List Byte) (v : Nat) : Nat := field e 192 64 + field e 256 32 / c.nvd * v

/-- The bin of a node on a core. -/
def State.bin? (s : State) (core gid n : Nat) : Option Bin := s.bins.find? fun b => b.core == core && b.grid == gid && b.node == n
/-- A bin put back; an empty one is not kept. -/
def State.setBin (s : State) (b : Bin) : State :=
  let l := s.bins.filter fun x => !(x.core == b.core && x.grid == b.grid && x.node == b.node)
  { s with bins := if b.recs.isEmpty then l else b :: l }
/-- What the device keeps of a spillway part. -/
def State.spill? (s : State) (gid n v : Nat) : Spill :=
  (s.spills.find? fun x => x.grid == gid && x.node == n && x.part == v).getD ⟨gid, n, v, []⟩
/-- The same put back. -/
def State.setSpill (s : State) (x : Spill) : State :=
  { s with spills := x :: s.spills.filter fun y => !(y.grid == x.grid && y.node == x.node && y.part == x.part) }

/-- A polder of a node placed on a core with the records it takes (R358, R359). -/
def State.placeNode (s : State) (c : Ctx) (g : Grid) (n core : Nat) (recs : List GRec) : Option State :=
  let e := g.node n
  let (rid, s) := s.fresh
  match s.placeOn c core (nodeShape e) (g.pkt.heads.getD n []) (field e 0 64)
      { queue := g.q, grid := some g.id, prio := g.prio, ring := rid, sys := g.priv, node := some n,
        depth := recs.foldl (fun d r => max d r.depth) 0 } with
  | none => none
  | some (h, s) =>
    let rs := nodeRsize e
    some (s.modPolder h fun p =>
      let p := recs.zipIdx.foldl (fun p x => p.spWrite (rs * x.2) x.1.bytes false) p
      { p with nrec := recs.length, rsize := rs, tags := recs.filterMap (·.tag) })

/-- The 16-byte tag of a record in a spillway (R357): a saved emitter keeps the PHANDLE that its image names. -/
def State.tagBytes (s : State) (t : Option (Nat × Nat)) : List Byte :=
  match t with
  | none => leBytes 16 0
  | some (b, h) => leBytes 4 (b + 64) ++ leBytes 4 (s.phandle h) ++ leBytes 8 0

/-- A spillway access that fails (R400): it is held; ended, it is forgotten and made anew later (log 34); poison stops the context. -/
def State.spillFail (s : State) (c : Ctx) (own : Owner) : Halted → State
  | .hold f => s.holdFault c own f
  | .pois => s.contextDead c.c
  | .ended => s.clearFaults own

/-- A record appended to a spillway part (R355, R359), and whether it found a place there: not when the part is full or an access
to it is held. -/
def State.spillOne (s : State) (c : Ctx) (g : Grid) (n v : Nat) (r : GRec) : State × Bool :=
  let e := g.node n
  let x := s.spill? g.id n v
  let base := partBase c e v
  let own := Owner.spill g.id n v
  if nodeParts c e ≤ x.held.length || s.faults.any (fun a => a.owner == own && !a.ended) then (s, false)
  else
    let wr : Except Halted State := do
      let k := leNat (← s.objRead c own 0 0 base 4)
      let s ← s.objWrite c own 0 8 (base + 64 + (nodeRsize e + 16) * (k % max 1 (nodeParts c e))) (r.bytes ++ s.tagBytes r.tag)
      s.objWrite c own 0 16 base (leBytes 4 ((k + 1) % 2 ^ 32))
    match wr with
    | .ok s => (s.setSpill { x with held := x.held ++ [(r.depth, s.time, r.tag)] }, true)
    | .error e => (s.spillFail c own e, false)
/-- As many of some records as find place, in order: those that are left. -/
def State.spillAll (s : State) (c : Ctx) (g : Grid) (n v : Nat) : List GRec → State × List GRec
  | [] => (s, [])
  | r :: rs =>
    match s.spillOne c g n v r with
    | (s, true) => State.spillAll s c g n v rs
    | (s, false) => (s, r :: rs)

/-- Bins leave a core when no polder of their graph and no record is left there (R360). -/
def State.trimBins (s : State) (gid core : Nat) : State :=
  { s with grids := s.grids.map fun (g : Grid) =>
      if g.id = gid ∧ !(s.polders.any fun q => q.grid == some gid && q.core == core) ∧
          !(s.bins.any fun b => b.grid == gid && b.core == core) then { g with bins := g.bins.filter (· != core) } else g }

/-- A bin fires (R358): a polder takes its records on the core, or they go to the core's spillway part as far as it holds them. -/
def State.fire (s : State) (c : Ctx) (g : Grid) (b : Bin) : State :=
  match if c.hold then none else s.placeNode c g b.node b.core b.recs with
  | some s => s.setBin { b with recs := [] }
  | none =>
    let (s, left) := s.spillAll c g b.node (c.vdie (dieOf b.core)) b.recs
    (s.setBin { b with recs := left }).trimBins b.grid b.core

/-- A closed record enters its node's bin on a core, which fires when it is full, or goes to the spillway part; and
whether there was a place for it (R358, R359). -/
def State.enter (s : State) (c : Ctx) (g : Grid) (core n : Nat) (r : GRec) : State × Bool :=
  if !g.bins.contains core then s.spillOne c g n (c.vdie (dieOf core)) r
  else
    let b := (s.bin? core g.id n).getD ⟨core, g.id, n, s.time, []⟩
    let b := if b.recs.isEmpty then { b with since := s.time } else b
    if nodeCount (g.node n) ≤ b.recs.length then (s, false)
    else
      let b := { b with recs := b.recs ++ [r] }
      let s := s.setBin b
      (if nodeCount (g.node n) ≤ b.recs.length then s.fire c g b else s, true)

/-- BIN_TIMER_EXPIRY (R358): a bin fires TIMER ns after its first record; a full one that waits tries again. -/
def execBinTimerExpiry (core grid node : Nat) (s : State) : Host.Outcome State Fault Refusal :=
  match s.grid? grid, s.bin? core grid node with
  | some g, some b =>
    match s.ctx? g.ctx with
    | some c =>
      let due := b.since + nodeTimer (g.node node) ≤ s.time || nodeCount (g.node node) ≤ b.recs.length
      .next (if due && !c.dead && !b.recs.isEmpty then s.fire c g b else s).idle
    | none => .next s.idle
  | _, _ => .next s.idle

/-- BINFLUSH (R362). -/
def execBinflush (b : Opnd) (s : State) : Host.Outcome State Fault Refusal :=
  issue s (fun _ => { b := .u b, unif := true, log := false }) fun v w act =>
    .nextThen w fun s =>
      match v.p.node, v.p.grid.bind s.grid?, s.ctx? v.p.ctx with
      | some _, some g, some c =>
        match s.bin? v.p.core g.id (v.rd b (lowest act) 1).toNat with
        | some x => s.fire c g x
        | none => s
      | _, _, _ => s

/-- NODEQ (R361). -/
def execNodeq (a b : Opnd) (q : BitVec 8) (s : State) : Host.Outcome State Fault Refusal :=
  let d : Desc := { a := .d a, b := .u b, c := .lit (q.toNat < 6), unif := true }
  issue s (fun _ => d) fun v w act =>
    let n := (v.rd b (lowest act) 1).toNat
    let x : Nat :=
      match v.p.node, v.p.grid.bind v.s.grid?, v.s.ctx? v.p.ctx with
      | some e, some g, some c =>
        let ok := n < g.pkt.nodes.length
        match q.toNat with
        | 0 => v.p.nrec
        | 1 => if ok then nodeRsize (g.node n) else 0xFFFFFFFF
        | 2 => v.p.depth
        | 3 => if ok then ((v.s.bin? v.p.core g.id n).map (·.recs.length)).getD 0 else 0xFFFFFFFF
        | 4 => if ok then (v.s.spill? g.id n (c.vdie v.p.die)).held.length else 0xFFFFFFFF
        | _ => e
      | _, _, _ => 0xFFFFFFFF
    v.result w d a act fun _ => BitVec.ofNat 32 x

/-! ## Spillways (R359) -/

/-- n records taken from the head of a spillway part, read from memory. -/
def State.takeSpill (s : State) (c : Ctx) (g : Grid) (n v k : Nat) : Except Halted (State × List GRec) := do
  let e := g.node n
  let x := s.spill? g.id n v
  let own := Owner.spill g.id n v
  let base := partBase c e v
  let hd ← s.objRead c own 0 0 base 8
  let tail := field hd 32 32
  let rs := nodeRsize e
  let rec go (i : Nat) : List (Nat × Nat × Option (Nat × Nat)) → Except Halted (List GRec)
    | [] => .ok []
    | m :: ms => do
      let b ← s.objRead c own 0 (8 * i + 8) (base + 64 + (rs + 16) * ((tail + i) % max 1 (nodeParts c e))) rs
      let r ← go (i + 1) ms
      return ⟨b, m.1, m.2.2⟩ :: r
  let recs ← go 0 (x.held.take k)
  let s ← s.objWrite c own 0 (2 ^ 14) (base + 4) (leBytes 4 ((tail + recs.length) % 2 ^ 32))
  return (s.setSpill { x with held := x.held.drop k }, recs)

/-- The sequencer places a polder of a node for a spillway part when it holds COUNT records or its oldest has waited TIMER
ns, on a core of the part's die that has room. -/
def State.spillPlace (s : State) (gid n v : Nat) : State :=
  match s.grid? gid with
  | none => s
  | some g =>
    match s.ctx? g.ctx with
    | none => s
    | some c =>
      let x := s.spill? gid n v
      let own := Owner.spill gid n v
      let e := g.node n
      let due := nodeCount e ≤ x.held.length || (match x.held with
        | m :: _ => decide (m.2.1 + nodeTimer e ≤ s.time)
        | [] => false)
      if !due || c.dead || c.hold || s.faults.any (fun a => a.owner == own && !a.ended) then s
      else
        match s.takeSpill c g n v (nodeCount e), c.pdie v with
        | .error e, _ => s.spillFail c own e
        | .ok _, none => s
        | .ok (s', recs), some d =>
          let cores := ((octetsOf [d]).flatMap octetCores).filter fun k => s.hasRoom k s.nextId (nodeShape e) (claims (g.pkt.heads.getD n []))
          match cores[s.choose (2 ^ 37) cores.length]? with
          | none => s
          | some k => ((s'.placeNode c g n k recs).map (·.reserveBins g.id k)).getD s

/-- SPILLWAY_PLACE (R359). -/
def execSpillwayPlace (grid node part : Nat) (s : State) : Host.Outcome State Fault Refusal := .next (s.spillPlace grid node part).idle
/-- SPILLWAY_TIMER_EXPIRY (R359). -/
def execSpillwayTimerExpiry (grid node part : Nat) (s : State) : Host.Outcome State Fault Refusal :=
  .next (s.spillPlace grid node part).idle

/-! ## Culvert flits (R187, R264, R344, R356) -/

/-- The open record of thread t for a window, among some, with a store's bytes placed in it; `op`: the one that this operation closes for a
thread that has gone. -/
def openRec (l : List OpenRec) (win t pos : Nat) (bs : List Byte) (op : Option Nat := none) : OpenRec :=
  let o := (l.find? fun o => o.win == win && o.t == t && o.op == op).getD { win := win, t := t, mask := 0, bytes := List.replicate 64 0, op := op }
  { o with mask := o.mask ||| ((2 ^ bs.length - 1) * 2 ^ pos), bytes := (patch o.bytes pos bs).take 64 }

/-- The record that a polder closes in an open record for window k of node n (R356, R357). -/
def Polder.closed (p : Polder) (g : Grid) (k n : Nat) (o : OpenRec) : GRec :=
  { bytes := o.bytes.take (nodeRsize (g.node n)), depth := if p.node = some n then p.depth + 1 else 0,
    tag := if k = 0 then none else some (k - 1, p.h) }

/-- A culvert store of an inlet or outlet core to a window that its polder may use (R187, R261), and whether the window accepts it
now. The core has open records as a thread has (R356). -/
def State.coreFlit (s : State) (p : Polder) (c : IoCore) (win : Nat) (close : Bool) (pos : Nat) (bs : List Byte) :
    State × IoCore × Bool :=
  match nodeWindow win with
  | none => if close && s.seqShut p.die win then (s, c, false) else (if close then s.doorbell win (leNat ((patch (List.replicate 64 0) pos bs).take 4)) else s, c, true)
  | some (k, n) =>
    let o := openRec c.orecs win 0 pos bs
    let rest := c.orecs.filter fun x => x.win != win
    if !close then (s, { c with orecs := rest ++ [o] }, true)
    else
      match p.grid.bind s.grid?, s.ctx? p.ctx with
      | some g, some x =>
        let (s, ok) := s.enter x g p.core n (p.closed g k n o)
        (s, if ok then { c with orecs := rest } else c, ok)
      | _, _ => (s, c, true)

/-- The fascine and thread that the thread is now for which fascine f issued an operation (R180); none: it has exited. -/
def Polder.placeNow (p : Polder) (f : Nat) (o : MemOp) (t : Nat) : Option (Nat × Nat) :=
  let x := (p.fs[f]?).getD {}
  let at? : Option (Nat × Nat) :=
    if o.ep = x.epoch then some (f, t)
    else p.fs.zipIdx.findSome? fun (x, j) => (x.prior.find? fun q => q.f == f && q.u == t && q.holds o).map fun q => (j, q.t)
  at?.filter fun (j, u) => let x := (p.fs[j]?).getD {}; !x.retired && !x.r.exmask.getLsbD u

/-- A flit of an operation of fascine f of polder h at its window, and whether the window accepts it or must still hold it (R187). -/
def State.acceptFlit (s : State) (h f : Nat) (op : MemOp) (t : Nat) (ws : List Word) (win : Nat) (close : Bool) (pos : Nat) : State × Bool :=
  let bs := wordsBytes ws
  match s.polder? h with
  | none => (s, true)
  | some p =>
    if win < 0x8000 then
      if close && s.seqShut p.die win then (s, false) else (if close then s.doorbell win (leNat ((patch (List.replicate 64 0) pos bs).take 4)) else s, true)
    else
      match nodeWindow win, mailboxWindow win with
      | some (k, n), _ =>
        let left := ((p.fs[f]?).getD {}).orecs.any fun r => r.op == some op.id && r.win == win && r.t == t
        let (j, u) := if left then (f, t) else (p.placeNow f op t).getD (f, t)
        let fa := (p.fs[j]?).getD {}
        let tag := if left then some op.id else none
        let gone := !left && (p.placeNow f op t).isNone
        let o := openRec (if gone then [] else fa.orecs) win u pos bs tag
        let rest := fa.orecs.filter fun x => gone || !(x.win == win && x.t == u && x.op == tag)
        if !close then (if gone then s else s.modFasc h j fun x => { x with orecs := rest ++ [o] }, true)
        else
          match p.grid.bind s.grid?, s.ctx? p.ctx with
          | some g, some c =>
            let (s, ok) := s.enter c g p.core n (p.closed g k n o)
            (if ok then s.modFasc h j fun x => { x with orecs := rest } else s, ok)
          | _, _ => (s, true)
      | none, some (_, k) =>
        match p.io.find? (·.k == k) with
        | none => (s, true)
        | some io =>
          let pk := (patch (io.mopen ++ List.replicate (64 - io.mopen.length) 0) pos bs).take 64
          if 16 ≤ io.ready.length then (s, false)
          else
            let io := if close then { io with mopen := [], ready := io.ready ++ [pk] } else { io with mopen := pk }
            (s.setPolder { p with io := p.io.map fun (x : IoCore) => if x.k = k then io else x }, true)
      | none, none => (s, true)

/-- The first flit of an operation that some test picks is accepted (R187); F1 drops with the operation's last. -/
def State.acceptOne (s : State) (h f op : Nat) (pick : Access → Bool) : State :=
  match s.polder? h, s.fasc? h f, s.op? h f op with
  | some p, some x, some o =>
    match (s.ready' p x o true).find? fun y => pick y.1 with
    | some ({ t, loc := .culvert win close pos, data := ws, .. }, k) =>
      match s.acceptFlit h f o t ws win close pos with
      | (s, true) => s.modFasc h f (·.took op k)
      | (s, false) => s
    | _ => s
  | _, _, _ => s

/-- CULVERT_FLIT_ACCEPT (R187). -/
def execCulvertFlitAccept (h f op : Nat) (s : State) : Host.Outcome State Fault Refusal :=
  .next (s.acceptOne h f op fun _ => true).idle

/-- The operations of a fascine that hold culvert stores: at most one is in flight (R187). -/
def State.culvertOps (s : State) (h f : Nat) : List Nat := (((s.fasc? h f).getD {}).ops.filter (·.hasCulvert)).map (·.id)

/-- WORK_GRAPH_RECORD_CLOSE (R356): a thread's closing store to a node window is accepted, and its record enters the bin. -/
def execWorkGraphRecordClose (h f t window : Nat) (s : State) : Host.Outcome State Fault Refusal :=
  match s.culvertOps h f with
  | op :: _ => .next (s.acceptOne h f op fun a => a.t == t && a.closes window).idle
  | [] => .next s.idle

/-- MAILBOX_PACKET_CLOSE (R264): a closing store to the mailbox of core k of polder h is accepted. -/
def execMailboxPacketClose (h k : Nat) (s : State) : Host.Outcome State Fault Refusal :=
  let win := 0x400000 + 2 * coreOf h + k
  let fs := List.range (((s.polder? h).map (·.fs.length)).getD 0)
  match fs.findSome? fun f => (s.culvertOps h f).findSome? fun op =>
      if ((s.op? h f op).map (fun o => o.acc.any (·.closes win))).getD false then some (f, op) else none with
  | some (f, op) => .next (s.acceptOne h f op (·.closes win)).idle
  | none => .next s.idle

/-! ## Retirement (R183, R230, R357, R373) -/

/-- Whether everything that a draining polder issued has been performed, and nobody still needs it. -/
def State.drained (s : State) (p : Polder) : Bool :=
  let mine (i : Issuer) : Bool := i.h == p.h
  p.life == .draining && p.stopReq.isNone && p.fs.all (fun f => f.ops.isEmpty && f.chains.isEmpty) && p.engines.all (fun e => e.q.all e.stuck) &&
    !(s.schains.any fun k => mine k.iss) && !(s.colls.any fun k => mine k.iss) && !(s.rays.any fun r => mine r.iss && !r.done) &&
    !(s.walks.any fun w => mine w.iss) && !(s.jobs.any fun j => (j.iss.map mine).getD false) &&
    (((s.ctx? p.ctx).map (·.dead)).getD true || (s.leader p != p.h || (s.ringAll p).length == 1) &&
    !((s.bins.any fun b => b.recs.any fun r => (r.tag.map Prod.snd) == some p.h) ||
      (s.spills.any fun x => x.held.any fun m => (m.2.2.map Prod.snd) == some p.h) ||
      (s.polders.any fun q => q.tags.any fun t => t.2 == p.h) || (s.saved.any fun z => z.p.tags.any fun t => t.2 == p.h)))

/-- The trap record of a handler that has resumed or retired its target is free when the handler has gone (R373). -/
def State.freeRecord (s : State) (p : Polder) : State :=
  match s.ctx? p.ctx, p.tself with
  | some c, some t => if p.hdone then s.setCtx { c with recs := c.recs.filter (·.1 != t) } else s
  | _, _ => s

/-- POLDER_RETIRE (R183): the polder's resources return to its core; records that it consumed are counted at the barriers
they name (R357), its trap record is freed when it has ended its target's halt (R373), and the
bins of its graph leave the core with its last polder there when they are empty (R360). -/
def execPolderRetire (h : Nat) (s : State) : Host.Outcome State Fault Refusal :=
  match s.polder? h with
  | none => .next s.idle
  | some p =>
    if !s.drained p then .next s.idle
    else
      let s := (s.dropPolder h)
      let s := p.tags.foldl (fun s t => s.land t.2 (some t.1) p.rsize 4) s
      let s := { s with rays := s.rays.filter (·.iss.h != h),
                        faults := s.faults.filter fun a => match a.owner with
                          | .matrix x _ _ => x != h
                          | _ => true,
                        reserved := s.reserved.filter fun r => r.1 != p.ring || !(s.ringAll p).isEmpty }
      let s := match p.grid with
        | some g => s.trimBins g p.core
        | none => s
      .next (s.freeRecord p).idle

end Sys2Proof.Machine
end

