-- ==== Sys2Proof/Machine/Riscv.lean ====
section
/-! DEFINITION. The inlet and outlet cores (spec/10_sluice.md R260 to R264): RV32IMC with Zicsr and Zifencei (R9) in
machine mode. The manual names the instruction set and does not describe it: the meanings of its instructions, the
cause numbers and the fields of the CSRs are those of RISC-V (log 8, PRESUMED). -/
namespace Sys2Proof.Machine

/-! ## The core of a polder -/

/-- Core k (0 inlet, 1 outlet) that a polder claims. -/
def Polder.core? (p : Polder) (k : Nat) : Option IoCore := p.io.find? (·.k == k)
/-- Core k of a polder put back. -/
def State.setCore (s : State) (h : Nat) (c : IoCore) : State :=
  s.modPolder h fun p => { p with io := p.io.map fun (x : IoCore) => if x.k = c.k then c else x }
/-- A register of a core; x0 reads 0. -/
def IoCore.rx (c : IoCore) (r : Nat) : Word := if r = 0 then 0 else c.x.getD r 0
/-- A register of a core written; x0 discards. -/
def IoCore.wx (c : IoCore) (r : Nat) (v : Word) : IoCore := if r = 0 then c else { c with x := setAt c.x r v }

/-! ## Registers of the sluice, the clock and the mailbox (R262, R263) -/

/-- A core issues a chain (R262): channel in [1:0], ticket in [10:8]; none while the ticket is busy or the queue is
full. An empty chain and one with a head that no chain can have end at once. -/
def State.slgo (s : State) (p : Polder) (c : IoCore) (v : Word) : Option (State × IoCore) :=
  let e := v.toNat % 4
  let t := bits v.toNat 8 3
  let h := c.headhi.toNat * 2 ^ 32 + c.headlo.toNat
  if c.busy.getLsbD t || 256 ≤ (s.onEngine p.die e).length then none
  else if h = 0 then some (s, { c with slst := setAt c.slst t 0 })
  else if h % 64 ≠ 0 then some (s, { c with slst := setAt c.slst t (endStatus 2 0) })
  else if !globalOrSpad h then some (s, { c with slst := setAt c.slst t (endStatus 3 0) })
  else
    let x : SChain := { id := s.nextId, ctx := p.ctx, die := p.die, eng := e, iss := { h := p.h, io := some c.k },
                        tok := t, mask := 0, next := h }
    some ({ s with schains := s.schains ++ [x], nextId := s.nextId + 1 },
      { c with busy := c.busy ||| bit8 t, slst := setAt c.slst t 1 })

/-- The chain of a ticket is killed (R253, R262). -/
def State.slkl (s : State) (h k : Nat) (v : Word) : State :=
  { s with schains := s.schains.map fun (x : SChain) =>
      if x.iss.h = h ∧ x.iss.io = some k ∧ x.tok = v.toNat % 8 then { x with kill := true } else x }

/-- The head packet of the mailbox is removed (R263). -/
def IoCore.pop (c : IoCore) : IoCore := { c with ready := c.ready.drop 1 }
/-- TIMELO is read: TIMEHI takes the high word of the time-stamp (R263). -/
def IoCore.timelo (s : State) (c : IoCore) : Word × IoCore :=
  (BitVec.ofNat 32 s.time, { c with timehi := BitVec.ofNat 32 (s.time / 2 ^ 32) })

/-- A read of the register word at offset o of the sluice and control registers; a place with no register and a WO
register read 0. -/
def IoCore.regRead (s : State) (c : IoCore) (a : Nat) : Word × IoCore :=
  if a = 0x2000000C then (c.busy.setWidth 32, c)
  else if 0x20000020 ≤ a ∧ a < 0x20000040 then (c.slst.getD ((a - 0x20000020) / 4) 0, c)
  else if a = 0x20001000 then c.timelo s
  else if a = 0x20001004 then (c.timehi, c)
  else if a = 0x20001010 then (BitVec.ofNat 32 c.ready.length, c)
  else if 0x20001040 ≤ a ∧ a < 0x20001080 then (wordAt (c.ready.headD []) (a - 0x20001040), c)
  else (0, c)

/-- A write of a register word; none when it stalls. RO registers and places with no register discard it. -/
def State.regWrite (s : State) (p : Polder) (c : IoCore) (a : Nat) (v : Word) : Option (State × IoCore) :=
  if a = 0x20000000 then some (s, { c with headlo := v })
  else if a = 0x20000004 then some (s, { c with headhi := v })
  else if a = 0x20000008 then s.slgo p c v
  else if a = 0x20000010 then some (s.slkl p.h c.k v, c)
  else if a = 0x20001014 then some (s, c.pop)
  else some (s, c)

/-- Whether an address lies in the sluice, control or mailbox registers (R261). -/
def isReg (a : Nat) : Bool :=
  decide (0x20000000 ≤ a ∧ a < 0x20000100) || decide (0x20001000 ≤ a ∧ a < 0x20001100)

/-! ## Loads and stores (R261) -/

/-- What an instruction or an access of a core comes to. -/
inductive RvRes where
  | go (s : State) (c : IoCore)
  | exc (cause : Nat) (tval : Nat)
  | stall (s : State)
  | ecall
  deriving DecidableEq, Repr

/-- A load of n bytes: the value and the core after side effects, or the exception: 4 misaligned, 5 access fault. -/
def State.rvLoad (s : State) (p : Polder) (c : IoCore) (a n : Nat) : Except Nat (Nat × IoCore) :=
  if a % n ≠ 0 then .error 4
  else if a + n ≤ 0x8000 then .ok (leNat (c.imem.readN a n), c)
  else if 0x10000 ≤ a ∧ a + n ≤ 0x14000 then .ok (leNat (c.dmem.readN (a - 0x10000) n), c)
  else if 0x10000000 ≤ a ∧ a < 0x10400000 ∧ a - 0x10000000 + n ≤ p.spsize then
    .ok (leNat (p.spad.readN (a - 0x10000000) n), c)
  else if isReg a then
    let (w, c) := c.regRead s (a / 4 * 4)
    .ok (bits w.toNat (8 * (a % 4)) (8 * n), c)
  else .error 5

/-- A store of the n low bytes of a value: 6 misaligned, 7 access fault. A culvert store reaches the windows that the polder's
threads reach (R187), but for a mailbox, which takes stores of threads only (R264); while its window cannot accept it, the
core stalls (R261). -/
def State.rvStore (s : State) (p : Polder) (c : IoCore) (a n : Nat) (v : Word) : RvRes :=
  let bs := leBytes n v.toNat
  if a % n ≠ 0 then .exc 6 a
  else if 0x10000 ≤ a ∧ a + n ≤ 0x14000 then .go s { c with dmem := c.dmem.writeN (a - 0x10000) bs }
  else if 0x10000000 ≤ a ∧ a < 0x10400000 ∧ a - 0x10000000 + n ≤ p.spsize then
    .go (s.spWrite p.h (a - 0x10000000) bs false) c
  else if isReg a then
    match s.regWrite p c (a / 4 * 4) (BitVec.ofNat 32 (leNat bs * 2 ^ (8 * (a % 4)))) with
    | some (s, c) => .go s c
    | none => .stall s
  else if 0x40000000 ≤ a ∧ a < 0x80000000 ∧ n = 4 then
    let win := bits a 7 23
    if s.windowOk p win && (mailboxWindow win).isNone then
      match s.coreFlit p c win (bit a 6) (a % 64) bs with
      | (s, c, true) => .go s c
      | (s, _, false) => .stall s
    else .exc 7 a
  else .exc 7 a

/-! ## CSRs (R260) -/

/-- A CSR of a core; none: there is no such CSR. mcycle counts beats: its field holds the difference to the beat. -/
def IoCore.csr (s : State) (h : Nat) (c : IoCore) (n : Nat) : Option Word :=
  let cyc := BitVec.ofNat 64 s.beat + c.mcycle
  match n with
  | 0x300 => some c.mstatus
  | 0x301 => some 0x40001104
  | 0x305 => some c.mtvec
  | 0x340 => some c.mscratch
  | 0x341 => some c.mepc
  | 0x342 => some c.mcause
  | 0x343 => some c.mtval
  | 0xB00 => some (cyc.setWidth 32)
  | 0xB02 => some (c.minstret.setWidth 32)
  | 0xB80 => some (cyc.extractLsb' 32 32)
  | 0xB82 => some (c.minstret.extractLsb' 32 32)
  | 0xF14 => some (BitVec.ofNat 32 (2 * coreOf h + c.k))
  | _ => none

/-- A CSR written: misa discards; mstatus takes MIE and MPIE; mtvec and mepc keep their low bits 0. -/
def IoCore.setCsr (s : State) (c : IoCore) (n : Nat) (v : Word) : IoCore :=
  let now := BitVec.ofNat 64 s.beat
  let cyc := now + c.mcycle
  match n with
  | 0x300 => { c with mstatus := (c.mstatus &&& ~~~0x88) ||| (v &&& 0x88) }
  | 0x305 => { c with mtvec := v &&& ~~~3 }
  | 0x340 => { c with mscratch := v }
  | 0x341 => { c with mepc := v &&& ~~~1 }
  | 0x342 => { c with mcause := v }
  | 0x343 => { c with mtval := v }
  | 0xB00 => { c with mcycle := (cyc.extractLsb' 32 32 ++ v) - now }
  | 0xB02 => { c with minstret := c.minstret.extractLsb' 32 32 ++ v }
  | 0xB80 => { c with mcycle := (v ++ cyc.setWidth 32) - now }
  | 0xB82 => { c with minstret := v ++ c.minstret.setWidth 32 }
  | _ => c

/-! ## Compressed instructions -/

/-- An I-type word. -/
def rvI (imm : Int) (rs f rd op : Nat) : Nat := wrap 12 imm * 2 ^ 20 + rs * 2 ^ 15 + f * 2 ^ 12 + rd * 2 ^ 7 + op
/-- An R-type word of opcode 0x33. -/
def rvR (f7 rs2 rs1 f rd : Nat) : Nat := f7 * 2 ^ 25 + rs2 * 2 ^ 20 + rs1 * 2 ^ 15 + f * 2 ^ 12 + rd * 2 ^ 7 + 0x33
/-- A store word (SW). -/
def rvS (imm rs2 rs1 : Nat) : Nat := imm / 32 * 2 ^ 25 + rs2 * 2 ^ 20 + rs1 * 2 ^ 15 + 2 * 2 ^ 12 + imm % 32 * 2 ^ 7 + 0x23
/-- A branch word against x0. -/
def rvB (imm : Int) (rs1 f : Nat) : Nat :=
  let i := wrap 13 imm
  bits i 12 1 * 2 ^ 31 + bits i 5 6 * 2 ^ 25 + rs1 * 2 ^ 15 + f * 2 ^ 12 + bits i 1 4 * 2 ^ 8 + bits i 11 1 * 2 ^ 7 + 0x63
/-- A jump word. -/
def rvJ (imm : Int) (rd : Nat) : Nat :=
  let i := wrap 21 imm
  bits i 20 1 * 2 ^ 31 + bits i 1 10 * 2 ^ 21 + bits i 11 1 * 2 ^ 20 + bits i 12 8 * 2 ^ 12 + rd * 2 ^ 7 + 0x6F

/-- The 32-bit word that a 16-bit instruction stands for; none: reserved or of an extension that the core lacks. -/
def rvExpand (c : Nat) : Option Nat :=
  let rd := bits c 7 5
  let rs2 := bits c 2 5
  let rp := 8 + bits c 7 3
  let rq := 8 + bits c 2 3
  let imm6 : Int := signed 6 (bits c 12 1 * 32 + bits c 2 5)
  let sh := bits c 2 5
  let lw := bits c 10 3 * 8 + bits c 6 1 * 4 + bits c 5 1 * 64
  let jmp : Int := signed 12 (bits c 12 1 * 2048 + bits c 11 1 * 16 + bits c 9 2 * 256 + bits c 8 1 * 1024 + bits c 7 1 * 64 +
    bits c 6 1 * 128 + bits c 3 3 * 2 + bits c 2 1 * 32)
  let br : Int := signed 9 (bits c 12 1 * 256 + bits c 10 2 * 8 + bits c 5 2 * 64 + bits c 3 2 * 2 + bits c 2 1 * 32)
  match c % 4, bits c 13 3 with
  | 0, 0 =>
    let i := bits c 11 2 * 16 + bits c 7 4 * 64 + bits c 6 1 * 4 + bits c 5 1 * 8
    if i = 0 then none else some (rvI i 2 0 rq 0x13)
  | 0, 2 => some (rvI lw rp 2 rq 0x03)
  | 0, 6 => some (rvS lw rq rp)
  | 1, 0 => some (rvI imm6 rd 0 rd 0x13)
  | 1, 1 => some (rvJ jmp 1)
  | 1, 2 => some (rvI imm6 0 0 rd 0x13)
  | 1, 3 =>
    if imm6 = 0 then none
    else if rd = 2 then
      some (rvI (signed 10 (bits c 12 1 * 512 + bits c 6 1 * 16 + bits c 5 1 * 64 + bits c 3 2 * 128 + bits c 2 1 * 32)) 2 0 2 0x13)
    else some (wrap 20 imm6 * 2 ^ 12 + rd * 2 ^ 7 + 0x37)
  | 1, 4 =>
    match bits c 10 2 with
    | 0 => if bit c 12 then none else some (rvI sh rp 5 rp 0x13)
    | 1 => if bit c 12 then none else some (rvI (0x400 + sh : Nat) rp 5 rp 0x13)
    | 2 => some (rvI imm6 rp 7 rp 0x13)
    | _ =>
      if bit c 12 then none
      else
        match bits c 5 2 with
        | 0 => some (rvR 0x20 rq rp 0 rp)
        | 1 => some (rvR 0 rq rp 4 rp)
        | 2 => some (rvR 0 rq rp 6 rp)
        | _ => some (rvR 0 rq rp 7 rp)
  | 1, 5 => some (rvJ jmp 0)
  | 1, 6 => some (rvB br rp 0)
  | 1, 7 => some (rvB br rp 1)
  | 2, 0 => if bit c 12 then none else some (rvI sh rd 1 rd 0x13)
  | 2, 2 => if rd = 0 then none else some (rvI (bits c 12 1 * 32 + bits c 4 3 * 4 + bits c 2 2 * 64 : Nat) 2 2 rd 0x03)
  | 2, 4 =>
    if bit c 12 then
      if rs2 ≠ 0 then some (rvR 0 rs2 rd 0 rd) else if rd = 0 then some 0x00100073 else some (rvI 0 rd 0 1 0x67)
    else if rs2 ≠ 0 then some (rvR 0 rs2 0 0 rd)
    else if rd = 0 then none
    else some (rvI 0 rd 0 0 0x67)
  | 2, 6 => some (rvS (bits c 9 4 * 4 + bits c 7 2 * 64) rs2 2)
  | _, _ => none

/-! ## Instructions -/

/-- The integer operations of OP and OP-IMM by funct3; `alt` selects SUB and SRA. -/
def rvAlu (f : Nat) (alt : Bool) (a b : Word) : Word :=
  match f with
  | 0 => if alt then a - b else a + b
  | 1 => a <<< (b.toNat % 32)
  | 2 => if a.slt b then 1 else 0
  | 3 => if a.ult b then 1 else 0
  | 4 => a ^^^ b
  | 5 => if alt then a.sshiftRight (b.toNat % 32) else a >>> (b.toNat % 32)
  | 6 => a ||| b
  | _ => a &&& b

/-- The M extension by funct3: division by 0 gives all ones and the dividend; overflow gives the dividend and 0. -/
def rvMul (f : Nat) (a b : Word) : Word :=
  let w (x : Int) : Word := BitVec.ofInt 32 x
  match f with
  | 0 => a * b
  | 1 => w (a.toInt * b.toInt / 2 ^ 32)
  | 2 => w (a.toInt * b.toNat / 2 ^ 32)
  | 3 => w (a.toNat * b.toNat / 2 ^ 32 : Nat)
  | 4 => if b = 0 then ~~~0 else w (a.toInt.tdiv b.toInt)
  | 5 => if b = 0 then ~~~0 else w (a.toNat / b.toNat : Nat)
  | 6 => if b = 0 then a else w (a.toInt.tmod b.toInt)
  | _ => if b = 0 then a else w (a.toNat % b.toNat : Nat)

/-- Whether a branch of funct3 f is taken; none: no such branch. -/
def rvTaken (f : Nat) (a b : Word) : Option Bool :=
  match f with
  | 0 => some (a == b)
  | 1 => some (a != b)
  | 4 => some (a.slt b)
  | 5 => some (!a.slt b)
  | 6 => some (a.ult b)
  | 7 => some (!a.ult b)
  | _ => none

/-- A CSR instruction of funct3 f on CSR n: the core afterwards, or none when it is illegal. -/
def State.rvCsr (s : State) (h : Nat) (c : IoCore) (n f rs rd : Nat) : Option IoCore :=
  match c.csr s h n with
  | none => none
  | some old =>
    let v := if 4 ≤ f then BitVec.ofNat 32 rs else c.rx rs
    let writes := f % 4 == 1 || rs != 0
    if writes && 0xC00 ≤ n then none
    else
      let new := match f % 4 with
        | 1 => v
        | 2 => old ||| v
        | _ => old &&& ~~~v
      let c := c.wx rd old
      some (if writes then c.setCsr s n new else c)

/-- One instruction word of a core at its pc, `len` bytes long. -/
def State.rvExec (s : State) (p : Polder) (c0 : IoCore) (i len : Nat) : RvRes :=
  let c := { c0 with pc := c0.pc + BitVec.ofNat 32 len, minstret := c0.minstret + 1 }
  let rd := bits i 7 5
  let f := bits i 12 3
  let a := c.rx (bits i 15 5)
  let b := c.rx (bits i 20 5)
  let f7 := bits i 25 7
  let immI : Int := signed 12 (bits i 20 12)
  let at' (x : Int) : Word := a + BitVec.ofInt 32 x
  let ill : RvRes := .exc 2 i
  match i % 128 with
  | 0x37 => .go s (c.wx rd (BitVec.ofNat 32 (bits i 12 20 * 2 ^ 12)))
  | 0x17 => .go s (c.wx rd (c0.pc + BitVec.ofNat 32 (bits i 12 20 * 2 ^ 12)))
  | 0x6F =>
    let imm : Int := signed 21 (bits i 31 1 * 2 ^ 20 + bits i 12 8 * 2 ^ 12 + bits i 20 1 * 2 ^ 11 + bits i 21 10 * 2)
    .go s { c.wx rd c.pc with pc := c0.pc + BitVec.ofInt 32 imm }
  | 0x67 => if f = 0 then .go s { c.wx rd c.pc with pc := at' immI &&& ~~~1 } else ill
  | 0x63 =>
    let imm : Int := signed 13 (bits i 31 1 * 2 ^ 12 + bits i 7 1 * 2 ^ 11 + bits i 25 6 * 32 + bits i 8 4 * 2)
    match rvTaken f a b with
    | some t => .go s (if t then { c with pc := c0.pc + BitVec.ofInt 32 imm } else c)
    | none => ill
  | 0x03 =>
    if f = 3 ∨ 6 ≤ f then ill
    else
      let x := (at' immI).toNat
      let n := 2 ^ (f % 4)
      match s.rvLoad p c x n with
      | .error e => .exc e x
      | .ok (v, c) => .go s (c.wx rd (if f < 2 then BitVec.ofInt 32 (signed (8 * n) v) else BitVec.ofNat 32 v))
  | 0x23 =>
    if 3 ≤ f then ill
    else s.rvStore p c (at' (signed 12 (f7 * 32 + rd))).toNat (2 ^ f) b
  | 0x13 =>
    if f = 1 ∨ f = 5 then
      if f7 = 0 ∨ (f = 5 ∧ f7 = 0x20) then .go s (c.wx rd (rvAlu f (f7 = 0x20) a (BitVec.ofNat 32 (bits i 20 5)))) else ill
    else .go s (c.wx rd (rvAlu f false a (BitVec.ofInt 32 immI)))
  | 0x33 =>
    if f7 = 1 then .go s (c.wx rd (rvMul f a b))
    else if f7 = 0 ∨ (f7 = 0x20 ∧ (f = 0 ∨ f = 5)) then .go s (c.wx rd (rvAlu f (f7 = 0x20) a b))
    else ill
  | 0x0F => if f ≤ 1 then .go s c else ill        -- FENCE, FENCE.I (R222)
  | 0x73 =>
    if f = 0 then
      if i = 0x00000073 then .ecall
      else if i = 0x00100073 then .exc 3 c0.pc.toNat
      else if i = 0x30200073 then
        let ie := if c.mstatus.getLsbD 7 then (0x88 : Word) else 0x80
        .go s { c with pc := c.mepc, mstatus := (c.mstatus &&& ~~~0x88) ||| ie }
      else if i = 0x10500073 then if c.ready.isEmpty then .stall s else .go s c
      else ill
    else if f = 4 then ill
    else
      match s.rvCsr p.h c (bits i 20 12) f (bits i 15 5) rd with
      | some c => .go s c
      | none => ill
  | _ => ill

/-! ## Exceptions (R260) -/

/-- A core's exception stops the core and traps AUXF in its polder. The manual states neither TFASC and TENT nor TPC of
that trap: they are free (log 37). -/
def State.auxTrap (s : State) (h : Nat) : State :=
  match s.polder? h with
  | none => s
  | some p =>
    match p.halt with
    | some x => (s.setPolder { p with halt := some { x with nsec := min 255 (x.nsec + 1) } }).countSecondary p.ctx x
    | none =>
      if p.life != .running then s
      else
        let i := s.choose 900 p.fs.length
        let g := s.choose 901 4
        let pc := ((((p.fs[i]?).getD {}).r.ents[g]?).getD {}).pc
        s.setPolder { p with life := .halted, fs := p.fs.map Fascine.abandon,
                             halt := some { code := Trap.auxf.code, sub := 0, f := i, g := g,
                                            pc := pc, addr := 0, data := 0, time := s.time } }

/-- TAKING AN EXCEPTION of a core: to mtvec, with mepc, mcause, mtval and mstatus set; with mtvec = 0 the core stops. -/
def State.coreExc (s : State) (h k cause tval : Nat) : State :=
  match (s.polder? h).bind (·.core? k) with
  | none => s
  | some c =>
    if c.run ≠ 1 then s
    else if c.mtvec = 0 then (s.setCore h { c with run := 2 }).auxTrap h
    else
      let pie := if c.mstatus.getLsbD 3 then (0x1880 : Word) else 0x1800
      s.setCore h { c with mepc := c.pc, mcause := BitVec.ofNat 32 cause, mtval := BitVec.ofNat 32 tval,
                           mstatus := (c.mstatus &&& ~~~0x1888) ||| pie, pc := c.mtvec }

/-- INLET_CORE_EXCEPTION (R260): an exception of a running core. -/
def execInletCoreException (h k : Nat) (cause tval : Word) (s : State) : Host.Outcome State Fault Refusal :=
  .next (s.coreExc h k cause.toNat tval.toNat).idle

/-- One instruction of core k of polder h (R260, R261): fetched from the instruction store at pc, 16 or 32 bits. -/
def State.coreStep (s : State) (h k : Nat) : State :=
  match s.polder? h with
  | none => s
  | some p =>
    match p.core? k with
    | none => s
    | some c =>
      if c.run ≠ 1 || s.dieDown p.die then s
      else
        let pc := c.pc.toNat
        let lo := leNat (c.imem.readN pc 2)
        if 0x8000 < pc + 2 then s.coreExc h k 1 pc
        else if lo % 4 = 3 && 0x8000 < pc + 4 then s.coreExc h k 1 (pc + 2)
        else
          let r := if lo % 4 = 3 then s.rvExec p c (leNat (c.imem.readN pc 4)) 4
            else
              match rvExpand lo with
              | some i => s.rvExec p c i 2
              | none => .exc 2 lo
          match r with
          | .go s c => s.setCore h c
          | .exc e t => s.coreExc h k e t
          | .ecall => s.setCore h { c with run := 2 }
          | .stall s => s

/-- INLET_CORE_INSTRUCTION (R261). -/
def execInletCoreInstruction (h k : Nat) (s : State) : Host.Outcome State Fault Refusal := .next (s.coreStep h k).idle

/-- INLET_CORE_START (R260, R351): the image is copied to the instruction store and the core starts; a page fault of
the copy holds it (R400), and one ended without mapping leaves the core stopped (log 38). Poison of the image is not looked at (log 82). -/
def execInletCoreStart (h k : Nat) (s : State) : Host.Outcome State Fault Refusal :=
  match s.polder? h with
  | none => .next s.idle
  | some p =>
    match p.core? k, s.ctx? p.ctx with
    | some c, some x =>
      if c.run ≠ 0 then .next s.idle
      else
        match s.heldBy (.io h k) with
        | some f => .next (if f.ended then (s.setCore h { c with run := 2 }).clearFaults (.io h k) else s).idle
        | none =>
          match s.gread x p.die 0 (c.len / 32 + 2) c.img c.len with
          | .error e => .next (s.holdFault x (.io h k) e).idle
          | .ok (b, _) =>
            .next (s.setCore h { c with imem := Memory.writeN [] 0 b, run := 1, mcycle := c.mcycle - BitVec.ofNat 64 s.beat }).idle
    | _, _ => .next s.idle

/-- SLGO_WRITE (R262): a running core writes SLGO. -/
def execSlgoWrite (h k : Nat) (v : Word) (s : State) : Host.Outcome State Fault Refusal :=
  match s.polder? h with
  | none => .next s.idle
  | some p =>
    match p.core? k with
    | none => .next s.idle
    | some c =>
      match s.slgo p c v with
      | some (s, c) => .next (s.setCore h c).idle
      | none => .next s.idle

/-- SLKL_WRITE (R262): a core writes SLKL. -/
def execSlklWrite (h k : Nat) (v : Word) (s : State) : Host.Outcome State Fault Refusal := .next (s.slkl h k v).idle

/-- MBPOP_WRITE (R263): a core writes MBPOP. -/
def execMbpopWrite (h k : Nat) (s : State) : Host.Outcome State Fault Refusal :=
  match (s.polder? h).bind (·.core? k) with
  | some c => .next (s.setCore h c.pop).idle
  | none => .next s.idle

/-- TIMELO_READ (R263): a core reads TIMELO. -/
def execTimeloRead (h k : Nat) (s : State) : Host.Outcome State Fault Refusal :=
  match (s.polder? h).bind (·.core? k) with
  | some c => .next (s.setCore h (c.timelo s).2).idle
  | none => .next s.idle

end Sys2Proof.Machine
end

