-- ==== Sys2Proof/Machine/Context.lean ====
section
/-! DEFINITION. Contexts and their system domain (spec/15_context.md): delivery of traps and the return from them (R370 to
R376), CSRs (R385, R386), EVWAIT (R387), die halts and debug mode (R388 to R391). -/
namespace Sys2Proof.Machine

/-! ## Delivery of traps (R373 to R375) -/

/-- The trap record of a halted polder (R375). -/
def trapRecord (p : Polder) (x : Halt) (tself : Nat) : List Byte :=
  leBytes 8 (x.code % 32 + x.sub % 256 * 2 ^ 8 + x.f % 64 * 2 ^ 16 + x.g % 4 * 2 ^ 22 + x.nsec % 256 * 2 ^ 24 + x.pc.toNat * 2 ^ 32) ++
    leBytes 4 p.h ++ leBytes 2 p.ctx ++ leBytes 2 tself ++ leBytes 8 x.addr ++ leBytes 8 x.data ++ leBytes 8 x.time ++ leBytes 24 0

/-- The queue Q that a handler's QSIG names: the one of its target's root packet (R363). -/
def State.handle (s : State) (c : Ctx) (p : Polder) (t kobj : Nat) (head : List Byte) : State :=
  let (id, s) := s.fresh
  { s with pending := s.pending ++ [⟨id, c.c, p.uid, t, p.die, p.queue, kobj, head⟩] }

/-- TRAP_DELIVERY (R373, R374): the lowest free record is taken and written; then the handler that the vector names waits
for a core, or the host is notified: of a vector of 0, of a system-domain polder, and of a kernel object that no handler
can have. A record or vector that does not translate holds the delivery (R400). Which trap is the primary one is known
after its beat. Poison of the vector entry and of the object is not consumed (log 83). -/
def execTrapDelivery (h : Nat) (s : State) : Host.Outcome State Fault Refusal :=
  match s.polder? h with
  | none => .next s.idle
  | some p =>
    match p.halt, s.ctx? p.ctx with
    | some x, some c =>
      match x.tself, (List.range 256).find? fun i => !c.recs.any (·.1 == i) with
      | none, some t =>
        let own := Owner.trap h
        let s := match s.heldBy own with
          | some f => if f.ended then s.clearFaults own else s
          | none => s
        if x.time = s.time then .next { s with beat := s.beat + 1 }.idle
        else if (s.heldBy own).isSome then .next s.idle
        else
          let a := c.tring + 64 * t
          match s.gwrite c (pastFar p.die) 0 false 4 a (trapRecord p x t) with
          | .error e => .next (s.holdFault c own e).idle
          | .ok s1 =>
            let vec : Except PFault Nat :=
              if p.sys || c.tvec = 0 then .ok 0
              else (s1.gread c (pastFar p.die) 8 2 (c.tvec + 8 * x.code) 8).map fun b => leNat b.1
            match vec with
            | .error e => .next (s.holdFault c own e).idle
            | .ok k =>
              let s2 := (s1.setCtx { c with recs := c.recs ++ [(t, p.uid)] }).setPolder { p with halt := some { x with tself := some t } }
              let told := s2.notify 4 c.c 0 a 0
              if k = 0 ∨ k % 256 ≠ 0 ∨ !isGlobal k then .next told.idle
              else
                match s2.gread c (pastFar p.die) 16 9 k 256 with
                | .ok (b, _) => .next (if kernelBad b then told else s2.handle c p t k b).idle
                | .error e => .next (if e.cause = 0 then s else told).idle
      | _, _ => .next s.idle
    | _, _ => .next s.idle

/-- SKID_STOP (R372): a sibling of a halted polder's primary fascine stops; its stop word keeps its next slot, of a
sub-group that is free when there are several. -/
def execSkidStop (h f : Nat) (s : State) : Host.Outcome State Fault Refusal :=
  match s.polder? h, s.fasc? h f with
  | some p, some x =>
    let used := x.r.ents.filter (·.val)
    if p.halt.isNone || x.stop.stopped || used.isEmpty then .next s.idle
    else
      let pc := ((used[s.choose 5 used.length]?).getD {}).pc
      .next (s.modFasc h f fun x => { x.abandon with stop := { x.stop with stopped := true, slot := pc } }).idle
  | _, _ => .next s.idle

/-! ## TRAPRET (R376) -/

/-- Every thread of a fascine exits (R173, R376). -/
def State.leaveFasc (s : State) (h f : Nat) : State :=
  (List.range 4).foldl (fun s g =>
    match (s.fasc? h f).bind (·.r.ents[g]?) with
    | some e => if e.val then s.exitFrom h f g e.mask else s
    | none => s) s

/-- RACT as an action of the return: 3 acts as 0 (R375). -/
def actionOf (ract : Nat) : Nat := if ract = 3 then 0 else ract

/-- TRAPRET (R376): a handler that has not yet resumed its target reads its record and ends the halt as RACT says; its
fascine's threads exit. By another system-domain polder it acts as EXIT. -/
def execTrapret (s : State) : Host.Outcome State Fault Refusal :=
  issue s (fun _ => { unif := true, guard := false, priv := true, log := false }) fun v w _ =>
    match v.p.tself, v.s.ctx? v.p.ctx with
    | some t, some c =>
      let leave (s : State) : State := s.leaveFasc v.l.h v.l.f
      let target := if v.p.hdone then none else (v.s.byUid v.p.htgt).filter fun x => x.halt.isSome && x.ctx == v.p.ctx
      match target with
      | none => .nextThen w leave
      | some x =>
        if !v.quiet then .wait
        else
          match v.engGet w 0 (c.tring + 64 * t) 64 with
          | .error t => .trap t
          | .ok (r, w) =>
            let act := actionOf (field r 320 2)
            let rpc := field r 352 32
            if act = 1 && !validSlot rpc then .trap { t := .misalign, addr := rpc }
            else .nextThen { w with p := { w.p with hdone := true } } fun s => leave (s.resumePolder x.h act (BitVec.ofNat 32 rpc))
    | _, _ => .nextThen w fun s => s.exitFrom v.l.h v.l.f v.l.g v.e.running

/-! ## Queues bound and unbound (R342, R343, R385) -/

/-- A queue descriptor outside R342. -/
def queueBad (c : Nat) (d : List Byte) : Bool :=
  field d 0 12 != 0 || !isGlobal (field d 0 64) || field d 64 4 == 0 || field d 74 6 != 0 || field d 80 16 != c ||
    field d 232 24 != 0 || field d 448 64 != 0 ||
    (if flag d 72 then field d 384 8 != 0 || !isGlobal (field d 384 64) else field d 384 64 != 0)

/-- Whether a queue's descriptor cannot be reached now (R22). -/
def State.tableShut (s : State) (c q : Nat) : Bool :=
  match s.ctx? c with
  | none => false
  | some x =>
    match s.gread x atHome 0 3 (x.qtab + 64 * q) 64 with
    | .error e => e.cause == 0
    | .ok _ => false

/-- A queue bound for a context from its queue table; the answer is QBSTAT (R385): 0 OK, 1 bad descriptor, 2 second
privileged queue, 3 bound to another context. A queue that has stopped goes on from RD (R343); a first bind starts from 0. -/
def State.bindQueue (s : State) (c q : Nat) : State × Nat :=
  match s.ctx? c with
  | none => (s, 1)
  | some x =>
    let old := s.queue? q
    if (old.map (·.ctx)).getD c ≠ c then (s, 3)
    else
      match s.gread x atHome 0 3 (x.qtab + 64 * q) 64 with
      | .error _ => (s, 1)
      | .ok (d, _) =>
        if queueBad c d then (s, 1)
        else if flag d 72 && s.queues.any (fun y => y.priv && y.ctx == c && y.q != q) then (s, 2)
        else
          let y := old.getD { q := q, bind := s.nextId }
          let y := { y with ctx := c, qbase := field d 0 64, logn := field d 64 4, pmax := field d 68 3, en := flag d 71, priv := flag d 72,
                            hkobj := field d 384 64, err := false, ecode := 0,
                            st := if y.st = .unbound || y.st = .error then .idle else y.st }
          (({ s with nextId := s.nextId + 1 }.clearFaults (.packet q)).putQueue y, 0)
/-- A queue unbound: packets already PLACING run on (R343); children that have not been selected never start, and the packets that they
hang from wait for them no longer (log 20). -/
def State.unbindQueue (s : State) (c q : Nat) : State × Nat :=
  match s.queue? q with
  | none => (s, 0)
  | some y =>
    if y.ctx ≠ c then (s, 3)
    else ((y.pkt.toList ++ y.tails).foldl (fun s p => s.childDone p.parent)
      ({ s with queues := s.queues.filter (·.q != q) }.clearFaults (.packet q)), 0)
/-- QBSTAT of a context set (R385). -/
def State.setQbstat (r : State × Nat) (c : Nat) : State :=
  match r.1.ctx? c with
  | some x => r.1.setCtx { x with qbstat := r.2 }
  | none => r.1

/-- CSR_QBIND_BIND (R385). -/
def execCsrQbindBind (c q : Nat) (s : State) : Host.Outcome State Fault Refusal :=
  .next (if s.tableShut c q then s else State.setQbstat (s.bindQueue c q) c).idle
/-- CSR_QBIND_UNBIND (R385). -/
def execCsrQbindUnbind (c q : Nat) (s : State) : Host.Outcome State Fault Refusal := .next (State.setQbstat (s.unbindQueue c q) c).idle

/-! ## Quota, hold and debug control (R193, R367, R385, R388) -/

/-- A context changed, its descriptor with it; no change when it is FREE. -/
def State.modCtx (s : State) (c : Nat) (f : Ctx → Ctx) : State :=
  match s.ctx? c with
  | some x => s.putCtx (f x)
  | none => s

/-- QUOTA_WRITE (R193, R385). -/
def execQuotaWrite (c : Nat) (v : Word) (s : State) : Host.Outcome State Fault Refusal :=
  .next (s.modCtx c fun x => { x with quota := v &&& 0x01FFFFFF }).idle
/-- CTXHOLD_HOLD (R367). -/
def execCtxholdHold (c : Nat) (s : State) : Host.Outcome State Fault Refusal := .next (s.modCtx c fun x => { x with hold := true }).idle
/-- CTXHOLD_RELEASE (R367). -/
def execCtxholdRelease (c : Nat) (s : State) : Host.Outcome State Fault Refusal := .next (s.modCtx c fun x => { x with hold := false }).idle
/-- DBGCTL_WRITE (R388): for polders placed afterwards. -/
def execDbgctlWrite (c : Nat) (v : Word) (s : State) : Host.Outcome State Fault Refusal :=
  .next (s.modCtx c fun x => { x with dbg := v.toNat % 8 }).idle

/-- What a stop does at once (R377, R337, R157): an uncompleted round is abandoned, and threads of the march unit end. -/
def State.stopPolder (s : State) (h : Nat) : State :=
  let s := s.modPolder h fun p => { p with fs := p.fs.map fun (f : Fascine) =>
    { f with r := { f.r with ents := f.r.ents.map fun (e : SplitEntry) =>
        { e with hold := if e.inRound then .none else e.hold, elig := false, waited := true, urgent := false } } } }
  (s.walks.filter (·.iss.h == h)).foldl (fun s w => match s.walk? w.id with
    | some w => s.endWalk w 1
    | none => s) s

/-- The physical dies that a mask of virtual dies names. -/
def Ctx.named (c : Ctx) (mask : Nat) : List Nat := ((List.range 4).filter (bit mask)).filterMap c.pdie

/-- Dies halted for a context: with HDOM, a halt of any halts all (R388). -/
def State.haltDies (s : State) (c mask : Nat) : State :=
  match s.ctx? c with
  | none => s
  | some x =>
    let ds := if bit x.dbg 1 && !(x.named mask).isEmpty then x.dies else x.named mask
    let s := s.setCtx { x with halted := (x.halted ++ ds).eraseDups }
    (s.polders.filter fun p => p.ctx == c && ds.contains p.die).foldl (fun s p =>
      (s.stopPolder p.h).modPolder p.h (·.setDieHalt true)) s
/-- Dies resumed for a context (R388). -/
def State.resumeDies (s : State) (c mask : Nat) : State :=
  match s.ctx? c with
  | none => s
  | some x =>
    let ds := x.named mask
    { s.setCtx { x with halted := x.halted.filter fun d => !ds.contains d } with
      polders := s.polders.map fun (p : Polder) =>
        if p.ctx == c && ds.contains p.die then p.setDieHalt false else p }

/-- DBGHALT_HALT (R388). -/
def execDbghaltHalt (c mask : Nat) (s : State) : Host.Outcome State Fault Refusal := .next (s.haltDies c mask).idle
/-- DBGHALT_RESUME (R388). -/
def execDbghaltResume (c mask : Nat) (s : State) : Host.Outcome State Fault Refusal := .next (s.resumeDies c mask).idle

/-! ## CSRR and CSRW (R385, R386) -/

/-- A CSR as the issuer reads it; none: no such number. -/
def V.csr (v : V) (n : Nat) : Option Word :=
  let c := (v.s.ctx? v.p.ctx).getD { c := v.p.ctx }
  let w (x : Nat) : Word := BitVec.ofNat 32 x
  match n with
  | 0x00 => some (w v.p.ctx)
  | 0x01 => some (if v.p.sys then 1 else 0)
  | 0x02 => some c.vdtw
  | 0x03 => some c.quota
  | 0x04 => some (w c.asid)
  | 0x05 => some (w (v.s.gen c.asid))
  | 0x06 => some (w (c.evc.getD 0 0))
  | 0x07 => some (w (c.evc.getD 1 0))
  | 0x08 => some (w (c.evc.getD 2 0))
  | 0x09 => some (match v.p.tself with
    | some t => w t
    | none => ~~~0)
  | 0x10 => some (if c.hold then 1 else 0)
  | 0x11 => some 0
  | 0x12 => some (w c.qbstat)
  | 0x20 => some (w c.dbg)
  | 0x21 => some 0
  | 0x22 => some (w v.f.undoCnt)
  | _ => none

/-- The CSRs that can be written: all of them are privileged. -/
def csrWritable : List Nat := [0x03, 0x10, 0x11, 0x20, 0x21]
/-- The bits of a CSR that are reserved, as a mask. -/
def csrReserved : Nat → Nat
  | 0x03 => 0xFE000000
  | 0x10 => 0xFFFFFFFE
  | 0x11 => 0x7FFF8000
  | 0x20 => 0xFFFFFFF8
  | _ => 0xFFFFFF00

/-- The effect of a CSR write on the issuer's context. -/
def State.writeCsr (s : State) (c n : Nat) (x : Word) : State :=
  match n with
  | 0x03 => s.modCtx c fun y => { y with quota := x &&& 0x01FFFFFF }
  | 0x10 => s.modCtx c fun y => { y with hold := x.getLsbD 0 }
  | 0x11 =>
    let q := x.toNat % 2 ^ 15
    State.setQbstat (if x.getLsbD 31 then s.unbindQueue c q else s.bindQueue c q) c
  | 0x20 => s.modCtx c fun y => { y with dbg := x.toNat % 8 }
  | _ => (s.haltDies c (x.toNat % 16)).resumeDies c (x.toNat / 16 % 16)

/-- CSRR (R386). -/
def execCsrr (a : Opnd) (i : BitVec 16) (s : State) : Host.Outcome State Fault Refusal :=
  let d (v : V) : Desc := { a := .d a, b := .lit (v.csr i.toNat).isSome, unif := true }
  issue s d fun v w act => v.result w (d v) a act fun _ => (v.csr i.toNat).getD 0

/-- CSRW (R386). -/
def execCsrw (a : Opnd) (i : BitVec 16) (s : State) : Host.Outcome State Fault Refusal :=
  issue s (fun _ => { a := .u a, b := .lit (csrWritable.contains i.toNat), unif := true, priv := csrWritable.contains i.toNat, log := false })
    fun v w act =>
      let x := v.rd a (lowest act)
      if x.toNat &&& csrReserved i.toNat != 0 then .trap { t := .illopnd }
      else if i.toNat = 0x11 && !x.getLsbD 31 && v.s.tableShut v.p.ctx (x.toNat % 2 ^ 15) then .wait
      else .nextThen w fun s => s.writeCsr v.p.ctx i.toNat x

/-! ## EVWAIT (R387) -/

/-- An event count of a context: class 0 is the sum. -/
def Ctx.count (c : Ctx) (k : Nat) : Word :=
  if k = 0 then BitVec.ofNat 32 (c.evc.getD 0 0 + c.evc.getD 1 0 + c.evc.getD 2 0) else BitVec.ofNat 32 (c.evc.getD (k - 1) 0)

/-- EVWAIT (R387). -/
def execEvwait (a : Opnd) (k : BitVec 2) (s : State) : Host.Outcome State Fault Refusal :=
  let d : Desc := { a := .d a, unif := true }
  issue s (fun _ => d) fun v w act =>
    let n := ((v.s.ctx? v.p.ctx).getD { c := v.p.ctx }).count k.toNat
    if n = v.f.snaps.getD k.toNat 0 then .wait
    else
      let w := { w with f := { w.f with snaps := setAt w.f.snaps k.toNat n } }.acquire 6
      v.result w d a act fun _ => n

/-! ## Debug log and undo (R389 to R391) -/

/-- The polder that an issuing trap handler serves, when it is HALTED. -/
def V.dbgTarget (v : V) : Option Polder :=
  match v.p.tself with
  | none => none
  | some _ => (v.s.byUid v.p.htgt).filter fun x => x.halt.isSome && x.ctx == v.p.ctx
/-- The undo target: a fascine of that polder. -/
def V.undoFasc (v : V) : Option (Polder × Nat × Fascine) :=
  match v.dbgTarget, v.f.undoTgt with
  | some p, some i => (p.fs[i]?).map fun f => (p, i, f)
  | _, _ => none

/-- DBGLOG op 0 (R390): the undo target of the issuing fascine is selected. -/
def execDbglogSelect (b : Opnd) (s : State) : Host.Outcome State Fault Refusal :=
  issue s (fun v => { b := .u b, c := .lit v.dbgTarget.isSome, unif := true, priv := true, log := false }) fun v w act =>
    .next { w with f := { w.f with undoTgt := some ((v.rd b (lowest act) 1).toNat % 64) } }

/-- DBGLOG op 1 (R390): the log of the undo target is discarded. -/
def execDbglogDiscard (b : Opnd) (s : State) : Host.Outcome State Fault Refusal :=
  issue s (fun v => { b := .u b, c := .lit v.dbgTarget.isSome, unif := true, priv := true, log := false }) fun v w _ =>
    match v.undoFasc with
    | none => .next w
    | some (p, i, _) => .nextThen w fun s => s.modFasc p.h i fun f => { f with log := [] }

/-- DBGLOG op 2 (R390): a record in the context's debug log. -/
def execDbglogWrite (b : Opnd) (s : State) : Host.Outcome State Fault Refusal :=
  issue s (fun _ => { b := .u b, unif := true, priv := true, log := false }) fun v w act =>
    match v.s.ctx? v.p.ctx with
    | none => .next w
    | some c =>
      if c.dlogn = 0 then .next w else
      let a := c.dlog + 16 * (c.dlogw % c.dlogn)
      let r := wordBytes (v.rd b (lowest act) 1) ++ leBytes 4 v.p.h ++ leBytes 8 v.s.time
      match w.s.gwrite c atHome 0 false 2 a r with
      | .error e => if e.cause = 0 then .wait else .trap (pageTrap a e false)
      | .ok s => .next { w with s := s.setCtx { c with dlogw := c.dlogw + 1 } }

/-- Split-table entries as an undone step leaves them: its own sub-group's, and those that it changed, go back. -/
def undoEnts (u : UndoStep) (now : List SplitEntry) : List SplitEntry :=
  now.zipIdx.map fun (e, g) =>
    let o := u.regs.ents.getD g {}
    if g = u.g || splitPart o != splitPart e then
      { { e with mask := o.mask, park := o.park, rpc := o.rpc, rjf := o.rjf, wj := o.wj, val := o.val, mode := o.mode, hold := .none }.goto
          (if g = u.g then u.pc else o.pc) true with arrived := o.wj }
    else e

/-- The registers of a fascine with what a step wrote put back (R391): each register and predicate that it wrote, with its binding; the
threads that exited in it hold their names again; all of them, when the step was a REGROUP. -/
def UndoStep.back (u : UndoStep) (r : Regs) : Regs :=
  let r := if u.whole then { u.regs with ents := r.ents, s := r.s, spois := r.spois } else r
  let r := if !u.exits then r
    else u.regs.vb.foldl (fun (r : Regs) b =>
      { r with vb := insertKey VBind.name (match r.bind? b.name with
        | some x => { x with live := x.live ||| b.live }
        | none => b) r.vb }) r
  u.keys.foldl (fun (r : Regs) k =>
    if k < 160 then
      match u.regs.bind? k with
      | some b => { r with vb := insertKey VBind.name b r.vb }
      | none => { r with vb := r.vb.filter (·.name != k) }
    else if k < 208 then { r with s := setAt r.s (k - 160) (u.regs.s.getD (k - 160) 0), spois := setAt r.spois (k - 160) (u.regs.spois.getD (k - 160) false) }
    else if k < 256 then r
    else r.writeP (k - 256) 0xFFFF (u.regs.pred (k - 256))) r

/-- One step of a fascine undone (R391): the registers it wrote, the split table, the b-registers and the bytes it overwrote; a chain
that is the step goes. -/
def State.undoStep (s : State) (h i : Nat) (u : UndoStep) (rest : List UndoStep) : State :=
  match s.polder? h, s.fasc? h i with
  | some p, some f =>
    let ents := undoEnts u f.r.ents
    let back := f.retired && ents.any (·.val)
    let p := p.modF i fun f =>
      { f with r := { u.back f.r with ents := ents, exmask := ~~~(ents.foldl (fun m (e : SplitEntry) => if e.val then m ||| e.mask else m) 0),
                                      hmask := if u.exits || u.whole then u.regs.hmask else f.r.hmask },
               log := rest, retired := f.retired && !ents.any (·.val), chains := f.chains.filter fun c => some c.id != u.chain }
    let p := u.breg.foldl (fun (p : Polder) x =>
      { p with breg := setAt p.breg x.1 (x.2.1 :: p.breg.getD x.1 []), bpois := setAt p.bpois x.1 x.2.2 }) p
    let p := u.smem.foldl (fun p x => p.spWrite x.1 [x.2] false) p
    let p := if back then p.autoBars 0 1 else p
    let s := s.setPolder p
    let s := if back then s.ringBars p 0 1 else s
    u.dmem.foldl (fun s x => s.writeGlob p x.1 x.2.1 [x.2.2]) s
  | _, _ => s

/-- The last n steps of a fascine undone, up to a wall or the end of its log: the state, and how many. -/
def State.undoSteps (s : State) (h i : Nat) : Nat → State × Nat
  | 0 => (s, 0)
  | n + 1 =>
    match (s.fasc? h i).map (·.log) with
    | some (u :: rest) =>
      if u.wall then (s, 0)
      else
        let (s, k) := State.undoSteps (s.undoStep h i u rest) h i n
        (s, k + 1)
    | _ => (s, 0)

/-- UNDO (R391): the target must be HALTED and in debug mode; accesses of its steps that are still to be performed are
waited for. -/
def execUndo (n : BitVec 8) (s : State) : Host.Outcome State Fault Refusal :=
  issue s (fun v => { a := .lit (n != 0), b := .lit ((v.undoFasc.map fun x => x.1.debug).getD false), unif := true, priv := true, log := false })
    fun v w _ =>
      match v.undoFasc with
      | none => .next w
      | some (p, i, f) =>
        if (f.log.take n.toNat).any (fun u => match u.op with
            | some o => f.ops.any (·.id == o)
            | none => false) then .wait
        else
          let k := (v.s.undoSteps p.h i n.toNat).2
          .nextThen { w with f := { w.f with undoCnt := k } } fun s => (s.undoSteps p.h i n.toNat).1

end Sys2Proof.Machine
end

