-- ==== Sys2Proof/Machine/SaveImage.lean ====
section
/-! DEFINITION. Saving and restoring a polder (spec/15_context.md R377 to R384, R433; spec/04_chain.md R119 to R122): the
image's records, SAVEC, RESTC and the steps that end them. What an image does not hold, the device keeps beside it (log 21). -/
namespace Sys2Proof.Machine

/-! ## Chain records (R119 to R122) -/

/-- The member that an instruction is. -/
def memberOf : Instr → Option MIns
  | .add a b c => some { op := .add, a := a, b := some b, c := some c }
  | .sub a b c => some { op := .sub, a := a, b := some b, c := some c }
  | .mul a b c => some { op := .mul, a := a, b := some b, c := some c }
  | .mad a b c => some { op := .mad, a := a, rdA := true, b := some b, c := some c }
  | .msb a b c => some { op := .msb, a := a, rdA := true, b := some b, c := some c }
  | .nmad a b c => some { op := .nmad, a := a, rdA := true, b := some b, c := some c }
  | .nmsb a b c => some { op := .nmsb, a := a, rdA := true, b := some b, c := some c }
  | .min a b c => some { op := .min, a := a, b := some b, c := some c }
  | .max a b c => some { op := .max, a := a, b := some b, c := some c }
  | .abs a b => some { op := .abs, a := a, b := some b }
  | .neg a b => some { op := .neg, a := a, b := some b }
  | .div a b c => some { op := .div, a := a, b := some b, c := some c }
  | .sqrt a b => some { op := .sqrt, a := a, b := some b }
  | .rcp a b => some { op := .rcp, a := a, b := some b }
  | .rsq a b => some { op := .rsq, a := a, b := some b }
  | .exp2 a b => some { op := .exp2, a := a, b := some b }
  | .log2 a b => some { op := .log2, a := a, b := some b }
  | .sin a b => some { op := .sin, a := a, b := some b }
  | .cos a b => some { op := .cos, a := a, b := some b }
  | .dot2 a b c => some { op := .dot2, a := a, rdA := true, b := some b, c := some c }
  | .dot4 a b c => some { op := .dot4, a := a, rdA := true, b := some b, c := some c }
  | .lerp a b c => some { op := .lerp, a := a, rdA := true, b := some b, c := some c }
  | .clamp a b c => some { op := .clamp, a := a, rdA := true, b := some b, c := some c }
  | .frac a b => some { op := .frac, a := a, b := some b }
  | .roundi a b => some { op := .roundi, a := a, b := some b }
  | .sat a b => some { op := .sat, a := a, b := some b }
  | .scale a b c => some { op := .scale, a := a, b := some b, c := some c }
  | .cmps a b c => some { op := .cmps, a := a, b := some b, c := some c }
  | .sel a b c => some { op := .sel, a := a, b := some b, c := some c }
  | .classT a b => some { op := .class, a := a, b := some b }
  | .cvt a b t => some { op := .cvt, a := a, b := some b, src := t.toNat }
  | .cmp k b c => some { op := .cmp, p := some k.p, cond := k.cond, comb := k.comb, b := some b, c := some c }
  | .chdec k b c => some { op := .dec, p := some k.p, cond := k.cond, comb := k.comb, b := some b, c := some c }
  | .chclose a => some { op := .close, a := a, b := some .ch }
  | .chcancel p => some { op := .cancel, q := some p }
  | _ => none

/-- A member's instruction. -/
def Member.ins (m : Member) : MIns := (memberOf (decode m.word)).getD { op := .add }
/-- Whether a member reads `ch`. -/
def MIns.readsCh (i : MIns) : Bool := i.b == some .ch || i.c == some .ch
/-- Whether an element type's stream has more elements than a record holds (R122). -/
def wideStream (T : Nat) : Bool := T == 9 || T == 10

/-- A stream value with its sticky bit as a CHIN element word (R121). -/
def chinWord (x : Fv) (stk : Bool) : Nat :=
  (if stk then 1 else 0) + match x with
  | .nan s => 3 * 2 ^ 62 + (if s then 2 ^ 61 else 0)
  | .inf s => 2 * 2 ^ 62 + (if s then 2 ^ 61 else 0)
  | .zero s k => 2 ^ 62 + (if s then 2 ^ 61 else 0) + (if k && !stk then 1 else 0)
  | .fin q =>
    let e := q.log2
    (if q.num < 0 then 2 ^ 61 else 0) + wrap 13 e * 2 ^ 48 + (q.abs.mul (Q.pow2 (39 - e))).floor.toNat % 2 ^ 40 * 2 ^ 8
/-- The value of a CHIN element word. -/
def chinValue (w : Nat) : Fv :=
  let s := bit w 61
  match bits w 62 2 with
  | 0 =>
    let n : Int := bits w 8 40
    if n = 0 then .zero s (bit w 0)
    else .fin ((Q.int (if s then -n else n)).mul (Q.pow2 (signed 13 (bits w 48 13) - 39)))
  | 1 => .zero s (bit w 0)
  | 2 => .inf s
  | _ => .nan s

/-- What thread t of a member's stream is as CHIN0 and CHIN1. -/
def Member.chin (m : Member) (T t : Nat) : List Byte :=
  if isIntT T || T = 11 then leBytes 16 (m.outI.getD t 0).toNat
  else
    let el (j : Nat) : Nat := chinWord (((m.out[t]?).getD []).getD j (.zero false false)) (((m.stky[t]?).getD []).getD j false)
    leBytes 8 (el 0) ++ leBytes 8 (if T = 6 then 0 else el 1)

/-- Whether a chain runs again from its start after a restore (R104, R122). -/
def Chain.guarded (c : Chain) : Bool := modeTen c.mode != 0
/-- Whether thread t of member k is cancelled: it follows a CHDEC that did not hold (R116), or a token stopped it (R101). -/
def Chain.cancelled (c : Chain) (k t : Nat) : Bool :=
  match c.mems[k]? with
  | none => false
  | some m =>
    (m.ins.op == .close && decide (1 ≤ k) && (match c.mems[k - 1]? with
      | some d => d.ins.op == .dec && !d.cond.getLsbD t
      | none => false)) ||
    (c.tokens.getLsbD t && (match c.mems.findIdx? Member.sender with
      | some d => decide (k < d) && ((c.mems.take d).drop k).all Member.stops
      | none => false))

/-- TSTAT of thread t, the chain's j-th, in member k at the sample, from when the thread may have started and ended each member (R97,
R120; free, log 11): of a later thread later, never past what a decision taken, a token or an exit says, and the chain is not over. -/
def Chain.status (c : Chain) (s : State) (j t k : Nat) : Nat :=
  let tag (n : Nat) : Nat := 2 ^ 39 + 2 ^ 12 * c.id + n
  let late := (List.range j).foldl (fun n i => n + s.choose (tag i) (c.ran + 1)) 0
  let start (n : Nat) : Nat := 1 + j * (if c.hurried then 1 else c.occ) + late + ((c.mems.take n).map (·.delay)).foldl (· + ·) 0
  let ends (n : Nat) : Nat := start n + 1 + s.choose (tag (64 * n + 16 + j)) (((c.mems[n]?).map (·.delay)).getD 0 + 4)
  if c.guarded then 0
  else if c.gone.getLsbD t || c.cancelled k t then 3
  else if ((List.range (k + 1)).all fun n => decide (ends n ≤ c.ran)) && !(c.st == 2 && j + 1 == c.lanes.length && k + 1 == c.mems.length) then 2
  else if start k ≤ c.ran || (c.mems.drop k).any (·.decided.getLsbD t) then 1 else 0
/-- The chain with TSTAT of every thread of every member at the sample. -/
def Chain.sample (c : Chain) (s : State) : Chain :=
  let lane (t : Nat) : Nat := if c.unif && !c.gone.getLsbD t then c.lanes.headD 0 else t
  let stat (k t : Nat) : Nat := if c.amask.getLsbD t then c.status s ((c.lanes.findIdx? (· == lane t)).getD 0) (lane t) k else 0
  { c with mems := c.mems.zipIdx.map fun (x : Member × Nat) => { x.1 with stat := (List.range 16).map (stat x.2) } }
/-- Whether member k has made its write for thread t by the sample: it is DONE, or a CHDEC that has decided (R100, R120). -/
def Chain.made (c : Chain) (k t : Nat) : Bool :=
  match c.mems[k]? with
  | none => false
  | some m => m.stat.getD t 0 == 2 || (m.ins.op == .dec && m.decided.getLsbD t)

/-- Entry (k, t) of a chain's record (R120, R122). -/
def Chain.entry (c : Chain) (k t : Nat) : List Byte :=
  match c.mems[k]? with
  | none => List.replicate 64 0
  | some m =>
    if !c.amask.getLsbD t then List.replicate 64 0
    else
      let T := etype c.mode
      let dec := !c.guarded && m.ins.op == .dec && c.made k t
      let before := (c.mems.take k).getLast?
      let chv := !c.guarded && m.ins.readsCh && !wideStream T && (before.map fun q => q.stat.getD t 0 == 2).getD false
      let h := m.stat.getD t 0 + (if dec then 4 else 0) + (if dec && m.cond.getLsbD t then 8 else 0) + (if chv then 16 else 0) +
        (m.pois.getD t 0) % 8 * 64
      leBytes 4 h ++ wordBytes (m.opa.getD t 0) ++ wordBytes (m.opb.getD t 0) ++ wordBytes (m.opc.getD t 0) ++
        (if chv then (before.map fun q => q.chin T t).getD (leBytes 16 0) else leBytes 16 0) ++ leBytes 32 0

/-- The exceptions that a record names: those of entries that are DONE, or that a token stopped (R102), and those of their streams when a
member follows. -/
def Chain.savedExc (c : Chain) : Nat :=
  if c.guarded then 0
  else (c.mems.zipIdx.foldl (fun a x => (threadsOf c.live).foldl (fun (a : BitVec 5) t =>
    if x.1.stat.getD t 0 < 2 then a
    else a ||| x.1.exc.getD t 0 ||| (if x.2 + 1 < c.mems.length then x.1.sexc.getD t 0 else 0)) a) c.exc).toNat

/-- The record of a chain of fascine i (R119). `stg` is its first stage less 1. -/
def Chain.record (c : Chain) (i stg : Nat) : List Byte :=
  leBytes 4 (1 * 2 ^ 28 + 1 * 2 ^ 24 + c.st % 8 * 2 ^ 21 + c.mems.length % 8 * 2 ^ 18 + c.nopen % 8 * 2 ^ 15 + stg % 4 * 2 ^ 13 +
      (if c.unif then 2 ^ 12 else 0) + c.g % 4 * 2 ^ 10 + i % 8 * 2 ^ 7) ++
    leBytes 4 c.mode.toNat ++ leBytes 4 c.amask.toNat ++ leBytes 4 c.savedExc ++
    ((List.range 4).flatMap fun k => wordBytes (((c.mems[k]?).map (·.word)).getD 0)) ++ wordBytes c.pc1 ++
    wordBytes Config.chainImplTag ++ leBytes 24 0 ++
    (List.range 64).flatMap fun n => c.entry (n / 16) (n % 16)

/-- The last place that a chain's first stage may take less 1: an implicit chain starts at stage 1, and an explicit one where its
declared length fits (R91). -/
def Chain.lastStart (c : Chain) : Nat := if c.nopen = 0 then 0 else 4 - c.nopen

/-- Whether a record is that of a chain whose CHIN is a plain word, with no reserved bits among those of the word (R121). -/
def chainInt (r : List Byte) : Bool :=
  let T := etype (BitVec.ofNat 24 (field r 32 24))
  isIntT T || T == 11
/-- Whether RESTC rejects a chain record (R122). -/
def chainBad (r : List Byte) : Bool :=
  field r 28 4 != 1 || field r 24 4 != 1 || 2 < field r 21 3 || field r 0 7 != 0 || field r 56 8 != 0 || field r 80 16 != 0 ||
    field r 101 27 != 0 || field r 320 192 != 0 || (List.range 64).any fun n => field r (512 * (n + 1) + 9) 23 != 0 ||
      field r (512 * (n + 1) + 129) 7 != 0 && !chainInt r || field r (512 * (n + 1) + 193) 7 != 0

/-- A member computed anew for thread t from its entry of a record and the stream of the member before (R122). -/
def Member.redo (m : Member) (c : Chain) (prev : Option Member) (p : Polder) (i t draw : Nat) (e : List Byte) : MOut :=
  let x := m.ins
  let T := etype c.mode
  let f := (p.fs[i]?).getD {}
  let pr (q : Pred) : Bool := (q.idx.val == 7 || ((f.r.preds.getD t 0).getLsbD q.idx.val)) != q.neg
  let stream : MSrc :=
    if flag e 4 then
      if isIntT T || T = 11 then .str [] (BitVec.ofNat 32 (field e 128 32))
      else .str (chinValue (field e 128 64) :: (if T = 6 then [] else [chinValue (field e 192 64)])) 0
    else match prev with
      | some q => .str ((q.out[t]?).getD []) (q.outI.getD t 0)
      | none => .word 0
  let src (o : Option Opnd) (w : Word) : MSrc := if o = some .ch then stream else .word w
  let book := match p.ranks[i / 8]? with
    | some (k, _) => ((p.engines.find? (·.part == k)).map fun n => n.books.getD 0 []).getD []
    | none => []
  let sel := pr (guardOf c.mode)
  let o := x.compute { mode := c.mode, write := x.p.isNone && x.q.isNone && x.a != .zero, draw := draw } book sel
    (match x.q with
     | some q => pr q
     | none => false) (wordAt e 4) (src x.b (wordAt e 8)) (src x.c (wordAt e 12))
  let stk := if flag e 4 then [flag e 128, flag e 192] else (prev.map fun q => (q.stky[t]?).getD []).getD []
  if x.op = .dec ∧ x.b = some .ch ∨ x.op = .sel ∧ (if sel then x.b else x.c) = some .ch then { o with stk := stk } else o

/-- Entry (k, t) of a record's bytes. -/
def chainEnt (r : List Byte) (k t : Nat) : List Byte := (r.drop (64 * (1 + 16 * k + t))).take 64
/-- Whether thread t runs member k after a restore: it is in WAIT or RUN, or it is DONE and a member after it that reads its stream, and
runs, has no CHIN (R122). `n` bounds the members that follow. -/
def Chain.reruns (c : Chain) (r : List Byte) (t : Nat) : Nat → Nat → Bool
  | 0, _ => false
  | n + 1, k =>
    decide (k < c.mems.length) && c.live.getLsbD t && (decide (field (chainEnt r k t) 0 2 < 2) ||
      (field (chainEnt r k t) 0 2 == 2 && ((c.mems[k + 1]?).map fun m => m.ins.readsCh).getD false && !flag (chainEnt r (k + 1) t) 4 &&
        c.reruns r t n (k + 1)))

/-- A write of member k of a chain made again for threads `m` after a restore, with what it finds kept for a later sample. -/
def Polder.rewrite (p : Polder) (i : Nat) (c : Chain) (k key : Nat) (m : Mask) (words : Nat → Word) : Polder :=
  if m = 0 then p
  else
    let f := (p.fs[i]?).getD {}
    let h : Hazard :=
      { key := key, mask := if perThreadKey key then m else 0xFFFF, left := 0, g := c.g, chain := some (c.id, k),
        old := if key < 160 then (List.range 16).map (f.r.vword key)
          else if key < 208 then [f.r.s.getD (key - 160) 0]
          else if key < 256 then [bvalue (p.breg.getD (key - 208) []) 0]
          else (List.range 16).map fun t => if f.r.pred (key - 256) t then 1 else 0,
        pois := if key < 160 then maskOf (f.r.vpois key)
          else if (if key < 208 then f.r.spois.getD (key - 160) false else key < 256 && p.bpois.getD (key - 208) false) then 0xFFFF else 0,
        fresh := decide (key < 160) && (f.r.bind? key).isNone, pos := (p.breg.getD (key - 208) []).length }
    (p.putKey i c.g key m words).modF i fun f => { f with haz := h :: f.haz }

/-- Member k of a chain after a restore from its record (R122). What was edited, and what reads an edited member's stream, is computed
anew; a thread that runs again makes its write, where no later write of the register had been made, and signals what it meets: what the
others signalled is in the record's EXC. `hz` are the writes of the fascine at the sample. Answers whether such a thread consumes poison. -/
def Polder.restoreMember (p : Polder) (i : Nat) (c : Chain) (hz : List Hazard) (done : List (Member × Mask)) (draw : Nat) (r : List Byte)
    (m : Member) : Polder × (Member × Mask) × Bool :=
  let k := done.length
  let x := m.ins
  let prev := done.getLast?
  let ent (t : Nat) : List Byte := chainEnt r k t
  let old (t : Nat) : List Byte := c.entry k t
  let redo (t : Nat) : Bool := c.amask.getLsbD t &&
    (((ent t).drop 4).take 12 != ((old t).drop 4).take 12 || (x.readsCh &&
      (if flag (ent t) 4 then ((ent t).drop 16).take 16 != ((old t).drop 16).take 16 else (prev.map (·.2.getLsbD t)).getD false)))
  let again (t : Nat) : Bool := c.reruns r t 4 k
  let fst (t : Nat) : Bool := again t && decide (field (ent t) 0 2 < 2)
  let out (t : Nat) : MOut := m.redo c (prev.map (·.1)) p i t (draw + t + 16 * k) (ent t)
  let keep {α : Type} (l : List α) (d : α) (f : Nat → α) : List α := (List.range 16).map fun t => if redo t then f t else l.getD t d
  let decv (t : Nat) : Bool := x.op == .dec && flag (ent t) 2
  let cond (t : Nat) : Bool := if decv t then flag (ent t) 3 else if redo t then (out t).cond else m.cond.getLsbD t
  let h := hz.find? fun (h : Hazard) => h.chain == some (c.id, k)
  let was (q : Nat) (t : Nat) : Bool :=
    if decv t && flag (old t) 2 then ((h.map Hazard.old).getD []).getD t 0 != 0 else (((p.fs[i]?).getD {}).r.preds.getD t 0).getLsbD q
  let val (t : Nat) : Word := match x.p with
    | some q => if combine x.comb (q.val == 7 || was q.val t) (cond t) then 1 else 0
    | none => if redo t then (out t).word else m.res.getD t 0
  let key := match x.p with
    | some q => 256 + q.val
    | none => x.a.code
  let shut (t : Nat) : Bool := x.op == .close && (prev.map fun q => q.1.ins.op == .dec && !q.1.cond.getLsbD t).getD false
  let kept {α : Type} (l : List α) (d z : α) (f : MOut → α) (on : Nat → Bool) : List α :=
    (List.range 16).map fun t => if !on t then z else if redo t then f (out t) else l.getD t d
  let m' : Member :=
    { m with opa := keep m.opa 0 fun t => wordAt (ent t) 4, opb := keep m.opb 0 fun t => wordAt (ent t) 8,
             opc := keep m.opc 0 fun t => wordAt (ent t) 12, pois := (List.range 16).map fun t => field (ent t) 6 3,
             out := keep m.out [] fun t => (out t).out, stky := keep m.stky [] fun t => (out t).stk, outI := keep m.outI 0 fun t => (out t).outI,
             exc := kept m.exc 0 0 (·.exc) fun t => c.guarded || fst t,
             sexc := kept m.sexc 0 0 (·.sexc) fun t => c.guarded || fst t || c.mems.length ≤ k + 1,
             cond := maskOf cond, decided := maskOf decv, res := (List.range 16).map val,
             writes := m.writes.map fun (w : Held) => { w with words := keep w.words 0 val } }
  let pois := (List.range 16).any fun t => fst t && field (ent t) 6 3 != 0
  let writes (t : Nat) : Bool := !shut t && (h.map fun (x : Hazard) => x.mask.getLsbD t && !x.past).getD false &&
    (if decv t && flag (old t) 2 then flag (ent t) 3 != flag (old t) 3 else again t || decv t)
  (if c.guarded then p else p.rewrite i c k key (maskOf writes) val, (m', maskOf redo), pois)

/-- A chain put back into fascine i from its record. -/
def Polder.restoreChain (p : Polder) (i : Nat) (c : Chain) (hz : List Hazard) (draw : Nat) (r : List Byte) : Polder × Bool :=
  let (p, ms, q) := c.mems.foldl (fun (a : Polder × List (Member × Mask) × Bool) m =>
    let (p, m, q) := a.1.restoreMember i c hz a.2.1 draw r m
    (p, a.2.1 ++ [m], a.2.2 || q)) (p, [], false)
  let c := { c with mems := ms.map (·.1), exc := BitVec.ofNat 5 (field r 96 5), tokens := if c.guarded then 0 else c.tokens,
                    left := ((c.mems.getLast?.bind fun m => opOfWord m.word).map (·.delay + 4)).getD 0,
                    ran := if c.guarded then 0 else c.ran }
  (p.modF i fun f => { f with chains := f.chains ++ [c] }, q)

/-! ## Fascine records and vector entries (R158, R380, R381) -/

/-- A split-table entry as its 16 bytes (R158). -/
def SplitEntry.bytes (e : SplitEntry) : List Byte :=
  wordBytes e.pc ++ leBytes 2 e.mask.toNat ++ leBytes 2 e.park.toNat ++ wordBytes e.rpc ++
    leBytes 1 ((if e.rjf then 1 else 0) + (if e.wj then 2 else 0) + (if e.val then 4 else 0)) ++ leBytes 3 e.mode.toNat
/-- An entry from its 16 bytes, as it stands after a restore (R28, R216). -/
def SplitEntry.ofBytes (r : List Byte) (sleep now : Nat) : SplitEntry :=
  { pc := wordAt r 0, mask := BitVec.ofNat 16 (field r 32 16), park := BitVec.ofNat 16 (field r 48 16), rpc := wordAt r 8,
    rjf := flag r 96, wj := flag r 97, val := flag r 98, mode := BitVec.ofNat 24 (field r 104 24),
    sleep := if sleep = 0 then 0 else sleep + 1,
    entry := true, arrived := flag r 97, since := now }

/-- The stop word (R380). -/
def StopWord.bytes (w : StopWord) : List Byte :=
  leBytes 4 (w.skid % 16 + w.code % 32 * 16 + (if w.primary then 512 else 0) + (if w.dieHalt then 1024 else 0)) ++ wordBytes w.slot

/-- The bytes of a fascine's record (R380): a retired one's counts are 0. -/
def Fascine.record (f : Fascine) : List Byte :=
  let sl (k : Nat) : List Byte := leBytes 4 (if f.retired then 0 else (((f.r.ents[k]?).getD {}).sleep - 1) % 2 ^ 24)
  ((List.range 4).flatMap fun k => ((f.r.ents[k]?).getD {}).bytes) ++ f.stop.bytes ++ leBytes 8 0 ++
    leBytes 2 f.r.exmask.toNat ++ leBytes 2 f.r.hmask.toNat ++
    ((List.range 16).flatMap fun t => leBytes 1 ((f.r.preds.getD t 0).toNat % 128 + if f.r.ppois.getLsbD t then 128 else 0)) ++
    leBytes 4 f.exc.toNat ++ ((List.range 4).flatMap fun k => leBytes 4 (if f.retired then 0 else f.cnt.getD k 0)) ++
    leBytes 1 f.tok.toNat ++ leBytes 1 f.chains.length ++ leBytes 2 f.r.vb.length ++ sl 0 ++
    ((List.range 8).flatMap fun k => wordBytes ((f.ts.getD k 0 &&& ~~~1) ||| if f.tok.getLsbD k then 1 else 0)) ++ ((List.range 4).flatMap fun k => wordBytes (f.chstat.getD k 0)) ++
    ((List.range 4).flatMap fun k => wordBytes (f.snaps.getD k 0)) ++ ((List.range 48).flatMap fun k => wordBytes (f.r.s.getD k 0)) ++
    leBytes 6 ((List.range 48).foldl (fun a k => a + if f.r.spois.getD k false then 2 ^ k else 0) 0) ++ leBytes 2 0 ++
    sl 1 ++ sl 2 ++ sl 3 ++ leBytes 108 0 ++
    ((List.range 64).flatMap fun b =>
      let w := f.wrec.getD b {}
      leBytes 4 (w.snap % 65536 + (if w.wv then 65536 else 0) + (if w.sw then 131072 else 0))) ++ leBytes 256 0

/-- Whether a fascine record breaks R158 or has a reserved bit set (R380, R384). -/
def fascBad (r : List Byte) : Bool :=
  let ents := (List.range 4).map fun k => SplitEntry.ofBytes ((r.drop (16 * k)).take 16) 0 0
  let used := ents.filter (·.val)
  let all := used.foldl (fun a e => a ||| e.mask) 0
  (List.range 4).any (fun k => field r (128 * k + 99) 5 != 0) || field r 523 21 != 0 || field r 576 64 != 0 ||
    used.any (fun e => e.park &&& ~~~e.mask != 0) ||
    (used.foldl (fun n e => n + popcount 16 e.mask.toNat) 0 != popcount 16 all.toNat) ||
    all != ~~~(BitVec.ofNat 16 (field r 640 16)) || field r 805 27 != 0 || 4 < field r 968 8 || field r 1016 8 != 0 || field r 3120 16 != 0 ||
    (List.range 3).any (fun k => field r (3136 + 32 * k + 24) 8 != 0) || (r.drop 404).take 108 != leBytes 108 0 ||
    (List.range 64).any (fun b => field r (4096 + 32 * b + 18) 14 != 0) || (r.drop 768).take 256 != leBytes 256 0

/-- A fascine as its record gives it, over what the device kept of it; `vs` its bound names. All reads of b-registers see
the restored values. -/
def Fascine.load (f : Fascine) (r : List Byte) (vs : List VBind) (halted : Bool) (now : Nat) : Fascine :=
  let w (o : Nat) : Word := wordAt r o
  let ents := (List.range 4).map fun k =>
    SplitEntry.ofBytes ((r.drop (16 * k)).take 16) (field r (if k = 0 then 992 else 3104 + 32 * k) 24) now
  { f with
    r := { ents := ents, exmask := BitVec.ofNat 16 (field r 640 16), hmask := BitVec.ofNat 16 (field r 656 16),
           preds := (List.range 16).map fun t => BitVec.ofNat 8 (field r (672 + 8 * t) 7),
           ppois := maskOf fun t => flag r (679 + 8 * t), vb := vs.foldl (fun l v => insertKey VBind.name v l) [],
           s := (List.range 48).map fun k => w (192 + 4 * k), spois := (List.range 48).map fun k => flag r (3072 + k) }
    exc := BitVec.ofNat 5 (field r 800 5), chstat := (List.range 4).map fun k => w (160 + 4 * k),
    cnt := (List.range 4).map fun k => field r (832 + 32 * k) 32, tok := BitVec.ofNat 8 (field r 960 8),
    ts := (List.range 8).map fun k => w (128 + 4 * k), snaps := (List.range 4).map fun k => w (176 + 4 * k),
    wrec := (List.range f.wrec.length).map fun b => ⟨field r (4096 + 32 * b) 16, flag r (4112 + 32 * b), flag r (4113 + 32 * b)⟩,
    chains := [], ops := [], haz := [], retired := !ents.any (·.val), orecs := [], bseen := List.replicate 16 1, bord := List.replicate 16 1, rejoinHold := false,
    settle := true, stale := [], epoch := 0, prior := [],
    stop := { stopped := halted, skid := field r 512 4, code := field r 516 5, primary := flag r 521, dieHalt := false, slot := w 68 } }

/-- A vector entry record (R381). -/
def VBind.bytes (v : VBind) : List Byte :=
  leBytes 2 v.name ++ leBytes 2 v.live.toNat ++ leBytes 2 v.pois.toNat ++ leBytes 10 0 ++ (List.range 16).flatMap fun t => wordBytes (v.words.getD t 0)
/-- A bound name from its record. -/
def VBind.ofBytes (r : List Byte) : VBind :=
  ⟨field r 0 8, BitVec.ofNat 16 (field r 16 16), BitVec.ofNat 16 (field r 32 16), bytesWords 16 (r.drop 16)⟩

/-- An open culvert record of fascine i (R381). -/
def OpenRec.save (o : OpenRec) (i : Nat) : List Byte :=
  leBytes 8 (o.win % 2 ^ 23 + i % 64 * 2 ^ 23 + o.t % 16 * 2 ^ 29) ++ leBytes 8 o.mask ++ leBytes 48 0 ++
    (o.bytes ++ List.replicate 64 0).take 64
/-- An open culvert record and its fascine. -/
def OpenRec.load (r : List Byte) : Nat × OpenRec := (field r 23 6, { win := field r 0 23, t := field r 29 4, mask := field r 64 64, bytes := (r.drop 64).take 64 })

/-! ## Engine, inlet and outlet records, polder block (R274, R284, R381) -/

/-- An operation entry of an engine record: kind, accumulator or slot, version, units and fascine in its first 16 bytes,
places that the manual does not give (log 21); units committed and source after its tables. -/
def MOp.record (o : MOp) : List Byte :=
  let fit (n : Nat) (l : List Byte) : List Byte := (l ++ List.replicate n 0).take n
  leBytes 1 o.kind ++ leBytes 1 o.a ++ leBytes 2 0 ++ leBytes 4 o.v ++ leBytes 4 o.units ++ leBytes 1 o.f ++ leBytes 1 (if o.running then 1 else 0) ++
    leBytes 2 o.err ++ fit 64 o.desc ++ fit 32 o.fmt ++ fit 64 o.tabs ++ leBytes 8 o.pos ++ leBytes 8 o.src
/-- An operation from its entry, over what the device kept of it. -/
def MOp.load (o : MOp) (r : List Byte) : MOp :=
  { o with kind := field r 0 8, a := field r 8 8, v := field r 32 32, units := field r 64 32, f := field r 96 8, running := flag r 104,
           err := field r 112 16, desc := (r.drop 16).take o.desc.length, fmt := (r.drop 80).take o.fmt.length,
           tabs := (r.drop 112).take o.tabs.length, pos := field r 1408 64, src := field r 1472 64, rows := [] }

/-- An engine's record (R381). -/
def Engine.record (e : Engine) : List Byte :=
  let fit (n : Nat) (l : List Byte) : List Byte := (l ++ List.replicate n 0).take n
  ((List.range 16).flatMap fun i => leBytes 1 (e.slot i).st) ++ leBytes 1 e.part ++ leBytes 1 e.q.length ++ leBytes 46 0 ++
    fit 64 e.books.flatten ++
    ((List.range 4).flatMap fun a => leBytes 4 (e.acc a).ver ++ wordBytes (e.status a MOp.units) ++ fit 56 (e.acc a).fmt) ++
    fit 3712 (e.q.flatMap MOp.record) ++
    ((List.range 4).flatMap fun a => (List.range 384).flatMap fun k =>
      leBytes 1 ((List.range 4).foldl (fun n j => n + SMap.get 0 (e.acc a).spec (4 * k + j) % 4 * 4 ^ j) 0)) ++
    leBytes 2560 0 ++
    ((List.range 4).flatMap fun a => (List.range 1536).flatMap fun k => wordBytes (SMap.get 0 (e.acc a).words k)) ++
    ((List.range 16).flatMap fun i => (e.slot i).mem.readN 0 6144)
/-- An engine from its record and the poisoned sectors of it, over what the device kept; `part` its new partition. -/
def Engine.load (e : Engine) (r : List Byte) (pois : List Nat) (part : Nat) : Engine :=
  let cut (o n : Nat) : List Byte := (r.drop o).take n
  { e with
    part := part, books := [cut 64 32, cut 96 32],
    slots := (List.range e.slots.length).map fun i =>
      { st := field r (8 * i) 8, mem := Memory.writeN [] 0 (cut (32768 + 6144 * i) 6144),
        pois := (pois.filter fun o => 32768 + 6144 * i ≤ o && o < 32768 + 6144 * (i + 1)).map (· - (32768 + 6144 * i)) },
    accs := (List.range 4).map fun a =>
      let st := field r (8 * (132 + 64 * a)) 32
      let wds := cut (8192 + 6144 * a) 6144
      let sp := cut (4096 + 384 * a) 384
      { words := (List.range 1536).foldl (fun m k => SMap.set 0 m k (wordAt wds (4 * k))) [],
        spec := (List.range 1536).foldl (fun m k => SMap.set 0 m k (field sp (2 * k) 2)) [],
        ver := field r (8 * (128 + 64 * a)) 32, opk := bits st 28 3, err := bits st 26 2, done := bits st 0 24, fmt := cut (136 + 64 * a) 32 },
    q := e.q.zipIdx.map fun x => if x.2 < 19 then x.1.load (cut (384 + 192 * x.2) 192) else x.1 }

/-- The record of an inlet or outlet core (R381). -/
def IoCore.record (s : State) (h : Nat) (c : IoCore) : List Byte :=
  let fit (l : List Byte) : List Byte := (l ++ List.replicate 64 0).take 64
  ((List.range 32).flatMap fun k => wordBytes (c.rx k)) ++ wordBytes c.pc ++
    ([0x300, 0x301, 0xF14, 0x305, 0x341, 0x342, 0x343, 0x340, 0xB00, 0xB80, 0xB02, 0xB82].flatMap fun n => wordBytes ((c.csr s h n).getD 0)) ++
    leBytes 12 0 ++ ((List.range 8).flatMap fun t => wordBytes (c.slst.getD t 0)) ++ leBytes 32 0 ++
    fit c.mopen ++ ((List.range 16).flatMap fun i => fit (c.ready.getD i [])) ++ leBytes 4 c.ready.length ++ leBytes 188 0 ++ c.dmem.readN 0 16384
/-- A core from its record: its instruction store is loaded again before it runs on, and mcycle goes on from its value. -/
def IoCore.load (c : IoCore) (r : List Byte) : IoCore :=
  let w (k : Nat) : Word := wordAt r (132 + 4 * k)
  let n := min 16 (field r 10752 32)
  { c with
    run := if c.run = 2 then 2 else 0, x := (List.range 32).map fun k => wordAt r (4 * k), pc := wordAt r 128, mstatus := w 0, mtvec := w 3,
    mepc := w 4, mcause := w 5, mtval := w 6, mscratch := w 7, mcycle := w 9 ++ w 8, minstret := w 11 ++ w 10, imem := [],
    dmem := Memory.writeN [] 0 ((r.drop 1536).take 16384), slst := (List.range 8).map fun t => wordAt r (192 + 4 * t),
    busy := BitVec.ofNat 8 ((List.range 8).foldl (fun a t => a + if flag r (1536 + 32 * t) then 2 ^ t else 0) 0),
    mopen := (r.drop 256).take 64, ready := (List.range n).map fun i => (r.drop (320 + 64 * i)).take 64 }

/-- The polder block (R381). A poisoned b-register's word is unpredictable (R128). -/
def Polder.block (p : Polder) (s : State) : List Byte :=
  ((List.range 16).flatMap fun n => wordBytes (if p.bpois.getD n false then Config.freeWord (s.draw (2 ^ 34 + n)) else bvalue (p.breg.getD n []) 0)) ++
    leBytes 2 ((List.range 16).foldl (fun a n => a + if p.bpois.getD n false then 2 ^ n else 0) 0) ++ leBytes 1 p.lease ++
    leBytes 1 ((List.range 4).foldl (fun a n => a + if (p.glatch.getD n none).isSome then 2 ^ n else 0) 0) ++ leBytes 444 0 ++
    (List.range 4).flatMap fun n => ((p.glatch.getD n none).getD [] ++ List.replicate 128 0).take 128

/-! ## The image (R378, R379) -/

/-- The header of a polder's image. -/
def Polder.imgHeader (p : Polder) (alen target : Nat) (evict : Bool) : List Byte :=
  let nv := p.fs.foldl (fun n f => n + f.r.vb.length) 0
  let nc := p.fs.foldl (fun n f => n + f.chains.length) 0
  let no := p.fs.foldl (fun n f => n + f.orecs.length) 0
  let nio := p.io.foldl (fun n c => n + 2 ^ c.k) 0
  let h (need : Nat) : List Byte :=
    leBytes 4 alen ++ leBytes 4 target ++ leBytes 2 (2 + 16 + (if evict then 2 ^ 12 else 0) + (if p.halt.isSome then 2 ^ 13 else 0)) ++
      leBytes 4 need ++ leBytes 2 (p.fs.length % 128 + p.engines.length % 16 * 2 ^ 7 + nio % 4 * 2 ^ 11) ++ leBytes 2 nv ++ leBytes 2 nc ++ leBytes 2 no ++
      leBytes 2 0 ++ leBytes 4 p.bytes ++ leBytes 2 p.queue ++ leBytes 2 (p.ureg.getD 0xFFFF) ++ leBytes 4 p.pl ++ leBytes 2 p.ctx ++ leBytes 218 0
  h (imgNeed (h 0))

/-- A polder at the sample of a save: how far each thread of its chains has come (R120), and the decisions that follow (R100). -/
def Polder.settle (p : Polder) (s : State) : Polder :=
  { p with fs := p.fs.map fun (f : Fascine) =>
      let f : Fascine := { f with chains := f.chains.map fun (c : Chain) => c.sample s }
      f.chains.foldl (fun f c => c.mems.zipIdx.foldl (fun f x =>
        if !x.1.sender then f
        else c.lanes.foldl (fun f t => if x.1.stat.getD t 0 != 2 then f else f.decide s ((f.chains.find? (·.id == c.id)).getD c) t) f) f) f }

/-- Threads for which a write in flight has been made by the sample: all of a write that no chain makes (R377). -/
def Fascine.madeMask (f : Fascine) (h : Hazard) : Mask :=
  match h.chain with
  | none => 0xFFFF
  | some (id, k) =>
    match f.chains.find? (·.id == id) with
    | none => 0xFFFF
    | some c => maskOf (c.made k)
/-- The writes of chains in flight at the sample, newest first, behind what later writes have taken (R32). -/
def Fascine.sampleHaz (f : Fascine) : List Hazard → List Hazard
  | [] => []
  | h :: hs =>
    let m := f.madeMask h &&& h.mask
    let rest := overtake h.key h.g (if perThreadKey h.key then m else if m != 0 then 0xFFFF else 0) (f.sampleHaz hs)
    if h.chain.isSome then h :: rest else rest
/-- The polder as its image shows it: the writes of its chains that have not been made are not in its registers (R122). -/
def Polder.sampled (p : Polder) : Polder :=
  p.fs.zipIdx.foldl (fun p x =>
    let hs := x.1.sampleHaz x.1.haz
    let lost := lostWrites (fun h _ => ~~~(x.1.madeMask h)) [] hs
    (p.unwrite lost).modF x.2 fun f => { f with r := lost.foldl Regs.unwrite f.r, haz := hs }) p

/-- The scratchpad image: the program's bytes, then the barriers (R223). -/
def Polder.spImage (p : Polder) : List Byte :=
  let b := p.spad.readN 0 p.spsize ++ p.bars.flatMap Bar.bytes16
  b ++ List.replicate (p.bytes - b.length) 0

/-- The late-landing entries of an evicted polder (R382): chains that it issued or that target it, then its ring, when it leads one of
which others run; none stands for the ring. -/
def State.lateList (s : State) (p : Polder) : List (Option Nat) :=
  let ks := s.schains.filter fun k => k.iss.h == p.h || (match s.body? k.iss.h with
    | some q => k.now.any fun x => (s.landings q x).any (·.1 == p.h)
    | none => false)
  ks.map (fun k => some k.id) ++
    (if s.leader p == p.h && (s.ringOf p).any (fun q => q.h != p.h && q.life != .draining) then [none] else [])

/-- The sections of a polder's image after its header, in order; each starts at a multiple of 64 (R379). -/
def State.sections (s : State) (p : Polder) (late : List (Option Nat)) : List (List Byte) :=
  let fit (n : Nat) (l : List Byte) : List Byte := (l ++ List.replicate n 0).take n
  let entry (l : Option Nat) : List Byte := fit 64 (match l with
    | none => leBytes 16 512
    | some k => ((s.schain? k).map (s.lateBytes p.h)).getD [])
  [p.block s, p.fs.flatMap Fascine.record, p.fs.flatMap fun f => f.r.vb.flatMap VBind.bytes,
   p.fs.zipIdx.flatMap fun x => x.1.chains.flatMap fun c => c.record x.2 (s.choose (2 ^ 38 + c.id) (c.lastStart + 1)),
   p.fs.zipIdx.flatMap fun x => x.1.orecs.flatMap fun o => o.save x.2,
   p.engines.flatMap Engine.record, p.io.flatMap fun c => c.record s p.h,
   fit 32768 (late.flatMap entry), List.replicate 16384 0, p.spImage]

/-- A header and sections as one run of bytes. -/
def joinSections (hd : List Byte) (l : List (List Byte)) : List Byte :=
  l.foldl (fun a x => a ++ List.replicate (roundUp a.length 64 - a.length) 0 ++ x) hd

/-- Offsets of the image's sectors that are poisoned: of slots and of the scratchpad (R130). -/
def Polder.imgPoison (p : Polder) (hd : List Byte) : List Nat :=
  (p.engines.zipIdx.flatMap fun x => x.1.slots.zipIdx.flatMap fun y => y.1.pois.map fun o =>
      imgOffset hd 5 + 131072 * x.2 + 32768 + 6144 * y.2 + o) ++ p.spois.map (imgOffset hd 9 + ·)

/-- Bytes and poisoned sectors written at an image's address. -/
def State.putImage (s : State) (c : Ctx) (die img : Nat) (b : List Byte) (pois : List Nat) : Except PFault State :=
  match s.gwrite c (pastFar die) 0 false (b.length / 32 + 2) img b with
  | .error e => .error e
  | .ok s => pois.foldl (fun r o => match r with
      | .error e => .error e
      | .ok s => s.gwrite c (pastFar die) 0 true 3 (img + o) ((b.drop o).take 32)) (.ok s)

/-! ## References to a polder that moves -/

/-- The records of the package that name polder `a` name it `b` (R375, R382). -/
def State.rehandle (s : State) (a b : Nat) : State :=
  let h (x : Nat) : Nat := if x = a then b else x
  let iss (i : Issuer) : Issuer := { i with h := h i.h }
  let tag (t : Option (Nat × Nat)) : Option (Nat × Nat) := t.map fun x => (x.1, h x.2)
  let cnt (l : List (Nat × Nat)) : List (Nat × Nat) := l.foldl (fun m x => insertKey Prod.fst (h x.1, x.2) m) []
  let own (o : Owner) : Owner := match o with
    | .matrix x e k => .matrix (h x) e k
    | .io x k => .io (h x) k
    | .trap x => .trap (h x)
    | o => o
  let rc (x : SRec) : SRec :=
    { x with landed := cnt x.landed, todo := x.todo.map fun m => match m with
        | .copy d o src n => .copy (d.map h) o src n
        | .parts d o l => .parts (d.map h) o l
        | .row i => .row i }
  let req (r : SaveReq) : SaveReq := { r with h := h r.h }
  let pol (p : Polder) : Polder := { p with tags := p.tags.map fun t => (t.1, h t.2), stopReq := p.stopReq.map req }
  { s with
    schains := s.schains.map fun (k : SChain) => { k with iss := iss k.iss, now := k.now.map rc },
    colls := s.colls.map fun (k : Coll) => { k with iss := iss k.iss },
    jobs := s.jobs.map fun (k : Job) => { k with iss := k.iss.map iss },
    rays := s.rays.map fun (k : Ray) => { k with iss := iss k.iss },
    walks := s.walks.map fun (k : Walk) => { k with iss := iss k.iss },
    bins := s.bins.map fun (x : Bin) => { x with recs := x.recs.map fun (r : GRec) => { r with tag := tag r.tag } },
    spills := s.spills.map fun (x : Spill) => { x with held := x.held.map fun r => (r.1, r.2.1, tag r.2.2) },
    polders := s.polders.map pol, saved := s.saved.map fun (z : Saved) => { z with p := pol z.p },
    restores := s.restores.map fun (r : Restore) => { r with h := h r.h, z := h r.z },
    saves := s.saves.map fun x => (h x.1, req x.2),
    faults := s.faults.map fun (f : Fault400) => { f with owner := own f.owner } }

/-! ## SAVEC (R377, R384) -/

/-- The end of an instruction that held its sub-group: an acquire at system scope (R384). -/
def State.endPriv (s : State) (h f g : Nat) : State :=
  match s.polder? h with
  | none => s
  | some p => (s.invalidate p 6).modFasc h f (·.release g)
/-- STAT of an image written (R378). -/
def State.setStat (s : State) (c : Ctx) (die img stat : Nat) : Except PFault State :=
  match s.gread c (pastFar die) 0 2 (img + 9) 1 with
  | .error e => .error e
  | .ok (b, _) => s.gwrite c (pastFar die) 8 false 2 (img + 9) (b.map fun x => (x &&& 0xF0) ||| BitVec.ofNat 8 stat)

/-- The checks of SAVEC's and RESTC's address. -/
def imageAddr (x : Nat) : Option TrapInfo :=
  if x % 4096 ≠ 0 then some { t := .misalign, addr := x } else if !isGlobal x then some { t := .space, addr := x } else none

/-- An instruction on an image that ends at its issue with a STAT. -/
def V.statEnd (v w : V) (c : Ctx) (img stat : Nat) : Res :=
  match v.s.setStat c v.p.die img stat with
  | .error e => .trap (pageTrap img e false)
  | .ok s => .next ({ w with s := s }.acquire 6)

/-- The target of a SAVEC by polder `by'` (R384): none when there is none in its context, or it is the issuer, or it drains. -/
def State.saveTarget (s : State) (c by' tgt : Nat) : Option Polder :=
  (s.polder? tgt).filter fun p => p.ctx == c && p.h != by' && p.life != .draining

/-- SAVEC (R384): the target is stopped; the sub-group is held until the sample has been written. One that finds its target being
stopped by another SAVEC waits for that one. -/
def execSavec (a : Opnd) (e : BitVec 1) (s : State) : Host.Outcome State Fault Refusal :=
  issue s (fun _ => { a := .a2u a, unif := true, priv := true, log := false }) fun v w act =>
    let x := v.rd2 a (lowest act)
    match imageAddr x, v.s.ctx? v.p.ctx with
    | some t, _ => .trap t
    | none, none => .wait
    | none, some c =>
      match v.engineOrder w with
      | none => .wait
      | some w =>
        match v.objGet 0 x 32 with
        | .error t => .trap t
        | .ok hd =>
          let h := field hd 32 32
          let r : SaveReq := ⟨v.l.h, v.l.f, v.l.g, x, e == 1⟩
          match v.s.saveTarget v.p.ctx v.l.h h with
          | none => v.statEnd w c x 2
          | some p =>
            let w := { w with e := { w.e with hold := .save x (e == 1) } }
            if p.stopReq.isSome then .hold { w with s := { w.s with saves := w.s.saves ++ [(h, r)] } }
            else .hold { w with s := (w.s.stopPolder h).modPolder h fun p => { p with stopReq := some r } }

/-- Whether a SAVEC of a sub-group waits for another one (R384). -/
def State.queuedSave (s : State) (h f g : Nat) : Bool := s.saves.any fun x => x.2.h == h && x.2.f == f && x.2.g == g
/-- Whether a stop of a polder is complete (R377): nothing of its fascines is in flight, and no sub-group is inside an
instruction that must end first. -/
def State.stopDone (s : State) (p : Polder) : Bool :=
  p.fs.zipIdx.all (fun (f, i) => f.ops.isEmpty && f.r.ents.zipIdx.all fun (e, g) => !e.val || (match e.hold with
    | .none => true
    | .bar _ _ => true
    | .passed _ _ _ => true
    | .voterk _ _ _ _ => true
    | .regroup _ _ _ => true
    | .restore _ => true
    | .save _ _ => s.queuedSave p.h i g
    | _ => false)) &&
    !(s.rays.any fun r => r.iss.h == p.h && !r.done) && !(s.walks.any fun w => w.iss.h == p.h)

/-- A SAVEC ends with NOTARGET (R384). -/
def State.noTarget (s : State) (r : SaveReq) : State :=
  match (s.polder? r.h).bind fun p => s.ctx? p.ctx with
  | none => s
  | some c => ((s.setStat c (dieOf (coreOf r.h)) r.img 2).toOption.getD s).endPriv r.h r.f r.g

/-- A save of polder h has ended: the next SAVEC that names it acts on the state that this one left (R384). `n` bounds those that
wait. -/
def State.nextSave (s : State) (h : Nat) : Nat → State
  | 0 => s
  | n + 1 =>
    match s.saves.find? (·.1 == h) with
    | none => s
    | some (_, r) =>
      let s := { s with saves := s.saves.filter fun x => !(x.1 == h && x.2 == r) }
      match s.saveTarget (((s.polder? r.h).map (·.ctx)).getD noCtx) r.h h with
      | some _ => (s.stopPolder h).modPolder h fun p => { p with stopReq := some r }
      | none => State.nextSave (s.noTarget r) h n

/-- A polder leaves its core (R382): the device keeps it under a name of its own. Its restores and waiting SAVECs are executed again
when it has returned (R377). -/
def State.evict (s : State) (p : Polder) (img : Nat) (late : List (Option Nat)) : State :=
  let new := 2 ^ 20 + s.nextId
  let s := { s.dropPolder p.h with
    nextId := s.nextId + 1, rays := s.rays.filter (·.iss.h != p.h),
    restores := s.restores.filter (·.h != p.h), saves := s.saves.filter (·.2.h != p.h),
    faults := s.faults.filter fun a => match a.owner with
      | .matrix x _ _ => x != p.h
      | .io x _ => x != p.h
      | .trap x => x != p.h
      | _ => true }
  let z : Saved := { p := { p with h := new, stopReq := none, dieHalt := false }, img := img, live := p.live, late := late, beat := s.beat, was := p.h }
  { s with saved := s.saved ++ [z] }.rehandle p.h new

/-- POLDER_STOP_COMPLETE (R377, R384): in the beat after the stop the sample is taken: the image is written, and with EVICT the polder
leaves its core. A page that does not translate gives the polder back and traps the SAVEC. -/
def execPolderStopComplete (h : Nat) (s : State) : Host.Outcome State Fault Refusal :=
  match s.polder? h with
  | none => .next s.idle
  | some p0 =>
    match p0.stopReq, s.ctx? p0.ctx with
    | some r, some c =>
      if p0.life = .draining then   -- its threads have exited: a TRAPRET or HALTEND has retired it
        .next (((s.modPolder h fun p => { p with stopReq := none }).noTarget r).nextSave h s.saves.length).idle
      else if !s.stopDone p0 then .next s.idle
      else
        let s := s.passTo (s.beat + 1)
        let p := { p0.settle s with stopReq := none }
        let x := p.sampled
        let back := s.setPolder p
        let n := s.saves.length
        let slot := ((((s.fasc? r.h r.f).getD {}).r.ents[r.g]?).getD {}).pc
        let fail (e : PFault) : State :=
          if e.cause = 0 then s else          -- a home in reset: the save waits (R22)
          ((back.modFasc r.h r.f fun f => { f with r := { f.r with ents := modAt f.r.ents r.g fun e => { e with hold := .none } } }).takeTrap
            r.h r.f r.g slot slot (pageTrap r.img e false)).nextSave h n
        match s.gread c (pastFar p.die) 0 2 r.img 8 with
        | .error e => .next (fail e).idle
        | .ok (a, _) =>
          let hd := x.imgHeader (field a 0 32) (field a 32 32) r.evict
          let need := imgNeed hd
          if field a 0 32 < need then
            match back.gwrite c (pastFar p.die) 0 false 2 (r.img + 10) (leBytes 4 need) with
            | .error e => .next (fail e).idle
            | .ok s1 =>
              match s1.setStat c p.die r.img 1 with
              | .error e => .next (fail e).idle
              | .ok s2 => .next ((s2.endPriv r.h r.f r.g).nextSave h n).idle
          else
            let late := if r.evict then s.lateList x else []
            match back.putImage c p.die r.img (joinSections hd (s.sections x late)) (x.imgPoison hd) with
            | .error e => .next (fail e).idle
            | .ok s1 =>
              let s2 := if r.evict then s1.evict x r.img late
                else { s1 with sampled := s1.sampled.filter (·.beat == s1.beat) ++ [⟨h, c.c, r.img, s1.beat⟩] }
              .next ((s2.endPriv r.h r.f r.g).nextSave h n).idle
    | _, _ => .next s.idle

/-! ## RESTC (R384, R433) -/

/-- The saved polder that an image stands for: that of its TARGET, of several the one saved there; an image whose TARGET was edited is
known by its address (log 35). -/
def State.savedAt (s : State) (c img tgt : Nat) : Option Saved :=
  let mine := s.saved.filter (·.p.ctx == c)
  match mine.find? fun z => z.was == tgt && z.img == img with
  | some z => some z
  | none => (mine.find? (·.was == tgt)).or (mine.find? (·.img == img))

/-- Section k of an image. -/
def imgSection (b : List Byte) (k : Nat) : List Byte := (b.drop (imgOffset (b.take 256) k)).take ((imgSizes (b.take 256)).getD k 0)

/-- Whether RESTC rejects a header (R378, R384). -/
def headerBad (hd : List Byte) : Bool :=
  field hd 64 4 != 2 || field hd 68 4 != 1 || !flag hd 76 || field hd 78 2 != 0 || field hd 125 3 != 0 || field hd 153 7 != 0 ||
    field hd 186 6 != 0 || (hd.drop 38).take 218 != leBytes 218 0 || field hd 0 32 < field hd 80 32 || field hd 80 32 != imgNeed hd

/-- Whether RESTC rejects the rest of an image (R158, R122, R223, R384), of a kept polder when there is one. -/
def imageBad (b : List Byte) (z : Option Polder) : Bool :=
  let known (t : Polder → Bool) : Bool := (z.map t).getD false
  let fr := imgSection b 1
  let rec' (k : Nat) : List Byte := (fr.drop (1024 * k)).take 1024
  let vs := imgSection b 2
  let cs := imgSection b 3
  let late := imgSection b 7
  let pend := imgSection b 8
  let sp := imgSection b 9
  let ks := List.range (field b 112 7)
  known (fun p => field b 112 7 != p.fs.length) || ks.any (fun k => fascBad (rec' k)) ||
    ks.foldl (fun n k => n + field (rec' k) 976 16) 0 != field b 128 16 || ks.foldl (fun n k => n + field (rec' k) 968 8) 0 != field b 144 9 ||
    known (fun p => ks.any fun k => field (rec' k) 968 8 != ((p.fs[k]?).getD {}).chains.length) ||
    (List.range (field b 128 16)).any (fun k => field vs (640 * k + 8) 8 != 0 || field vs (640 * k + 48) 80 != 0) ||
    (List.range (field b 144 9)).any (fun k => chainBad ((cs.drop (4160 * k)).take 4160)) ||
    (List.range 512).any (fun k => field late (512 * k + 12) 20 != 0 || field late (512 * k + 96) 416 != 0) ||
    (List.range (field b 176 10)).any (fun k => field pend (128 * k + 16) 16 != 0) ||
    known fun p => (List.range p.bars.length).any fun k => field sp (8 * (p.spsize + 16 * k) + 83) 45 != 0

/-- RESTC (R384): the image is checked; the sub-group is held until the polder has been placed. -/
def execRestc (a : Opnd) (s : State) : Host.Outcome State Fault Refusal :=
  issue s (fun _ => { a := .a2u a, unif := true, priv := true, log := false }) fun v w act =>
    let x := v.rd2 a (lowest act)
    match imageAddr x, v.s.ctx? v.p.ctx with
    | some t, _ => .trap t
    | none, none => .wait
    | none, some c =>
      match v.engineOrder w with
      | none => .wait
      | some w =>
        match v.s.gread c (pastFar v.p.die) 0 10 x 256 with
        | .error e => .trap (pageTrap x e false)
        | .ok (hd, _) =>
          if headerBad hd then v.statEnd w c x 3
          else
            match v.s.gread c (pastFar v.p.die) 16 (field hd 80 32 / 32 + 2) x (field hd 80 32) with
            | .error e => .trap (pageTrap x e false)
            | .ok (b, _) =>
              let z := v.s.savedAt v.p.ctx x (field hd 32 32)
              if imageBad b (z.map (·.p)) || z.isNone && field hd 72 4 != 4 then v.statEnd w c x 3
              else if field hd 72 4 = 4 then .next (w.acquire 6)
              else
                let (id, s) := w.s.fresh
                .hold { w with e := { w.e with hold := .restore id },
                               s := { s with restores := s.restores ++ [⟨id, v.l.h, v.l.f, v.l.g, v.p.ctx, x, (z.map (·.p.h)).getD 0⟩] } }

/-- The shape that a saved polder asks for (R182). -/
def Polder.shape (p : Polder) : Shape :=
  { ranks := p.ranks.length, ppr := p.ppr, rcores := p.rcores, fuse := p.fuse, regs := p.regs, bars := p.bars.length, slots := p.nslots,
    spad := p.spsize, cwin := p.cwin, cwlen := p.cwlen, hmask := p.hmask0 }

/-- New partitions for the old ones of a polder with engines: distinct ones, each with room for its ranks (R265). -/
def State.pickParts (s : State) (core : Nat) (p : Polder) : List Nat → Option (List (Nat × Nat))
  | [] => some []
  | a :: as =>
    match s.pickParts core p as with
    | none => none
    | some l =>
      let need := (p.ranks.filter (·.1 == a)).length
      let ks := (List.range 8).filter fun k => !l.any (·.2 == k) && need ≤ rankRoom (s.onCore core) p.shape k
      (ks[s.choose (2 ^ 36 + 16 * core + a) ks.length]?).map fun k => (a, k) :: l
/-- The ranks of a restored polder on a core: ranks of one engine stay together. -/
def State.restoreRanks (s : State) (core : Nat) (p : Polder) : Option (List (Nat × Nat)) :=
  if p.nslots = 0 then s.pickRanks core p.shape p.ranks.length
  else
    match s.pickParts core p (p.ranks.map (·.1)).eraseDups with
    | none => none
    | some l => p.ranks.foldl (fun acc r =>
        match acc with
        | none => none
        | some rs =>
          let k := ((l.find? (·.1 == r.1)).map (·.2)).getD 0
          let taken := (s.onCore core).flatMap (·.ranks) ++ rs
          ((List.range 64).find? fun i => !taken.contains (k, i)).map fun i => rs ++ [(k, i)]) (some [])

/-- The octet in which a polder of a ring must return (R184, R433): of one that runs, of the ring's placement while it goes on,
or the one that an earlier RESTC chose. -/
def State.ringOctet (s : State) (p : Polder) : Option Nat :=
  match (s.ringOf p).head?, s.grids.find? fun g => g.rid == p.ring && g.octet.isSome with
  | some q, _ => some (q.core / 8)
  | none, some g => g.octet
  | none, none => (s.reserved.find? (·.1 == p.ring)).map (·.2.1)

/-- A core for a saved polder, with the ring's cores when it is fused, and the octet that its ring keeps (R184, R384, R433);
none: it waits. -/
def State.restoreCore (s : State) (c : Ctx) (p : Polder) : Option (Nat × List Nat × State) :=
  let io := p.io.map (·.k)
  let ok (k : Nat) : Bool := s.hasRoom k p.ring p.shape io && (s.restoreRanks k p).isSome
  let pick (l : List Nat) : Option Nat := (l.filter ok)[s.choose (2 ^ 37) (l.filter ok).length]?
  let keep (o : Nat) (ks : List Nat) : State :=
    { s with reserved := (s.reserved.filter (·.1 != p.ring)) ++ [(p.ring, o, ks)] }
  let j := p.pl % max 1 p.ppr % max 1 p.rcores
  if p.fuse && 1 < p.rcores then
    match (s.ringOf p).head?, s.reserved.find? (·.1 == p.ring) with
    | some q, _ => (pick [q.kcores.getD j 0]).map fun k => (k, q.kcores, keep (k / 8) q.kcores)
    | none, some (_, o, ks) => (pick [ks.getD j 0]).map fun k => (k, ks, keep o ks)
    | none, none =>
      let sets := ((octetsOf c.dies).flatMap fun o => (sublistsOf p.rcores ((octetCores o).filter fun k =>
        (s.onCore k).isEmpty && !s.dieDown (dieOf k) && !s.keptFor k p.ring)).map fun ks => (o, ks)).filter fun x => ok (x.2.getD j 0)
      (sets[s.choose (2 ^ 37) sets.length]?).map fun x => (x.2.getD j 0, x.2, keep x.1 x.2)
  else
    match s.ringOctet p with
    | some o => (pick (octetCores o)).map fun k => (k, [], keep o [])
    | none => (pick ((octetsOf c.dies).flatMap octetCores)).map fun k => (k, [], keep (k / 8) [])

/-- A pending entry applied to a restored polder (R383): token clear, landing, ring arrival; the other kinds need nothing. -/
def Polder.applyPending (live : Nat) (p : Polder) (e : List Byte) : Polder :=
  let f := field e 4 6
  let i := field e 10 6
  match field e 0 4 with
  | 1 => p.modF f fun x => { x with tok := x.tok &&& ~~~(BitVec.ofNat 8 (2 ^ i)), ts := modAt x.ts i (· &&& ~~~1) }
  | 2 => { p with bars := modAt p.bars i fun b => b.land (field e 32 32) 4 }
  | 3 => { p with bars := modAt p.bars i fun b => (b.mark live).arrive }
  | _ => p

/-- An event that the image could not take applied to a restored polder (R231, R382). -/
def Polder.applyOwed (live : Nat) (p : Polder) : Owed → Polder
  | .token f k ts => p.modF f fun x => { x with tok := x.tok &&& ~~~(BitVec.ofNat 8 (2 ^ k)), ts := match ts with
      | some w => setAt x.ts k w
      | none => x.ts }
  | .ticket i t ts => { p with io := p.io.map fun (c : IoCore) =>
      if c.k = i then { c with busy := c.busy &&& ~~~(bit8 t), slst := setAt c.slst t ts } else c }
  | .land b n sc => { p with bars := modAt p.bars b fun x => x.land n sc }
  | .follow b n m => { p with bars := modAt p.bars b fun x => if x.auto && x.ring then x.follow n m else x }
  | .arrive b => { p with bars := modAt p.bars b fun x => (x.mark live).arrive }

/-- Every section of an image loaded over what the device kept of the polder; and whether a chain consumes poison. Poisoned sectors
`pois` of the image that hold records give their bytes (log 84). -/
def State.loadImage (s : State) (z : Saved) (b : List Byte) (pois : List Nat) (h : Nat) (ranks : List (Nat × Nat)) : Polder × Bool :=
  let p := z.p
  let hd := b.take 256
  let blk := imgSection b 0
  let fr := imgSection b 1
  let vs := imgSection b 2
  let eng := imgSection b 5
  let ior := imgSection b 6
  let sp := imgSection b 9
  let rec' (k : Nat) : List Byte := (fr.drop (1024 * k)).take 1024
  let nv (k : Nat) : Nat := field (rec' k) 976 16
  let orecs := (List.range (field hd 160 16)).map fun k => OpenRec.load (((imgSection b 4).drop (128 * k)).take 128)
  let fs := p.fs.zipIdx.map fun (f, k) =>
    let from' := (List.range k).foldl (fun n j => n + nv j) 0
    let f := f.load (rec' k) ((List.range (nv k)).map fun j => VBind.ofBytes ((vs.drop (80 * (from' + j))).take 80)) p.halt.isSome s.beat
    { f with orecs := (orecs.filter (·.1 == k)).map (·.2) }
  let part (a : Nat) : Nat := ((p.ranks.zip ranks).find? (·.1.1 == a)).map (·.2.1) |>.getD a
  let inSec (k o n : Nat) : List Nat := (pois.filter fun x => imgOffset hd k + o ≤ x && x < imgOffset hd k + o + n).map (· - (imgOffset hd k + o))
  let q : Polder :=
    { p with
      h := h, ranks := ranks, fs := fs,
      breg := (List.range 16).map fun n => [if flag blk (512 + n) then 0 else wordAt blk (4 * n)], bpois := (List.range 16).map fun n => flag blk (512 + n),
      brel := List.replicate 16 1, btags := [], bbars := [], lease := field blk 528 6,
      glatch := (List.range 4).map fun n => if flag blk (536 + n) then some ((blk.drop (512 + 128 * n)).take 128) else none,
      engines := p.engines.zipIdx.foldl (fun l (e, k) =>
        insertKey Engine.part (e.load ((eng.drop (131072 * k)).take 131072) (inSec 5 (131072 * k) 131072) (part e.part)) l) [],
      io := p.io.zipIdx.map fun (c, k) => c.load ((ior.drop (17920 * k)).take 17920),
      spad := Memory.writeN [] 0 (sp.take p.spsize), spois := inSec 9 0 (field hd 192 32),
      bars := (List.range p.bars.length).map fun k => Bar.ofBytes ((sp.drop (p.spsize + 16 * k)).take 16) }
  let (q, bad, _) := p.fs.zipIdx.foldl (fun (a : Polder × Bool × Nat) (x : Fascine × Nat) =>
    x.1.chains.foldl (fun a c =>
      let (q, bad) := a.1.restoreChain x.2 c x.1.haz (s.draw (2 ^ 35 + 64 * a.2.2)) (((imgSection b 3).drop (4160 * a.2.2)).take 4160)
      (q, a.2.1 || bad, a.2.2 + 1)) a) (q, false, 0)
  let q := (List.range (field hd 176 10)).foldl (fun q k => q.applyPending (s.ringLive z.p) (((imgSection b 8).drop (16 * k)).take 16)) q
  let q := z.owed.foldl (Polder.applyOwed (s.ringLive z.p)) q
  ({ q with bars := q.bars.map Bar.check }, bad)

/-- Tags of records in spillways name the restored polder (R357). -/
def State.rebindTags (s : State) (c : Ctx) (h : Nat) : State :=
  s.spills.foldl (fun s x =>
    match s.grid? x.grid with
    | none => s
    | some g =>
      let e := g.node x.node
      let base := partBase c e x.part
      let n := max 1 (nodeParts c e)
      match s.gread c atHome 0 2 base 4 with
      | .error _ => s
      | .ok (hd, _) => x.held.zipIdx.foldl (fun s (r, i) =>
          if (r.2.2.map Prod.snd) = some h then
            let k := (leNat hd + n * 2 ^ 32 - x.held.length + i) % n
            (s.gwrite c atHome 8 false 3 (base + 64 + (nodeRsize e + 16) * k + nodeRsize e) (s.tagBytes r.2.2)).toOption.getD s
          else s) s) s

/-- RESTORE_PLACE (R384): a core that holds the polder's resources is found, the image is loaded, and the polder goes on, or
stands HALTED as it was, with an acquire at package scope (R216). -/
def execRestorePlace (k : Nat) (s : State) : Host.Outcome State Fault Refusal :=
  match s.restores.find? (·.id == k) with
  | none => .next s.idle
  | some r =>
    match s.ctx? r.ctx, s.saved? r.z with
    | some c, some z =>
      match s.restoreCore c z.p with
      | none => .next s.idle
      | some (core, ks, s1) =>
        match s.restoreRanks core z.p, (List.range 512).find? (fun i => (s.polder? (512 * core + i)).isNone), s.readCw c (dieOf core) z.p.cwin z.p.cwlen with
        | some ranks, some i, some cw =>
          let h := 512 * core + i
          let slot := ((((s.fasc? r.h r.f).getD {}).r.ents[r.g]?).getD {}).pc
          let drop (s : State) : State := { s with restores := s.restores.filter (·.id != k) }
          let fail (e : PFault) : State :=
            if e.cause = 0 then s else        -- a home in reset: the restore waits (R22)
            ((drop s).modFasc r.h r.f fun f => { f with r := { f.r with ents := modAt f.r.ents r.g fun e => { e with hold := .none } } }).takeTrap
              r.h r.f r.g slot slot (pageTrap r.img e false)
          match s.gread c (pastFar (dieOf core)) 0 10 r.img 256 with
          | .error e => .next (fail e).idle
          | .ok (hd, _) =>
            let need := field hd 80 32
            match s.gread c (pastFar (dieOf core)) 16 (need / 32 + 2) r.img need, s.gwrite c (pastFar (dieOf core)) 2 false 2 (r.img + 4) (leBytes 4 h) with
            | .ok (b, _), .ok _ =>
              let pois := (List.range (need / 32)).map (32 * ·) |>.filter fun o => match s.gread c (pastFar (dieOf core)) 0 2 (r.img + o) 32 with
                | .ok (_, q) => q
                | .error _ => false
              let (p, bad) := s.loadImage z b pois h ranks
              let p := { p with cw := cw, kcores := ks, life := if p.halt.isSome then .halted else if p.live = 0 then .draining else .running }
              let p := p.setDieHalt (c.halted.contains (dieOf core))
              let s := { drop s1 with saved := s1.saved.filter (·.p.h != z.p.h) }.setPolder p
              let s := (s.rehandle z.p.h h).rebindTags c h
              let s := (z.p.grid.map fun g => s.reserveBins g core).getD s
              -- a ring barrier with AUTO counts the fascines that hold a thread now (R226)
              let live := s.ringLive p
              let s := s.modPolder h fun p => { p with bars := p.bars.map (Bar.recount live) }
              let s := (s.gwrite c (pastFar (dieOf core)) 2 false 2 (r.img + 4) (leBytes 4 h)).toOption.getD s
              let s := (s.setStat c (dieOf core) r.img 4).toOption.getD s
              let s := match p.halt.bind (·.tself) with
                | some t => (s.gwrite c (pastFar (dieOf core)) 6 false 2 (c.tring + 64 * t + 8) (leBytes 4 h)).toOption.getD s
                | none => s
              let s := s.invalidate p 5
              let s := s.endPriv r.h r.f r.g
              .next (if bad then s.contextDead c.c else s).idle
            | .error e, _ => .next (fail e).idle
            | _, .error e => .next (fail e).idle
        | _, _, _ => .next s.idle
    -- another RESTC has restored the polder: the image is used (R384)
    | _, _ => .next ({ s with restores := s.restores.filter (·.id != k) }.endPriv r.h r.f r.g).idle

end Sys2Proof.Machine
end

