-- ==== Sys2Proof/Machine/Page.lean ====
section
/-! DEFINITION. Generations of address spaces and held engine accesses (spec/16_page.md R397 to R400): ASGEN and the retry of
an access that a failed translation holds. -/
namespace Sys2Proof.Machine

/-- Whether a held access translates now, and its home. -/
def State.mapped? (s : State) (c : Ctx) (a : Fault400) : Option Nat :=
  match s.translate c a.va (if a.write then 1 else 0) 0 with
  | .ok (.glob _ _ home, _) => some home
  | .ok _ => some 0
  | .error _ => none
/-- A held access translates again (R400): when it succeeds, every access held on the page that translates goes on and one page-mapped
notice is raised; when it fails for another cause, that is held and notified. -/
def State.retryFault (s : State) (a : Fault400) : State :=
  match s.ctx? a.ctx with
  | none => { s with faults := s.faults.filter (· != a) }
  | some c =>
    match s.mapped? c a, s.translate c a.va (if a.write then 1 else 0) 0 with
    | some die, _ =>
      let s := s.arrive (srcDie die)
      State.notice { s with faults := s.faults.filter fun b => !(b.ctx == a.ctx && b.va == a.va && !b.ended && (s.mapped? c b).isSome) }
        a.ctx { cls := 1, die := die, ts := s.time, det := a.va }
    | none, .error e =>
      if e.cause = a.cause || e.cause = 0 then s
      else
        let seen := s.faults.any fun b => b.ctx == a.ctx && b.va == a.va && b.cause == e.cause && !b.ended
        let s := { s with faults := s.faults.map fun (b : Fault400) => if b = a then { b with cause := e.cause } else b }
        if seen then s else s.notify 5 a.ctx 0 a.va e.cause
    | none, .ok _ => s
/-- Accesses retried that are still held (R400). -/
def State.retryAll (s : State) (l : List Fault400) : State :=
  l.foldl (fun s a => if !a.ended && s.faults.contains a then s.retryFault a else s) s

/-- A new generation of an address space (R398): 24 bits; at 0 every cached translation of it is discarded. Every access of the address
space that is held retries its walk (R400). -/
def State.raiseGen (s : State) (asid : Nat) : State :=
  let g := (s.gen asid + 1) % 2 ^ 24
  let s := { s with gens := SMap.set 0 s.gens asid g, tlb := if g = 0 then s.tlb.filter (·.asid != asid) else s.tlb }
  s.retryAll (s.faults.filter fun a => (s.ctx? a.ctx).map (·.asid) == some asid)

/-- Whether a generation is older than another, as 24-bit counts. -/
def olderGen (g now : Nat) : Bool := g != now && (now + 2 ^ 24 - g) % 2 ^ 24 < 2 ^ 23

/-- Whether every access of an address space that was translated under an older generation has been performed (R398). Engine
steps translate and perform in one step; what waits is a thread's, and of those the accesses to the global space. -/
def State.genDrained (s : State) (asid g : Nat) : Bool :=
  s.polders.all fun p => ((s.ctx? p.ctx).map (·.asid)) != some asid ||
    p.fs.all fun f => f.ops.all fun o => !(o.acc.any (·.loc.isGlob)) || !olderGen o.gen g

/-- ASGEN (R398): the sub-group releases at system scope, the generation rises on every die, and the sub-group is held until
older accesses are performed. -/
def execAsgen (b : Opnd) (s : State) : Host.Outcome State Fault Refusal :=
  issue s (fun _ => { b := .u b, unif := true, priv := true, log := false }) fun v w act =>
    match v.s.ctx? v.p.ctx with
    | none => .next w
    | some c =>
      if (v.rd b (lowest act) 1).toNat ≠ c.asid then .trap { t := .illopnd }
      else if !v.quiet then .wait
      else
        let s' := w.s.raiseGen c.asid
        let w := w.releaseB
        .hold { w with s := s', e := { w.e with hold := .asgen c.asid (s'.gen c.asid) } }

/-- ASGEN_DRAIN_COMPLETE (R398): the last step of an ASGEN that holds entry g ends. -/
def execAsgenDrainComplete (h f g : Nat) (s : State) : Host.Outcome State Fault Refusal :=
  match ((s.fasc? h f).bind fun (x : Fascine) => x.r.ents[g]?).map fun (e : SplitEntry) => e.hold with
  | some (.asgen asid n) => .next (if s.genDrained asid n then s.modFasc h f (·.release g) else s).idle
  | _ => .next s.idle

/-- ENGINE_FAULT_RETRY (R400): the k-th held access retries its walk. -/
def execEngineFaultRetry (k : Nat) (s : State) : Host.Outcome State Fault Refusal :=
  match s.faults[k]? with
  | some a => .next (if a.ended then s else s.retryFault a).idle
  | none => .next s.idle

end Sys2Proof.Machine
end

