-- ==== Sys2Proof/Machine/HostPort.lean ====
section
/-! DEFINITION. The host ports and the die links (spec/17_link.md): host accesses, registers, commands, notifications, link
training, and the reset of a die (R22, R368). -/
namespace Sys2Proof.Machine

/-! ## Host accesses (R220, R221) -/

/-- Whether a request of a host port can reach a die now (R8, R9, R22). -/
def State.portWay (s : State) (port die : Nat) : Bool := s.calm || !(s.dieDown (portDie port) || s.cutOff (portDie port) die)
/-- The die of the home of a device address for the host (log 47). -/
def hostDie (x : Nat) : Nat := Config.hostHome (x / 2048) % 4

/-- A write of `bytes` at x in its parts, each of one sector (R217). -/
def sectorParts (wr : Nat) (relaxed : Bool) : Nat → Nat → List Byte → List HostWr
  | 0, _, _ => []
  | fuel + 1, x, bs =>
    if bs.isEmpty then []
    else
      let k := piece x bs.length
      ⟨wr, x, bs.take k, relaxed⟩ :: sectorParts wr relaxed fuel (x + k) (bs.drop k)

/-- The parts that may land next: those of the oldest write, in any order, and those of writes that are ordered after
nothing (R217, R220). -/
def Port.landable (p : Port) : List HostWr := p.writes.filter fun w => w.relaxed || (p.writes.head?.map (·.wr)) == some w.wr

/-- One part of the writes that have arrived at a port lands at its home slice; no L1 and no far copy follows (R220). -/
def State.landHost (s : State) (port : Nat) : State :=
  let l := ((s.ports[port]?).map Port.landable).getD []
  match l[s.choose 0 l.length]? with
  | none => s
  | some w =>
    if s.portWay port (hostDie w.x) then
      (s.writeHome 0 w.x w.bytes none false).modPort port fun (p : Port) => { p with writes := p.writes.erase w }
    else s

/-- HOST_WRITE (R217, R220, R404, R413): a host write, or a peer's, arrives at a port that is up, and a part of what has arrived
lands. Bytes outside device memory, and all of them while READY = 0, are discarded. Without bytes nothing new arrives. -/
def execHostWrite (w : HostTo) (bytes : List Byte) (s : State) : Host.Outcome State Fault Refusal :=
  let new := if s.ready && s.portUp w.port then sectorParts s.nextId w.relaxed (bytes.length / 32 + 2) w.x (bytes.take (deviceSize - w.x)) else []
  let s := { s with nextId := s.nextId + 1 }
  .next ((s.modPort w.port fun (p : Port) => { p with writes := p.writes ++ new }).landHost w.port).idle

/-- Whether a request of a host through a port is applied now: the port is up, and the writes that the host made before it have
landed (R220, R404). -/
def State.heard (s : State) (port : Nat) : Bool := s.portUp port && (((s.ports[port]?).map (·.writes)).getD []).isEmpty

/-- A read of device memory through a port goes on with one sector: n bytes are left at x (R130, R217, R221). -/
def State.readPart (s : State) (port x n : Nat) : State :=
  let k := piece x n
  let bad := s.poisoned x
  let s := s.modPort port fun (p : Port) =>
    { p with rd := if k < n then some (x + k, n - k) else none, rgot := p.rgot ++ s.dev.readN x k, rpois := p.rpois || bad }
  match s.ports[port]? with
  | some p => if p.rd.isSome then s else { s with lastRead := p.rgot, lastPois := p.rpois }
  | none => s

/-- DEVSTAT (R413). -/
def State.devstat (s : State) : Nat :=
  (if s.ready then 1 else 0) + (if s.recov then 2 else 0) +
    (s.dies.zipIdx.foldl (fun n d => n + if d.1.berm then 2 ^ (2 + d.2) else 0) 0) +
    (s.ports.zipIdx.foldl (fun n p => n + if p.1.cxl then 2 ^ (6 + p.2) else 0) 0)
/-- What a word of the register block of a port reads (R4, R403, R413): 0 for a write-only or reserved place. -/
def State.regWord (s : State) (p : Port) (off : Nat) : Nat :=
  let part (v : DWord) (base : Nat) : Nat := v.toNat / 2 ^ (8 * (off - base)) % 2 ^ 32
  match off with
  | 0 => s.time % 2 ^ 32
  | 4 => p.tshi.toNat
  | 0x124 => (if p.busy then 1 else 0) + 256 * p.result
  | 0x200 | 0x204 => part p.nrbase 0x200
  | 0x208 => p.nrlog
  | 0x20C => p.nrtail.toNat
  | 0x210 => p.nrhead.toNat
  | 0x300 => s.devstat
  | 0x308 | 0x30C => part s.ctxbase 0x308
  | 0x310 => s.pwrcap
  | _ => if 0x100 ≤ off && off < 0x120 then (p.args.getD ((off - 0x100) / 8) 0).toNat / 2 ^ (8 * (off % 8)) % 2 ^ 32 else 0
/-- A read of TSLO latches TSHI (R403). -/
def State.latchTime (s : State) (port : Nat) : State :=
  s.modPort port fun (p : Port) => { p with tshi := BitVec.ofNat 32 (s.time / 2 ^ 32) }
/-- A read of n bytes at `off` of BAR0 of a port (R4, R403, R413). -/
def State.readRegs (s : State) (port off n : Nat) : State :=
  let s := if off < 4 && 0 < n then s.latchTime port else s
  let p := (s.ports[port]?).getD {}
  { s with lastRead := (List.range n).map fun i => BitVec.ofNat 8 (s.regWord p ((off + i) / 4 * 4) / 2 ^ (8 * ((off + i) % 4))), lastPois := false }

/-- HOST_READ (R4, R9, R130, R221, R403, R413) of n bytes at x: of the registers of a port (BAR 0), or of device memory through it,
sector by sector and after the writes that have arrived there; 0 while READY = 0. A read in progress goes on first. -/
def execHostRead (r : HostFrom) (n : Nat) (s : State) : Host.Outcome State Fault Refusal :=
  if !s.heard r.port then .next s.idle
  else if r.bar = 0 then .next (s.readRegs r.port r.x n).idle
  else if !s.ready then .next { s with lastRead := List.replicate n 0, lastPois := false }.idle
  else
    let rd := ((s.ports[r.port]?).bind (·.rd))
    if !s.portWay r.port (hostDie ((rd.map (·.1)).getD r.x)) then .next s.idle
    else
      match rd with
      | some (y, m) => .next (s.readPart r.port y m).idle
      | none => .next ((s.modPort r.port fun (p : Port) => { p with rgot := [], rpois := false }).readPart r.port r.x n).idle

/-! ## Die resets (R22, R343, R346, R368) -/

/-- Whether engine work that an owner names is still there. -/
def State.owns (s : State) : Owner → Bool
  | .chain k => s.schains.any (·.id == k)
  | .coll k => s.colls.any (·.id == k)
  | .matrix h _ _ => (s.polder? h).isSome
  | .job k => s.jobs.any (·.id == k)
  | .ray k => s.rays.any (·.id == k)
  | .walk k => s.walks.any (·.id == k)
  | .io h _ => (s.polder? h).isSome
  | .trap h => (s.polder? h).isSome
  | .packet _ => true
  | .spill g _ _ => (s.grid? g).isSome
  | .place _ => true
/-- Held accesses of work that is gone are forgotten. -/
def State.dropOrphans (s : State) : State := { s with faults := s.faults.filter fun a => s.owns a.owner }

/-- A packet in hand that may use a die in reset stops its queue with DIES, before its selection (R346). -/
def State.stopInHand (s : State) (d : Nat) (q : Queue) : State :=
  match q.pkt, s.ctx? q.ctx with
  | some p, some c =>
    if (q.st == .waiting || q.st == .ready) && ((c.allowed p.bytes).getD []).contains d then
      (s.stopQueue q 5 p.root).childDone p.parent
    else s
  | _, _ => s
/-- A packet in PLACING that may use a die in reset: its other rings are never placed (R343, R346). -/
def State.stopPlacing (s : State) (d : Nat) (g : Grid) : State :=
  match s.ctx? g.ctx with
  | none => s
  | some c =>
    if g.placed || !((c.allowed g.pkt.bytes).getD []).contains d then s
    else
      let s := s.setGrid { g with placed := true, left := [] }
      match s.queue? g.q with
      | some q => if q.st == .placing && q.pgrid == g.id then s.stopQueue { q with st := .idle } 5 g.pkt.root else s
      | none => s

/-- A tag (R357) unless it names one of some polders. -/
def keepTag (gone : List Nat) (t : Option (Nat × Nat)) : Option (Nat × Nat) := t.filter fun x => !gone.contains x.2
/-- The tags of polders that are gone name nobody any more, wherever their records are: a landing on a retired polder's
barrier is discarded (R227). -/
def State.dropTags (s : State) (gone : List Nat) : State :=
  { s with
    polders := s.polders.map fun (p : Polder) => { p with tags := p.tags.filter fun x => !gone.contains x.2 },
    saved := s.saved.map fun (z : Saved) => { z with p := { z.p with tags := z.p.tags.filter fun x => !gone.contains x.2 } },
    bins := s.bins.map fun (b : Bin) => { b with recs := b.recs.map fun (r : GRec) => { r with tag := keepTag gone r.tag } },
    spills := s.spills.map fun (x : Spill) => { x with held := x.held.map fun m => (m.1, m.2.1, keepTag gone m.2.2) } }

/-- A DIE RESET (R368): the die leaves service; the polders on it retire without effect and lose their state, with the engine
work of the die; the queues whose packets may use it stop; commands that touch it end with RESET (R409); and each context that
binds it gets a die-reset notice. Memory homed on it keeps its bytes (R22). -/
def State.resetDie (s : State) (d : Nat) : State :=
  if s.dieDown d || s.dies.length ≤ d then s
  else
    let gone := s.polders.filter (·.die == d)
    let hs := gone.map (·.h)
    let late := gone.filterMap (·.stopReq) ++ (s.saves.filter fun x => hs.contains x.1).map (·.2)
    let s := (gone.foldl (fun s p => (s.freeRecord p).dropPolder p.h) s).dropTags hs
    let s := late.foldl State.noTarget { s with saves := s.saves.filter fun x => !hs.contains x.1 && !hs.contains x.2.h }
    let s := (s.modDie d fun x => { x with reset := true, throttled := false })
    let s := { s with
      schains := s.schains.filter (·.die != d), colls := s.colls.filter (·.die != d),
      rays := s.rays.filter fun r => dieOf (coreOf r.iss.h) != d, walks := s.walks.filter fun w => dieOf (coreOf w.iss.h) != d,
      grids := s.grids.map fun (g : Grid) =>
        { g with bins := g.bins.filter (dieOf · != d), jobDone := g.jobDone || s.jobs.any fun j => j.grid == some g.id && j.die == d },
      jobs := s.jobs.filter (·.die != d), bins := s.bins.filter (dieOf ·.core != d),
      pending := s.pending.filter (·.die != d), restores := s.restores.filter fun r => dieOf (coreOf r.h) != d,
      reserved := s.reserved.filter fun r => !r.2.2.any (dieOf · == d),
      l1 := s.l1.filter (dieOf ·.owner != d), far := s.far.filter (·.owner != d),
      ports := s.ports.map fun (p : Port) => { p with cmd := p.cmd.map fun (k : Cmd) => if k.dies.contains d then { k with res := 3 } else k } }
    let s := s.dropOrphans
    let s := s.queues.foldl (State.stopInHand · d) s
    let s := s.grids.foldl (State.stopPlacing · d) s
    let s := s.arrive (srcDie d)
    s.ctxs.foldl (fun s c => if c.dies.contains d && !c.dead then s.notice c.c { cls := 3, die := d, ts := s.time, det := 0 } else s) s

/-- DIE_RESET (R22, R368). -/
def execDieReset (d : Nat) (s : State) : Host.Outcome State Fault Refusal := .next (s.resetDie d).idle

/-- DIE_RESET_DONE (R406): the die returns to service and a kind 7 record goes to both rings. In recovery the dies stay in
reset (R416). -/
def execDieResetDone (d : Nat) (s : State) : Host.Outcome State Fault Refusal :=
  if !s.dieDown d || s.recov then .next s.idle
  else
    let s := s.modDie d fun x => { x with reset := false }
    let s := ((s.queues.filter (·.late)).foldl State.writeQueue s).payWrites.payPrefs
    .next { s with ports := s.ports.map fun (p : Port) => p.notify ⟨7, 0, 0, s.time, d, 0⟩ }.idle

/-! ## Commands (R405) -/

/-- A context descriptor outside R366: a reserved bit that is set is one, too (log 78). -/
def descriptorBad (b : List Byte) : Bool :=
  let n := field b 3 3
  let e (v : Nat) : Nat := field b (16 + 8 * v) 8
  let far (lo align : Nat) : Bool := field b lo 64 % align != 0 || !isGlobal (field b lo 64)
  n == 0 || 4 < n || field b 6 10 != 0 || field b 48 16 != 0 || field b 468 44 != 0 || field b 592 432 != 0 ||
    (List.range 4).any (fun v => bits (e v) 2 5 != 0 || (decide (n ≤ v) && e v != 0)) ||
    far 192 4096 || far 256 256 || far 320 16384 || far 384 (2 ^ 21) || far 512 4096 || field b 576 16 == 0
/-- The context that a descriptor gives (R366). -/
def ctxOf (c port : Nat) (b : List Byte) : Ctx :=
  let e (v : Nat) : Nat := field b (16 + 8 * v) 8
  { c := c, vdt := (List.range (field b 3 3)).map fun v => if bit (e v) 7 then some (e v % 4) else none,
    vdtw := BitVec.ofNat 32 (field b 16 32), ptroot := field b 64 64, asid := field b 128 32, quota := BitVec.ofNat 32 (field b 160 25),
    qtab := field b 192 64, tvec := field b 256 64, tring := field b 320 64, upool := field b 384 64, upnum := field b 448 16,
    dlog := field b 512 64, dlogn := field b 576 16, port := port, evc := [0, 0, 0] }
/-- CSTATE of a context's descriptor written (R366). -/
def State.putState (s : State) (c st : Nat) : State :=
  let a := s.ctxbase.toNat + 128 * c
  s.writeHome 0 a (leBytes 1 ((s.dev.read a).toNat / 8 * 8 + st)) none false

/-- DBG and HOLD of a context's descriptor at its activation: the CSRs start at 0 (R366, R385; log 81). -/
def State.putFlags (s : State) (c : Nat) : State := s.writeHome 0 (s.ctxbase.toNat + 128 * c + 58) (leBytes 1 0) none false

/-- CTXACT: FREE to ACTIVE (R367). The first context of an address space starts its generation at 0 (R397). -/
def State.activate (s : State) (port c : Nat) : State × Nat :=
  if s.ctxbase = 0 || (s.ctx? c).isSome then (s, 2)
  else
    let b := s.dev.readN (s.ctxbase.toNat + 128 * c) 128
    if descriptorBad b then (s, 1)
    else
      let x := ctxOf c port b
      let s := if s.ctxs.any (·.asid == x.asid) then s
        else { s with gens := SMap.set 0 s.gens x.asid 0, tlb := s.tlb.filter (·.asid != x.asid) }
      (((s.setCtx x).putState c 1).putFlags c, 0)

/-- CTXFREE (R367): the context is FREE; its queues are unbound and its polders retire. Nothing of it remains in the device but
its sluice chains, which run to completion under its page tables (R21). -/
def State.freeCtx (s : State) (c : Nat) : State :=
  let gone (g : Nat) : Bool := s.grids.any fun x => x.id == g && x.ctx == c
  let hs := (s.polders.filter (·.ctx == c)).map (·.h)
  let was := (s.ctx? c).map fun x => { x with c := noCtx, dead := true }
  let s := s.forget c
  let s := hs.foldl (fun s h => (s.quench h noCtx).modPolder h fun p => { p with grid := none }) s
  let s := { s with
    ctxs := s.ctxs.filter (·.c != c), queues := s.queues.filter (·.ctx != c),
    rays := s.rays.filter (fun r => !hs.contains r.iss.h), walks := s.walks.filter (fun w => !hs.contains w.iss.h),
    saved := (s.saved.filter fun (z : Saved) => z.p.ctx != c || s.schains.any fun k => k.iss.h == z.p.h).map fun (z : Saved) =>
      if z.p.ctx = c then { z with p := { z.p with ctx := noCtx } } else z,
    restores := s.restores.filter (·.ctx != c), pending := s.pending.filter (·.ctx != c),
    schains := s.schains.map fun (k : SChain) => if k.ctx = c then { k with ctx := noCtx, cx := was } else k, colls := s.colls.filter (·.ctx != c),
    jobs := s.jobs.filter (·.ctx != c), grids := s.grids.filter (·.ctx != c), bins := s.bins.filter (!gone ·.grid),
    spills := s.spills.filter (!gone ·.grid), faults := s.faults.filterMap fun (a : Fault400) =>  -- a chain's has been ended (R400)
      if a.ctx ≠ c then some a
      else match a.owner with
        | .chain _ => some { a with ctx := noCtx, ended := true }
        | _ => none }
  s.putState c 0

/-- The context of a command, when it is not FREE and was activated through this port. -/
def State.cmdCtx (s : State) (port c : Nat) : Option Ctx := (s.ctx? c).filter (·.port == port)

/-- HALTEND (R405): the halt of a held trap record ends as TRAPRET would end it; the record becomes free. -/
def State.endHalt (s : State) (x : Ctx) (t act : Nat) : State × Nat :=
  match x.recs.find? (·.1 == t) with
  | none => (s, 2)
  | some (_, u) =>
    match s.byUid u with
    | none => (s, 2)
    | some p =>
      let h := p.h
      if p.halt.isNone then (s, 2)
      else
        let free (s : State) : State := match s.ctx? x.c with
          | some y => s.setCtx { y with recs := y.recs.filter (·.1 != t) }
          | none => s
        match actionOf act with
        | 1 =>
          match s.gread x atHome 0 4 (x.tring + 64 * t) 64 with
          | .error _ => (s, 1)
          | .ok (r, _) =>
            let rpc := field r 352 32
            if validSlot rpc then (free (s.resumePolder h 1 (BitVec.ofNat 32 rpc)), 0) else (s, 1)
        | a => (free (s.resumePolder h a 0), 0)

/-- Whether a command's arguments have a bit outside the named fields, or its code is outside the table (R405). -/
def argsBad (code a0 a1 a2 a3 : Nat) : Bool :=
  match code with
  | 1 | 2 => 4096 ≤ a0 || a1 != 0 || a2 != 0 || a3 != 0
  | 3 => 4096 ≤ a0 || 2 ^ 15 ≤ a1 % 2 ^ 31 || 2 ^ 32 ≤ a1 || a2 != 0 || a3 != 0
  | 4 => 2 ^ 32 ≤ a0 || a1 != 0 || a2 != 0 || a3 != 0
  | 5 => 4096 ≤ a0 || a1 % 2 ^ 16 != 0 || a2 != 0 || a3 != 0
  | 6 => 4096 ≤ a0 || 256 ≤ a1 || 4 ≤ a2 || a3 != 0
  | 7 => 4 ≤ a0 || a1 != 0 || a2 != 0 || a3 != 0
  | _ => true

/-- The dies that a command touches (R409): those its context binds, or will bind; for HALTEND the die of the halted polder. -/
def State.cmdDies (s : State) (code a0 a1 : Nat) : List Nat :=
  match code with
  | 1 => (ctxOf a0 0 (s.dev.readN (s.ctxbase.toNat + 128 * a0) 128)).dies
  | 2 | 3 | 5 => ((s.ctx? a0).map Ctx.dies).getD []
  | 4 => ((s.ctxs.filter (·.asid == a0)).flatMap Ctx.dies).eraseDups
  | 6 => (((s.ctx? a0).bind fun x => x.recs.find? (·.1 == a1)).map fun r => ((s.byUid r.2).map Polder.die).toList).getD []
  | _ => [a0]

/-- The effect of a command of code 1 to 7 whose arguments are good, with its RESULT (R405). -/
def State.runCmd (s : State) (port code a0 a1 a2 : Nat) : State × Nat :=
  match code, s.cmdCtx port a0 with
  | 1, _ => s.activate port a0
  | 4, _ => if s.ctxs.any (·.asid == a0) then (s.raiseGen a0, 0) else (s, 2)
  | 7, _ => (s.resetDie a0, 0)
  | 2, some _ => (s.freeCtx a0, 0)
  | 3, some x =>
    if x.dead && a1 < 2 ^ 31 then (s, 2)
    else
      let r := if 2 ^ 31 ≤ a1 then s.unbindQueue a0 (a1 % 2 ^ 15) else s.bindQueue a0 a1
      (State.setQbstat r a0, if r.2 = 0 then 0 else if r.2 = 3 then 2 else 1)
  | 5, some _ =>
    ({ s with faults := s.faults.map fun (f : Fault400) => if f.ctx = a0 ∧ f.va = a1 then { f with ended := true } else f }, 0)
  | 6, some x => s.endHalt x a1 a2
  | _, _ => (s, 2)

/-- A write of CMD with the arguments that CMDARG0 to CMDARG3 hold (R403, R405, R409, R413): ignored while BUSY. -/
def State.command (s : State) (port code : Nat) : State :=
  match s.ports[port]? with
  | none => s
  | some p =>
    if p.busy then s
    else
      let s := s.arrive (srcPort port)
      let arg (i : Nat) : Nat := (p.args.getD i 0).toNat
      let ds := s.cmdDies code (arg 0) (arg 1)
      let (s, res) : State × Nat :=
        if !s.ready then (s, 2)
        else if code = 1 && s.ctxbase == 0 then (s, 2)
        else if argsBad code (arg 0) (arg 1) (arg 2) (arg 3) then (s, 1)
        else if ds.any s.dieDown then (s, 3)
        else s.runCmd port code (arg 0) (arg 1) (arg 2)
      s.modPort port fun p =>
        { p with busy := true, cmd := some { code := code, obj := arg 0, gen := s.gen (arg 0), res := res, dies := if code = 7 || res ≠ 0 then [] else ds } }
/-- CMDARG0 to CMDARG3 written, then CMD, when the port takes them. -/
def State.commandWith (s : State) (port code : Nat) (args : List Nat) : State :=
  match s.ports[port]? with
  | none => s
  | some p =>
    if p.busy || !s.heard port then s
    else
      (s.modPort port fun p => { p with args := (List.range 4).map fun i => BitVec.ofNat 64 (args.getD i 0) }).command port code

/-- CTXACT (R405). -/
def execCtxact (port c : Nat) (s : State) : Host.Outcome State Fault Refusal := .next (s.commandWith port 1 [c]).idle
/-- CTXFREE (R405). -/
def execCtxfree (port c : Nat) (s : State) : Host.Outcome State Fault Refusal := .next (s.commandWith port 2 [c]).idle
/-- QBIND_BIND (R405). -/
def execQbindBind (port c q : Nat) (s : State) : Host.Outcome State Fault Refusal := .next (s.commandWith port 3 [c, q]).idle
/-- QBIND_UNBIND (R405): ARG1[31] is set. -/
def execQbindUnbind (port c q : Nat) (s : State) : Host.Outcome State Fault Refusal :=
  .next (s.commandWith port 3 [c, q + 2 ^ 31]).idle
/-- ASGEN_COMMAND (R398, R405). -/
def execAsgenCommand (port asid : Nat) (s : State) : Host.Outcome State Fault Refusal := .next (s.commandWith port 4 [asid]).idle
/-- FAULTEND (R400, R405). -/
def execFaultend (port c va : Nat) (s : State) : Host.Outcome State Fault Refusal := .next (s.commandWith port 5 [c, va]).idle
/-- HALTEND (R405). -/
def execHaltend (port c tself act : Nat) (s : State) : Host.Outcome State Fault Refusal :=
  .next (s.commandWith port 6 [c, tself, act]).idle
/-- DIERESET (R405). -/
def execDiereset (port die : Nat) (s : State) : Host.Outcome State Fault Refusal := .next (s.commandWith port 7 [die]).idle

/-- Whether the effect of a command is complete: ASGEN waits for older accesses (R398), DIERESET for its die. -/
def State.cmdDone (s : State) (k : Cmd) : Bool :=
  k.res != 0 || (if k.code = 4 then s.genDrained k.obj k.gen else if k.code = 7 then !s.dieDown k.obj else true)
/-- COMMAND_COMPLETE (R405): RESULT is written, then BUSY clears. -/
def execCommandComplete (port : Nat) (s : State) : Host.Outcome State Fault Refusal :=
  match (s.ports[port]?).bind (·.cmd) with
  | none => .next s.idle
  | some k =>
    .next (if s.cmdDone k then s.modPort port fun p => { p with busy := false, result := k.res, cmd := none } else s).idle

/-! ## Registers (R403, R413) -/

/-- TSLO_READ (R403): the read answers the low word and latches the high word. -/
def execTsloRead (port : Nat) (s : State) : Host.Outcome State Fault Refusal :=
  .next (if s.heard port then s.readRegs port 0 4 else s).idle

/-- NRHEAD_WRITE (R406). -/
def execNrheadWrite (port : Nat) (v : Word) (s : State) : Host.Outcome State Fault Refusal :=
  .next (if s.heard port then s.modPort port fun p => { p with nrhead := v } else s).idle

/-- CTXBASE written (R413): ignored while a context is not FREE, and for a value that is not aligned on 512 KiB. -/
def State.setCtxbase (s : State) (v : DWord) : State := if s.ctxs.isEmpty && v.toNat % 2 ^ 19 == 0 then { s with ctxbase := v } else s
/-- CTXBASE_WRITE (R413). -/
def execCtxbaseWrite (w : PortDWord) (s : State) : Host.Outcome State Fault Refusal :=
  .next (if s.heard w.port then (s.arrive (srcPort w.port)).setCtxbase w.v else s).idle

/-- PWRCAP written (R413, R417): a value outside 400 to 700 is ignored. -/
def State.setPwrcap (s : State) (w : Nat) : State := if 400 ≤ w && w ≤ 700 then { s with pwrcap := w } else s
/-- PWRCAP_WRITE (R413, R417). -/
def execPwrcapWrite (w : PortWord) (s : State) : Host.Outcome State Fault Refusal :=
  .next (if s.heard w.port then (s.arrive (srcPort w.port)).setPwrcap w.v.toNat else s).idle

/-- A host doorbell through a port (R403, R413): discarded for a queue that is unbound, disabled, or of a context that this port
did not activate. -/
def State.hostDoorbell (s : State) (port q w : Nat) : State :=
  match (s.queue? q).bind fun x => s.cmdCtx port x.ctx with
  | some _ => if s.ready then s.doorbell q w else s
  | none => s
/-- Whether a host doorbell to a queue can reach the queue's sequencer now (R8, R9, R350). -/
def State.bellWay (s : State) (port q : Nat) : Bool :=
  match (s.queue? q).bind s.seqDie with
  | some d => s.portWay port d
  | none => true
/-- DOORBELL (R344, R403): the host rings queue q through the port that activated its context. A device thread rings it with the closing
store itself (`State.acceptFlit`; log 89). -/
def execDoorbell (q : Nat) (w : Word) (s : State) : Host.Outcome State Fault Refusal :=
  match (s.queue? q).bind fun x => s.ctx? x.ctx with
  | some c => .next (if s.heard c.port && s.bellWay c.port q then s.hostDoorbell c.port q w.toNat else s).idle
  | none => .next s.idle

/-- A 64-bit register with its high word written (R403). -/
def withHigh (r : DWord) (v : DWord) : DWord := BitVec.ofNat 64 (v.toNat % 2 ^ 32 * 2 ^ 32 + r.toNat % 2 ^ 32)

/-- A write to a BAR0 register of a port (R4, R403, R413): read-only and reserved places discard it. At the place of a 64-bit register it
writes all of it, at the place of its high word that word (log 77). -/
def State.writeReg (s : State) (port off : Nat) (v : DWord) : State :=
  match off with
  | 0x120 => s.command port (v.toNat % 2 ^ 8)
  | 0x200 => s.modPort port fun p => { p with nrbase := v }
  | 0x204 => s.modPort port fun p => { p with nrbase := withHigh p.nrbase v }
  | 0x208 =>
    let n := v.toNat % 2 ^ 32
    if n = 0 || (4 ≤ n && n ≤ 16) then s.modPort port fun p => { p with nrlog := n } else s
  | 0x210 => s.modPort port fun p => { p with nrhead := v.setWidth 32 }
  | 0x308 => (s.arrive (srcPort port)).setCtxbase v
  | 0x30C => (s.arrive (srcPort port)).setCtxbase (withHigh s.ctxbase v)
  | 0x310 => (s.arrive (srcPort port)).setPwrcap (v.toNat % 2 ^ 32)
  | _ =>
    if 0x100 ≤ off && off < 0x120 && off % 8 == 0 then s.modPort port fun p => { p with args := setAt p.args ((off - 0x100) / 8) v }
    else if 0x100 ≤ off && off < 0x120 && off % 8 == 4 then s.modPort port fun p => { p with args := modAt p.args ((off - 0x100) / 8) (withHigh · v) }
    else if 0x1000000 ≤ off && off < 0x1400000 && off % 128 == 0x40 then s.hostDoorbell port ((off - 0x1000000) / 128) (v.toNat % 2 ^ 32)
    else s
/-- REGISTER_WRITE (R4, R403). -/
def execRegisterWrite (port off : Nat) (v : DWord) (s : State) : Host.Outcome State Fault Refusal :=
  let bell := 0x1000000 ≤ off && off < 0x1400000
  .next (if s.heard port && (!bell || s.bellWay port ((off - 0x1000000) / 128)) then s.writeReg port off v else s).idle

/-! ## Notifications (R406) -/

/-- The bytes of a notification record. -/
def NRec.bytes (r : NRec) (lost : Nat) : List Byte :=
  leBytes 1 r.kind ++ leBytes 1 (min 255 lost) ++ leBytes 2 r.ctx ++ leBytes 4 (r.q % 2 ^ 15) ++ leBytes 8 r.time ++ leBytes 8 r.det0 ++
    leBytes 8 r.det1 ++ leBytes 32 0

/-- NOTIFICATION_WRITE (R406): the oldest waiting record enters the ring when there is room; then NRTAIL advances, then MSI-X
vector 0 is sent. -/
def execNotificationWrite (port : Nat) (s : State) : Host.Outcome State Fault Refusal :=
  match s.ports[port]? with
  | none => .next s.idle
  | some p =>
    match p.wait with
    | [] => .next s.idle
    | r :: rest =>
      if p.nrlog = 0 || !p.up || 2 ^ p.nrlog ≤ (p.nrtail - p.nrhead).toNat then .next s.idle
      else
        let a := p.nrbase.toNat + 64 * (p.nrtail.toNat % 2 ^ p.nrlog)
        let s := { s with host := Memory.writeN s.host a (r.bytes p.lost) }
        .next (s.modPort port fun p => { p with nrtail := p.nrtail + 1, wait := rest, lost := 0, msix := p.msix + 1 }).idle

/-! ## Die links (R407, R408) and ports (R404) -/

/-- The dies that a link joins (R407). -/
def linkEnds : Nat → Nat × Nat
  | 0 => (0, 1)
  | 1 => (2, 3)
  | 2 => (0, 2)
  | _ => (1, 3)
/-- A link changed. -/
def State.modLink (s : State) (l : Nat) (f : Link → Link) : State := { s with links := modAt s.links l f }

/-- LINK_FLIT_RETRY (R407): the flit is sent again, in order. -/
def execLinkFlitRetry (l : Nat) (s : State) : Host.Outcome State Fault Refusal :=
  .next (s.modLink l fun x => { x with retries := x.retries + 1 }).idle
/-- LINK_RETRAIN_START (R407): traffic waits at the link meanwhile (R8), which changes no result. -/
def execLinkRetrainStart (l : Nat) (s : State) : Host.Outcome State Fault Refusal :=
  .next (s.modLink l fun x => { x with training := true }).idle
/-- LINK_RETRAIN_END (R408): a notice for every ACTIVE context that binds either end die. -/
def execLinkRetrainEnd (l : Nat) (s : State) : Host.Outcome State Fault Refusal :=
  if !((s.links[l]?).getD {}).training then .next s.idle
  else
    let (a, b) := linkEnds l
    let s := (s.modLink l fun x => { x with training := false, fails := 0 }).arrive (srcLink l)
    .next (s.payPrefs.ctxs.foldl (fun s c =>
      if !c.dead && !c.hold && (c.dies.contains a || c.dies.contains b) then s.notice c.c { cls := 2, die := a, ts := s.time, det := l } else s) s.payPrefs).idle
/-- LINK_TRAIN_FAILURE (R408): the third in a row resets the higher-numbered end die. -/
def execLinkTrainFailure (l : Nat) (s : State) : Host.Outcome State Fault Refusal :=
  match s.links[l]? with
  | none => .next s.idle
  | some x =>
    if !x.training then .next s.idle
    else if x.fails < 2 then .next (s.modLink l fun x => { x with fails := x.fails + 1 }).idle
    else .next ((s.modLink l fun x => { x with fails := 0 }).resetDie (linkEnds l).2).idle

/-- HOST_PORT_DOWN (R404). -/
def execHostPortDown (port : Nat) (s : State) : Host.Outcome State Fault Refusal :=
  .next (s.modPort port fun p => { p with up := false }).idle
/-- HOST_PORT_TRAINED (R404). -/
def execHostPortTrained (port : Nat) (s : State) : Host.Outcome State Fault Refusal :=
  .next (s.modPort port fun p => { p with up := true }).payPrefs.idle

end Sys2Proof.Machine
end

