-- ==== Sys2Proof/Machine/Start.lean ====
section
/-! DEFINITION. Start, measurement and power (spec/18_start_trust.md), the reeve's side-band port (spec/17_link.md R409, R411),
and soft errors (spec/05_registers.md R128, R130). Hashes and signatures are opaque (log 9). -/
namespace Sys2Proof.Machine

/-! ## The firmware image (R414) -/

/-- The bytes of an image: none stands for the one that the package was made with. -/
def imageBytes (i : Option (List Byte)) : List Byte := i.getD Config.factoryImage
/-- The body of an image. -/
def imageBody (b : List Byte) : List Byte := (b.drop 4096).take (field b 64 32)
/-- The version of an image. -/
def imageVersion (b : List Byte) : Nat := field b 32 32
/-- Whether an image is valid under a minimum version: magic word, key digest, signature over the body, version. -/
def imageOk (minVersion : Nat) (b : List Byte) : Bool :=
  field b 0 32 == 0x5A393430 && Config.shake256 ((b.drop 12).take 1793) == Config.fuseKeyDigest &&
    Config.imageAuthentic ((b.drop 12).take 3073) (imageBody b) && decide (minVersion ≤ imageVersion b)

/-! ## Package reset (R412, R416) -/

/-- Stages 4 and 5, or recovery: what the fuses and the flash say is kept, and the rest of the device starts anew. Host and
peer memory are not the device's. -/
def State.restart (s : State) (r : Reeve) (ok : Bool) : State :=
  { dies := s.dies.map (fun (d : Die) => { berm := d.berm, reset := !ok }), links := s.links.map fun _ => {},
    ports := s.ports.map (fun (p : Port) => { cxl := p.cxl }), reeve := r, ready := ok, recov := !ok, host := s.host, peer := s.peer,
    free := s.free, sched := s.sched, turn := s.turn, nextId := s.nextId }

/-- A PACKAGE RESET (R412): the image in flash is checked; when it is valid it runs and its measurements are fixed (R415),
otherwise the package goes to recovery (R416). An image that was being written to flash has been written. -/
def State.packageReset (s : State) : State :=
  let r := s.reeve
  let flash := if r.writing.isSome then r.writing else r.flash
  let ok := flash.isNone || imageOk r.minVersion (imageBytes flash)
  s.restart { minVersion := r.minVersion, flash := flash, running := if ok then flash else none, minStart := r.minVersion,
              recovered := r.writing.isSome } ok

/-- PACKAGE_RESET (R412). -/
def execPackageReset (s : State) : Host.Outcome State Fault Refusal := .next s.packageReset.idle
/-- POWER_LOSS (R416): a flash write that was going on leaves no valid image; power-on is a package reset. -/
def execPowerLoss (s : State) : Host.Outcome State Fault Refusal :=
  let r := s.reeve
  let r := if r.writing.isSome then { r with writing := none, flash := some [] } else r
  .next ({ s with reeve := r }.packageReset).idle

/-! ## The side-band port (R409, R411, R415, R416) -/

/-- An answer of the reeve to a request on a path, the side-band port or the DOE mailbox of a host port (R402, R409); `bad`: it is an
error. -/
def State.answerOn (s : State) (port : Option Nat) (b : List Byte) (bad : Bool) : State :=
  match port with
  | none => { s with reeve := { s.reeve with reply := b, replyErr := bad } }
  | some k => s.modPort k fun p => { p with doe := b, doeErr := bad }
/-- An answer on the side-band port. -/
def State.answer (s : State) (b : List Byte) (bad : Bool) : State := s.answerOn none b bad
/-- A request has arrived on the side-band port: it takes its place in the order of R409. -/
def State.asked (s : State) : State := s.arrive srcSide
/-- The path that an SPDM request comes by: the side-band port, or the mailbox of a port that is up (R411; free, log 1). -/
def State.path (s : State) : Option Nat :=
  let ups := (List.range s.ports.length).filter s.portUp
  (ups[s.choose (2 ^ 30) (ups.length + 1)]?)
/-- The place in the order of R409 of a request by a path. -/
def State.askedOn (s : State) (port : Option Nat) : State := s.arrive ((port.map srcPort).getD srcSide)

/-- The configuration record (R415): its layout is open (log 9). -/
def State.configRecord (s : State) : List Byte :=
  Config.fuseCoreMap ++ s.dies.map (fun d => if d.berm then 1 else 0) ++ s.ports.map (fun p => if p.cxl then 1 else 0) ++
    leBytes 4 s.reeve.minStart
/-- A measurement (R415). -/
def State.measurement (s : State) (i : Nat) : Option (List Byte) :=
  match i with
  | 1 => some (Config.shake256 (imageBody (imageBytes s.reeve.running)))
  | 2 => some (Config.shake256 s.configRecord)
  | 3 => some [if s.reeve.recovered then 1 else 0]
  | _ => none
/-- The alias key of the last start (R415): it comes from the fused secret and measurement 1. -/
def State.aliasKey (s : State) : List Byte := Config.aliasKey Config.fuseSecret ((s.measurement 1).getD [])
/-- The certificates of slot 0 (R415): the vendor root, the device certificate, and the alias certificate that the device key issues at
each start. -/
def State.slot0 (s : State) : List (List Byte) :=
  [Config.vendorRoot, Config.deviceCert (Config.deviceKey Config.fuseSecret), Config.aliasCert (Config.deviceKey Config.fuseSecret) s.aliasKey]
/-- An answer signed with the alias key of the running body (R415). -/
def State.signed (s : State) (msg : List Byte) : List Byte := Config.signedReply s.aliasKey s.slot0 msg

/-- MCTP_CONTROL (R409). -/
def execMctpControl (msg : List Byte) (s : State) : Host.Outcome State Fault Refusal :=
  .next (s.asked.answer (Config.mctpReply msg) false).idle
/-- SPDM_GET_MEASUREMENTS (R411, R415): the measurement as a raw bit stream, and the signature; another index is an error. None
has been taken in recovery. -/
def execSpdmGetMeasurements (index : Nat) (s : State) : Host.Outcome State Fault Refusal :=
  let p := s.path
  match if s.recov then none else s.measurement index with
  | some m => .next ((s.askedOn p).answerOn p (m ++ s.signed m) false).idle
  | none => .next ((s.askedOn p).answerOn p [] true).idle
/-- SPDM_MESSAGE (R411). -/
def execSpdmMessage (msg : List Byte) (s : State) : Host.Outcome State Fault Refusal :=
  .next ((s.askedOn s.path).answerOn s.path (s.signed msg) false).idle
/-- TELEMETRY_READ (R409): power and temperature, which no rule gives, and the soft-error counts of each die. -/
def execTelemetryRead (s : State) : Host.Outcome State Fault Refusal :=
  let power := (List.range 12).map fun i => Config.telemetry (s.draw i)
  .next (s.asked.answer (power ++ s.dies.flatMap fun d => leBytes 4 d.corrected ++ (List.range 8).flatMap fun i => leBytes 4 (d.uncorrected.getD i 0)) false).idle
/-- SET_POWER_CAP (R409, R417): from 400 W to 700 W; an error otherwise, and while the compute dies are down. -/
def execSetPowerCap (w : Word) (s : State) : Host.Outcome State Fault Refusal :=
  let ok := !s.recov && 400 ≤ w.toNat && w.toNat ≤ 700
  .next ((if ok then s.asked.setPwrcap w.toNat else s.asked).answer [] !ok).idle
/-- SIDEBAND_DIE_RESET (R409): an error for a die that does not exist, and while the compute dies are down. -/
def execSidebandDieReset (d : Nat) (s : State) : Host.Outcome State Fault Refusal :=
  let ok := !s.recov && decide (d < s.dies.length)
  .next ((if ok then s.asked.resetDie d else s.asked).answer [] !ok).idle
/-- SIDEBAND_PACKAGE_RESET (R409). -/
def execSidebandPackageReset (s : State) : Host.Outcome State Fault Refusal := .next s.asked.packageReset.idle
/-- RECOVERY_IMAGE_LOAD (R416): a valid image is written to flash, and PACKAGE_RESET follows; an invalid one changes nothing. -/
def execRecoveryImageLoad (image : List Byte) (s : State) : Host.Outcome State Fault Refusal :=
  let s := s.asked
  if imageOk s.reeve.minVersion image then .next ({ s with reeve := { s.reeve with writing := some image } }.answer [] false).idle
  else .next (s.answer [] true).idle
/-- RAISE_MIN_VERSION (R414): never past the version of the running image, and never down. -/
def execRaiseMinVersion (v : Word) (s : State) : Host.Outcome State Fault Refusal :=
  let s := s.asked
  let ok := !s.recov && decide (v.toNat ≤ imageVersion (imageBytes s.reeve.running))
  let r := if ok then { s.reeve with minVersion := max s.reeve.minVersion v.toNat } else s.reeve
  .next ({ s with reeve := r }.answer [] !ok).idle

/-! ## Power and temperature (R417) -/

/-- POWER_WINDOW: issue slots and engine steps are withheld to hold the mean power; only timing changes. -/
def execPowerWindow (s : State) : Host.Outcome State Fault Refusal := .next s.idle
/-- THERMAL_THROTTLE: a die at 105 °C is throttled. -/
def execThermalThrottle (d : Nat) (s : State) : Host.Outcome State Fault Refusal :=
  .next (s.modDie d fun x => { x with throttled := true }).idle
/-- THERMAL_THROTTLE_END: it falls below 100 °C. -/
def execThermalThrottleEnd (d : Nat) (s : State) : Host.Outcome State Fault Refusal :=
  .next (s.modDie d fun x => { x with throttled := false }).idle
/-- THERMAL_DIE_RESET: a die at 115 °C is reset under R22 and R368. -/
def execThermalDieReset (d : Nat) (s : State) : Host.Outcome State Fault Refusal := .next (s.resetDie d).idle

/-! ## Soft errors (R128, R130) -/

/-- SOFT_ERROR_CORRECTED: counted in the telemetry of its die. -/
def execSoftErrorCorrected (die : Nat) (s : State) : Host.Outcome State Fault Refusal :=
  .next (s.modDie die fun d => { d with corrected := d.corrected + 1 }).idle

/-- A fascine's registers with a word poisoned and its value unpredictable. -/
def poisonRegs (r : Regs) (free : Nat → Word) : ErrLoc → Regs
  | .vword _ _ n t => { r with vb := r.vb.map fun (b : VBind) =>
      if b.name = n.val then { b with pois := b.pois ||| BitVec.ofNat 16 (2 ^ t.val), words := setAt b.words t.val (free 0) } else b }
  | .sreg _ _ n => { r with s := setAt r.s n.val (free 0), spois := setAt r.spois n.val true }
  | .preds _ _ t => { r with preds := setAt r.preds t.val ((free 0).setWidth 8 &&& 0x7F), ppois := r.ppois ||| BitVec.ofNat 16 (2 ^ t.val) }
  | _ => r

/-- 32 unpredictable bytes. -/
def State.freeSector (s : State) : List Byte := (List.range 32).map fun i => Config.freeByte (s.draw i)

/-- The die whose count an error raises; that of device memory, and of no die, is free (log 50). -/
def State.errDie (s : State) : ErrLoc → Nat
  | .vword h _ _ _ => dieOf (coreOf h)
  | .sreg h _ _ => dieOf (coreOf h)
  | .breg h _ => dieOf (coreOf h)
  | .preds h _ _ => dieOf (coreOf h)
  | .scratch h _ => dieOf (coreOf h)
  | .slot h _ _ _ => dieOf (coreOf h)
  | .device _ => s.choose 64 4
  | .l1 core _ => dieOf core
  | .far die _ => die

/-- The memory whose count an error raises: 0 registers and register cache, 1 s-registers, 2 b-registers, 3 predicates,
4 scratchpad, 5 operand memory, 6 L2, 7 GDDR7. A device sector is in either of the last two (log 50). -/
def State.errMem (s : State) : ErrLoc → Nat
  | .vword _ _ _ _ => 0
  | .sreg _ _ _ => 1
  | .breg _ _ => 2
  | .preds _ _ _ => 3
  | .scratch _ _ => 4
  | .slot _ _ _ _ => 5
  | .device _ => 6 + s.choose 65 2
  | .l1 _ _ => 6
  | .far _ _ => 6

/-- An uncorrectable error in sector k of a polder's scratchpad (R130): the barriers that it holds have unpredictable bytes. -/
def Polder.spError (p : Polder) (k : Nat) (free : List Byte) : Polder :=
  let p := p.spWrite (32 * k) free true
  { p with bars := p.bars.zipIdx.map fun x =>
      let o := p.spsize + 16 * x.2
      if o / 32 = k then Bar.ofBytes ((free.drop (o % 32)).take 16) else x.1 }

/-- SOFT_ERROR_UNCORRECTABLE: the word or sector is poisoned and its value is unpredictable; an L1 drops the sector. -/
def execSoftErrorUncorrectable (l : ErrLoc) (s : State) : Host.Outcome State Fault Refusal :=
  let w (i : Nat) : Word := Config.freeWord (s.draw i)
  let die := s.errDie l
  let mem := s.errMem l
  let count (s : State) : State := s.modDie die fun d =>
    { d with uncorrected := (List.range 8).map fun i => d.uncorrected.getD i 0 + if i = mem then 1 else 0 }
  match l with
  | .vword h f _ _ => .next (count (s.modFasc h f fun x => { x with r := poisonRegs x.r w l })).idle
  | .sreg h f _ => .next (count (s.modFasc h f fun x => { x with r := poisonRegs x.r w l })).idle
  | .preds h f _ => .next (count (s.modFasc h f fun x => { x with r := poisonRegs x.r w l })).idle
  | .breg h n => .next (count (s.modPolder h fun p =>
      { p with bpois := setAt p.bpois n.val true })).idle
  | .scratch h k => .next (count (s.modPolder h fun p => p.spError k s.freeSector)).idle
  | .slot h e n k => .next (count (s.modPolder h fun p => { p with engines := p.engines.map fun (x : Engine) =>
      if x.part ≠ e then x else { x with slots := modAt x.slots n fun (y : Slot) =>
        { y with mem := Memory.writeN y.mem (32 * k) s.freeSector, pois := if y.pois.contains (32 * k) then y.pois else 32 * k :: y.pois } } })).idle
  | .device k =>
    .next (count { s with dev := Memory.writeN s.dev (32 * k) s.freeSector, pois := markSector s.pois (32 * k) true }).idle
  | .far d k =>
    .next (count { s with far := s.far.map fun (c : Sector) =>
      if c.owner = d ∧ c.x = 32 * k then { c with bytes := s.freeSector, pois := true } else c }).idle
  | .l1 core k => .next { s with l1 := dropSector (dropSector (dropSector s.l1 core 0 (32 * k)) core 1 (32 * k)) core 2 (32 * k) }.idle

end Sys2Proof.Machine
end

