-- ==== Sys2Proof/Machine/Agenda.lean ====
section
/-! DEFINITION. The steps of the device that may be due in a state, which the default choice takes by turns (log 2). A step
that is not enabled changes nothing, so the list may name more than is due. -/
namespace Sys2Proof.Machine

/-- A step of the device. -/
abbrev DevStep := State → Host.Outcome State Fault Refusal

/-- Steps of fascine i of polder h. -/
def fascAgenda (h i : Nat) (halted : Bool) (f : Fascine) : List DevStep :=
  (if halted && !f.stop.stopped then [execSkidStop h i] else []) ++
  (if f.rejoinHold then [execRejoinHoldExpiry h i] else []) ++
  (if f.r.ents.any (·.wj) then [execRejoinMerge h i] else []) ++
  (f.r.ents.zipIdx.flatMap fun x => match x.1.hold with
    | .codebook _ _ => [execCodebookTableWritten h i x.2]
    | .gridset _ _ => [execGridLatchWritten h i x.2]
    | .asgen _ _ => [execAsgenDrainComplete h i x.2]
    | _ => []) ++
  (f.chains.map fun c => execChainDrainComplete h i c.id) ++
  (f.ops.flatMap fun o => match o.kind with
    | .load _ _ => [execLoadDataReturn h i o.id]
    | .store => execStoreAccept h i o.id :: if o.acc.any (·.loc.isCulvert) then [execCulvertFlitAccept h i o.id] else []
    | .atomic _ _ => [execAtomicPerform h i o.id]
    | .copy _ _ _ _ => [execCpysComplete h i o.id]
    | .status _ => [execLoadDataReturn h i o.id])

/-- Steps of a matrix engine of polder h. -/
def engineAgenda (h : Nat) (e : Engine) : List DevStep :=
  e.q.flatMap fun o => if o.kind = 0 then [execSlotLoadComplete h e.part o.a]
    else if !o.running then [execMatrixOpStart h e.part o.a]
    else [execMatrixBlockCommit h e.part o.a, execMatrixOpComplete h e.part o.a]

/-- Steps of a polder. -/
def polderAgenda (p : Polder) : List DevStep :=
  (if p.life = PLife.draining then [execPolderRetire p.h] else []) ++
  (match p.halt with
   | some x => if x.tself.isNone then [execTrapDelivery p.h] else []
   | none => []) ++
  (if p.stopReq.isSome then [execPolderStopComplete p.h] else []) ++
  (p.io.flatMap fun c => if c.run = 0 then [execInletCoreStart p.h c.k] else if c.run = 1 then [execInletCoreInstruction p.h c.k] else []) ++
  ((List.range p.ranks.length).flatMap fun r => [execVoterkRoundComplete p.h r, execRegroupRoundComplete p.h r]) ++
  (p.engines.flatMap (engineAgenda p.h)) ++ (p.fs.zipIdx.flatMap fun x => fascAgenda p.h x.2 p.halt.isSome x.1) ++
  (if p.fs.any (fun f => f.ops.any fun o => !o.sent) then [execGatherWindowTimeout p.core] else [])

/-- Steps of the engines that a die's polders share. -/
def State.sharedAgenda (s : State) : List DevStep :=
  (s.schains.flatMap fun k => [execSluiceRecordTake k.id, execSluiceRecordComplete k.id] ++ if k.kill then [execSluiceKillStop k.id] else []) ++
  (s.colls.flatMap fun x => [execCollMatch (field x.desc 96 32) (field x.desc 384 32),
    execCollComplete (field x.desc 96 32) (field x.desc 384 32), execCollTimeout x.id]) ++
  (s.jobs.flatMap fun j => [execJobStart j.id, execReclaim j.id] ++ (j.plan.map fun x => execFenceReady j.id (x.1.headD 0)) ++
    [execFenceReady j.id 0, execJobEnd j.id]) ++
  (s.rays.map fun r => if r.parked then execRayParkRecheck r.id else execRayComplete r.id) ++
  (s.walks.map fun w => execMarchUnitThreadEnd w.id)

/-- Steps of the sequencers and the contexts. -/
def State.queueAgenda (s : State) : List DevStep :=
  (s.queues.flatMap fun q => [execPacketFetch q.q, execPacketSelect q.q]) ++
  (s.grids.flatMap fun g => [execRingPlace g.id, execTailChildStart g.id, execPacketComplete g.id]) ++
  (s.pending.map fun x => execRingPlace x.id) ++ (s.restores.map fun x => execRestorePlace x.id) ++
  (s.ctxs.flatMap fun c => if c.evq.isEmpty then [] else [execEventPacketWrite c.c]) ++
  (s.bins.map fun b => execBinTimerExpiry b.core b.grid b.node) ++
  (s.spills.flatMap fun x => [execSpillwayPlace x.grid x.node x.part, execSpillwayTimerExpiry x.grid x.node x.part])

/-- Steps of the ports, the dies and the reeve. -/
def State.portAgenda (s : State) : List DevStep :=
  ((List.range s.faults.length).map execEngineFaultRetry) ++
  (s.ports.zipIdx.flatMap fun x => (if x.1.writes.isEmpty then [] else [execHostWrite ⟨x.2, 0, false⟩ []]) ++
    (match x.1.rd with
     | some r => [execHostRead ⟨x.2, 1, r.1⟩ r.2]
     | none => []) ++ (if x.1.busy then [execCommandComplete x.2] else []) ++ if x.1.wait.isEmpty then [] else [execNotificationWrite x.2]) ++
  (s.links.zipIdx.flatMap fun x => if x.1.training then [execLinkRetrainEnd x.2] else []) ++
  (s.dies.zipIdx.flatMap fun x => if x.1.reset && !s.recov then [execDieResetDone x.2] else []) ++
  (if s.reeve.writing.isSome then [execPackageReset] else [])

/-- All of them but the ends of sleeps. -/
def State.agenda (s : State) : List DevStep := s.polders.flatMap polderAgenda ++ s.sharedAgenda ++ s.queueAgenda ++ s.portAgenda

/-- The ends of sleeps (R174). The default choice takes one when no sub-group may issue, and else only once in a while: a
candidate issues within 4096 beats (R165), so sleeps of many beats outlast the issues of others. -/
def State.sleepAgenda (s : State) : List DevStep :=
  s.polders.flatMap fun p => p.fs.zipIdx.flatMap fun f => f.1.r.ents.zipIdx.flatMap fun e =>
    if e.1.sleep = 0 then [] else [execSleepExpiry p.h f.2 e.2]

end Sys2Proof.Machine
end

