-- ==== Sys2Proof/Machine/Dispatch.lean ====
section
/-! DEFINITION. The meaning of every step: one arm per row of spec/opcode_table.json. -/
namespace Sys2Proof.Machine

/-- The outcome of one row of the opcode table. -/
def exec (i : Instr) (s : State) : Host.Outcome State Fault Refusal :=
  match i with
  | .nop => Sys2Proof.Machine.execNop s
  | .bra x1 => Sys2Proof.Machine.execBra x1 s
  | .brc x1 x2 => Sys2Proof.Machine.execBrc x1 x2 s
  | .dbnz x1 x2 => Sys2Proof.Machine.execDbnz x1 x2 s
  | .brx x1 => Sys2Proof.Machine.execBrx x1 s
  | .call x1 => Sys2Proof.Machine.execCall x1 s
  | .callx x1 => Sys2Proof.Machine.execCallx x1 s
  | .ret => Sys2Proof.Machine.execRet s
  | .exit => Sys2Proof.Machine.execExit s
  | .yield => Sys2Proof.Machine.execYield s
  | .mode x1 => Sys2Proof.Machine.execMode x1 s
  | .modex x1 x2 x3 => Sys2Proof.Machine.execModex x1 x2 x3 s
  | .lit x1 x2 => Sys2Proof.Machine.execLit x1 x2 s
  | .lith x1 x2 => Sys2Proof.Machine.execLith x1 x2 s
  | .waitc x1 x2 x3 x4 => Sys2Proof.Machine.execWaitc x1 x2 x3 x4 s
  | .waitf x1 => Sys2Proof.Machine.execWaitf x1 s
  | .trap x1 => Sys2Proof.Machine.execTrap x1 s
  | .bkpt x1 => Sys2Proof.Machine.execBkpt x1 s
  | .regroup x1 x2 x3 => Sys2Proof.Machine.execRegroup x1 x2 x3 s
  | .qfill => Sys2Proof.Machine.execQfill s
  | .demote => Sys2Proof.Machine.execDemote s
  | .sleep x1 => Sys2Proof.Machine.execSleep x1 s
  | .trapret => Sys2Proof.Machine.execTrapret s
  | .halt => Sys2Proof.Machine.execHalt s
  | .add x1 x2 x3 => Sys2Proof.Machine.execAdd x1 x2 x3 s
  | .sub x1 x2 x3 => Sys2Proof.Machine.execSub x1 x2 x3 s
  | .mul x1 x2 x3 => Sys2Proof.Machine.execMul x1 x2 x3 s
  | .mad x1 x2 x3 => Sys2Proof.Machine.execMad x1 x2 x3 s
  | .msb x1 x2 x3 => Sys2Proof.Machine.execMsb x1 x2 x3 s
  | .nmad x1 x2 x3 => Sys2Proof.Machine.execNmad x1 x2 x3 s
  | .nmsb x1 x2 x3 => Sys2Proof.Machine.execNmsb x1 x2 x3 s
  | .min x1 x2 x3 => Sys2Proof.Machine.execMin x1 x2 x3 s
  | .max x1 x2 x3 => Sys2Proof.Machine.execMax x1 x2 x3 s
  | .abs x1 x2 => Sys2Proof.Machine.execAbs x1 x2 s
  | .neg x1 x2 => Sys2Proof.Machine.execNeg x1 x2 s
  | .div x1 x2 x3 => Sys2Proof.Machine.execDiv x1 x2 x3 s
  | .sqrt x1 x2 => Sys2Proof.Machine.execSqrt x1 x2 s
  | .rcp x1 x2 => Sys2Proof.Machine.execRcp x1 x2 s
  | .rsq x1 x2 => Sys2Proof.Machine.execRsq x1 x2 s
  | .exp2 x1 x2 => Sys2Proof.Machine.execExp2 x1 x2 s
  | .log2 x1 x2 => Sys2Proof.Machine.execLog2 x1 x2 s
  | .sin x1 x2 => Sys2Proof.Machine.execSin x1 x2 s
  | .cos x1 x2 => Sys2Proof.Machine.execCos x1 x2 s
  | .dot2 x1 x2 x3 => Sys2Proof.Machine.execDot2 x1 x2 x3 s
  | .dot4 x1 x2 x3 => Sys2Proof.Machine.execDot4 x1 x2 x3 s
  | .lerp x1 x2 x3 => Sys2Proof.Machine.execLerp x1 x2 x3 s
  | .clamp x1 x2 x3 => Sys2Proof.Machine.execClamp x1 x2 x3 s
  | .frac x1 x2 => Sys2Proof.Machine.execFrac x1 x2 s
  | .roundi x1 x2 => Sys2Proof.Machine.execRoundi x1 x2 s
  | .cvt x1 x2 x3 => Sys2Proof.Machine.execCvt x1 x2 x3 s
  | .sat x1 x2 => Sys2Proof.Machine.execSat x1 x2 s
  | .scale x1 x2 x3 => Sys2Proof.Machine.execScale x1 x2 x3 s
  | .cmp x1 x2 x3 => Sys2Proof.Machine.execCmp x1 x2 x3 s
  | .cmps x1 x2 x3 => Sys2Proof.Machine.execCmps x1 x2 x3 s
  | .sel x1 x2 x3 => Sys2Proof.Machine.execSel x1 x2 x3 s
  | .classT x1 x2 => Sys2Proof.Machine.execClassT x1 x2 s
  | .chopen x1 => Sys2Proof.Machine.execChopen x1 s
  | .chdec x1 x2 x3 => Sys2Proof.Machine.execChdec x1 x2 x3 s
  | .chclose x1 => Sys2Proof.Machine.execChclose x1 s
  | .chcancel x1 => Sys2Proof.Machine.execChcancel x1 s
  | .chstat x1 x2 => Sys2Proof.Machine.execChstat x1 x2 s
  | .and x1 x2 x3 => Sys2Proof.Machine.execAnd x1 x2 x3 s
  | .or x1 x2 x3 => Sys2Proof.Machine.execOr x1 x2 x3 s
  | .xor x1 x2 x3 => Sys2Proof.Machine.execXor x1 x2 x3 s
  | .not x1 x2 => Sys2Proof.Machine.execNot x1 x2 s
  | .andn x1 x2 x3 => Sys2Proof.Machine.execAndn x1 x2 x3 s
  | .shl x1 x2 x3 => Sys2Proof.Machine.execShl x1 x2 x3 s
  | .shr x1 x2 x3 => Sys2Proof.Machine.execShr x1 x2 x3 s
  | .sar x1 x2 x3 => Sys2Proof.Machine.execSar x1 x2 x3 s
  | .rol x1 x2 x3 => Sys2Proof.Machine.execRol x1 x2 x3 s
  | .popc x1 x2 => Sys2Proof.Machine.execPopc x1 x2 s
  | .clz x1 x2 => Sys2Proof.Machine.execClz x1 x2 s
  | .ctz x1 x2 => Sys2Proof.Machine.execCtz x1 x2 s
  | .brev x1 x2 => Sys2Proof.Machine.execBrev x1 x2 s
  | .bfe x1 x2 x3 => Sys2Proof.Machine.execBfe x1 x2 x3 s
  | .bfi x1 x2 x3 => Sys2Proof.Machine.execBfi x1 x2 x3 s
  | .prmt x1 x2 x3 => Sys2Proof.Machine.execPrmt x1 x2 x3 s
  | .imulh x1 x2 x3 => Sys2Proof.Machine.execImulh x1 x2 x3 s
  | .lea x1 x2 x3 => Sys2Proof.Machine.execLea x1 x2 x3 s
  | .addc x1 x2 x3 => Sys2Proof.Machine.execAddc x1 x2 x3 s
  | .subb x1 x2 x3 => Sys2Proof.Machine.execSubb x1 x2 x3 s
  | .movpPack x1 => Sys2Proof.Machine.execMovpPack x1 s
  | .movpUnpack x1 => Sys2Proof.Machine.execMovpUnpack x1 s
  | .pand x1 x2 x3 => Sys2Proof.Machine.execPand x1 x2 x3 s
  | .por x1 x2 x3 => Sys2Proof.Machine.execPor x1 x2 x3 s
  | .pxor x1 x2 x3 => Sys2Proof.Machine.execPxor x1 x2 x3 s
  | .pnot x1 x2 => Sys2Proof.Machine.execPnot x1 x2 s
  | .pset x1 x2 => Sys2Proof.Machine.execPset x1 x2 s
  | .isetp x1 x2 x3 => Sys2Proof.Machine.execIsetp x1 x2 x3 s
  | .bmin x1 x2 x3 => Sys2Proof.Machine.execBmin x1 x2 x3 s
  | .mov x1 x2 => Sys2Proof.Machine.execMov x1 x2 s
  | .movs x1 x2 x3 => Sys2Proof.Machine.execMovs x1 x2 x3 s
  | .movb x1 x2 => Sys2Proof.Machine.execMovb x1 x2 s
  | .blease x1 => Sys2Proof.Machine.execBlease x1 s
  | .shfl x1 x2 x3 => Sys2Proof.Machine.execShfl x1 x2 x3 s
  | .shflx x1 x2 x3 => Sys2Proof.Machine.execShflx x1 x2 x3 s
  | .shflup x1 x2 x3 => Sys2Proof.Machine.execShflup x1 x2 x3 s
  | .shfldn x1 x2 x3 => Sys2Proof.Machine.execShfldn x1 x2 x3 s
  | .qswx x1 x2 => Sys2Proof.Machine.execQswx x1 x2 s
  | .qswy x1 x2 => Sys2Proof.Machine.execQswy x1 x2 s
  | .qswd x1 x2 => Sys2Proof.Machine.execQswd x1 x2 s
  | .qbcast x1 x2 x3 => Sys2Proof.Machine.execQbcast x1 x2 x3 s
  | .ddx x1 x2 => Sys2Proof.Machine.execDdx x1 x2 s
  | .ddy x1 x2 => Sys2Proof.Machine.execDdy x1 x2 s
  | .vote x1 x2 x3 => Sys2Proof.Machine.execVote x1 x2 x3 s
  | .matchT x1 x2 => Sys2Proof.Machine.execMatchT x1 x2 s
  | .scanf x1 x2 x3 => Sys2Proof.Machine.execScanf x1 x2 x3 s
  | .redf x1 x2 x3 => Sys2Proof.Machine.execRedf x1 x2 x3 s
  | .voterk x1 x2 x3 => Sys2Proof.Machine.execVoterk x1 x2 x3 s
  | .getsr x1 x2 => Sys2Proof.Machine.execGetsr x1 x2 s
  | .setsr x1 x2 => Sys2Proof.Machine.execSetsr x1 x2 s
  | .time x1 x2 => Sys2Proof.Machine.execTime x1 x2 s
  | .dieq x1 x2 x3 => Sys2Proof.Machine.execDieq x1 x2 x3 s
  | .capq x1 x2 => Sys2Proof.Machine.execCapq x1 x2 s
  | .ld x1 x2 x3 => Sys2Proof.Machine.execLd x1 x2 x3 s
  | .ld2 x1 x2 x3 => Sys2Proof.Machine.execLd2 x1 x2 x3 s
  | .ld4 x1 x2 x3 => Sys2Proof.Machine.execLd4 x1 x2 x3 s
  | .ldb x1 x2 x3 => Sys2Proof.Machine.execLdb x1 x2 x3 s
  | .ldb4 x1 x2 x3 => Sys2Proof.Machine.execLdb4 x1 x2 x3 s
  | .lda x1 x2 x3 => Sys2Proof.Machine.execLda x1 x2 x3 s
  | .st x1 x2 x3 => Sys2Proof.Machine.execSt x1 x2 x3 s
  | .st2 x1 x2 x3 => Sys2Proof.Machine.execSt2 x1 x2 x3 s
  | .st4 x1 x2 x3 => Sys2Proof.Machine.execSt4 x1 x2 x3 s
  | .stl x1 x2 x3 => Sys2Proof.Machine.execStl x1 x2 x3 s
  | .lds x1 x2 x3 => Sys2Proof.Machine.execLds x1 x2 x3 s
  | .lds4 x1 x2 x3 => Sys2Proof.Machine.execLds4 x1 x2 x3 s
  | .sts x1 x2 x3 => Sys2Proof.Machine.execSts x1 x2 x3 s
  | .sts4 x1 x2 x3 => Sys2Proof.Machine.execSts4 x1 x2 x3 s
  | .ldc x1 x2 x3 => Sys2Proof.Machine.execLdc x1 x2 x3 s
  | .pref x1 x2 => Sys2Proof.Machine.execPref x1 x2 s
  | .aadd x1 x2 x3 => Sys2Proof.Machine.execAadd x1 x2 x3 s
  | .amin x1 x2 x3 => Sys2Proof.Machine.execAmin x1 x2 x3 s
  | .amax x1 x2 x3 => Sys2Proof.Machine.execAmax x1 x2 x3 s
  | .aand x1 x2 x3 => Sys2Proof.Machine.execAand x1 x2 x3 s
  | .aor x1 x2 x3 => Sys2Proof.Machine.execAor x1 x2 x3 s
  | .axor x1 x2 x3 => Sys2Proof.Machine.execAxor x1 x2 x3 s
  | .axch x1 x2 x3 => Sys2Proof.Machine.execAxch x1 x2 x3 s
  | .acas x1 x2 x3 => Sys2Proof.Machine.execAcas x1 x2 x3 s
  | .ainc x1 x2 x3 => Sys2Proof.Machine.execAinc x1 x2 x3 s
  | .afadd x1 x2 x3 => Sys2Proof.Machine.execAfadd x1 x2 x3 s
  | .fence x1 x2 => Sys2Proof.Machine.execFence x1 x2 s
  | .gather x1 x2 x3 => Sys2Proof.Machine.execGather x1 x2 x3 s
  | .gather4 x1 x2 x3 => Sys2Proof.Machine.execGather4 x1 x2 x3 s
  | .scatter x1 x2 x3 => Sys2Proof.Machine.execScatter x1 x2 x3 s
  | .scatadd x1 x2 x3 => Sys2Proof.Machine.execScatadd x1 x2 x3 s
  | .binit x1 x2 x3 => Sys2Proof.Machine.execBinit x1 x2 x3 s
  | .barr x1 => Sys2Proof.Machine.execBarr x1 s
  | .bexp x1 x2 => Sys2Proof.Machine.execBexp x1 x2 s
  | .bwait x1 => Sys2Proof.Machine.execBwait x1 s
  | .btry x1 x2 => Sys2Proof.Machine.execBtry x1 x2 s
  | .bsync x1 => Sys2Proof.Machine.execBsync x1 s
  | .bring x1 => Sys2Proof.Machine.execBring x1 s
  | .sluice x1 x2 x3 => Sys2Proof.Machine.execSluice x1 x2 x3 s
  | .slstat x1 x2 => Sys2Proof.Machine.execSlstat x1 x2 s
  | .slkill x1 => Sys2Proof.Machine.execSlkill x1 s
  | .coll x1 x2 => Sys2Proof.Machine.execColl x1 x2 s
  | .cpys x1 x2 x3 => Sys2Proof.Machine.execCpys x1 x2 x3 s
  | .osclaim x1 x2 => Sys2Proof.Machine.execOsclaim x1 x2 s
  | .osrel x1 => Sys2Proof.Machine.execOsrel x1 s
  | .osload x1 x2 => Sys2Proof.Machine.execOsload x1 x2 s
  | .mfmt x1 x2 => Sys2Proof.Machine.execMfmt x1 x2 s
  | .mloop x1 x2 x3 => Sys2Proof.Machine.execMloop x1 x2 x3 s
  | .msparse x1 x2 x3 => Sys2Proof.Machine.execMsparse x1 x2 x3 s
  | .mgust x1 x2 x3 => Sys2Proof.Machine.execMgust x1 x2 x3 s
  | .mdrain x1 x2 x3 => Sys2Proof.Machine.execMdrain x1 x2 x3 s
  | .mzero x1 x2 => Sys2Proof.Machine.execMzero x1 x2 s
  | .mver x1 x2 => Sys2Proof.Machine.execMver x1 x2 s
  | .mwait x1 x2 => Sys2Proof.Machine.execMwait x1 x2 s
  | .mstep x1 x2 => Sys2Proof.Machine.execMstep x1 x2 s
  | .mcbook x1 x2 => Sys2Proof.Machine.execMcbook x1 x2 s
  | .trace x1 x2 x3 => Sys2Proof.Machine.execTrace x1 x2 x3 s
  | .tracea x1 x2 x3 => Sys2Proof.Machine.execTracea x1 x2 x3 s
  | .build x1 x2 => Sys2Proof.Machine.execBuild x1 x2 s
  | .refit x1 x2 => Sys2Proof.Machine.execRefit x1 x2 s
  | .sfence x1 x2 => Sys2Proof.Machine.execSfence x1 x2 s
  | .sready x1 x2 x3 => Sys2Proof.Machine.execSready x1 x2 x3 s
  | .genpin x1 x2 => Sys2Proof.Machine.execGenpin x1 x2 s
  | .genunpin x1 x2 => Sys2Proof.Machine.execGenunpin x1 x2 s
  | .march x1 x2 x3 => Sys2Proof.Machine.execMarch x1 x2 x3 s
  | .mloc x1 x2 x3 => Sys2Proof.Machine.execMloc x1 x2 x3 s
  | .sample x1 x2 x3 => Sys2Proof.Machine.execSample x1 x2 x3 s
  | .gridset x1 x2 => Sys2Proof.Machine.execGridset x1 x2 s
  | .compact x1 x2 => Sys2Proof.Machine.execCompact x1 x2 s
  | .launch x1 x2 => Sys2Proof.Machine.execLaunch x1 x2 s
  | .nodeq x1 x2 x3 => Sys2Proof.Machine.execNodeq x1 x2 x3 s
  | .binflush x1 => Sys2Proof.Machine.execBinflush x1 s
  | .qsigAdd x1 => Sys2Proof.Machine.execQsigAdd x1 s
  | .qsigMax x1 => Sys2Proof.Machine.execQsigMax x1 s
  | .qsigNotify x1 => Sys2Proof.Machine.execQsigNotify x1 s
  | .csrr x1 x2 => Sys2Proof.Machine.execCsrr x1 x2 s
  | .csrw x1 x2 => Sys2Proof.Machine.execCsrw x1 x2 s
  | .savec x1 x2 => Sys2Proof.Machine.execSavec x1 x2 s
  | .restc x1 => Sys2Proof.Machine.execRestc x1 s
  | .dbglogSelect x1 => Sys2Proof.Machine.execDbglogSelect x1 s
  | .dbglogDiscard x1 => Sys2Proof.Machine.execDbglogDiscard x1 s
  | .dbglogWrite x1 => Sys2Proof.Machine.execDbglogWrite x1 s
  | .undo x1 => Sys2Proof.Machine.execUndo x1 s
  | .asgen x1 => Sys2Proof.Machine.execAsgen x1 s
  | .evwait x1 x2 => Sys2Proof.Machine.execEvwait x1 x2 s
  | .unassignedOpcode x1 => Sys2Proof.Machine.execUnassignedOpcode x1 s
  | .reservedFieldWord x1 => Sys2Proof.Machine.execReservedFieldWord x1 s
  | .rejoinMerge x1 x2 => Sys2Proof.Machine.execRejoinMerge x1 x2 s
  | .sleepExpiry x1 x2 x3 => Sys2Proof.Machine.execSleepExpiry x1 x2 x3 s
  | .voterkRoundComplete x1 x2 => Sys2Proof.Machine.execVoterkRoundComplete x1 x2 s
  | .regroupRoundComplete x1 x2 => Sys2Proof.Machine.execRegroupRoundComplete x1 x2 s
  | .chdecDecide x1 x2 x3 x4 => Sys2Proof.Machine.execChdecDecide x1 x2 x3 x4 s
  | .chainDrainComplete x1 x2 x3 => Sys2Proof.Machine.execChainDrainComplete x1 x2 x3 s
  | .loadDataReturn x1 x2 x3 => Sys2Proof.Machine.execLoadDataReturn x1 x2 x3 s
  | .storeAccept x1 x2 x3 => Sys2Proof.Machine.execStoreAccept x1 x2 x3 s
  | .atomicPerform x1 x2 x3 => Sys2Proof.Machine.execAtomicPerform x1 x2 x3 s
  | .culvertFlitAccept x1 x2 x3 => Sys2Proof.Machine.execCulvertFlitAccept x1 x2 x3 s
  | .gatherWindowTimeout x1 => Sys2Proof.Machine.execGatherWindowTimeout x1 s
  | .polderRetire x1 => Sys2Proof.Machine.execPolderRetire x1 s
  | .sluiceRecordTake x1 => Sys2Proof.Machine.execSluiceRecordTake x1 s
  | .sluiceRecordComplete x1 => Sys2Proof.Machine.execSluiceRecordComplete x1 s
  | .sluiceKillStop x1 => Sys2Proof.Machine.execSluiceKillStop x1 s
  | .cpysComplete x1 x2 x3 => Sys2Proof.Machine.execCpysComplete x1 x2 x3 s
  | .collMatch x1 x2 => Sys2Proof.Machine.execCollMatch x1 x2 s
  | .collComplete x1 x2 => Sys2Proof.Machine.execCollComplete x1 x2 s
  | .slotLoadComplete x1 x2 x3 => Sys2Proof.Machine.execSlotLoadComplete x1 x2 x3 s
  | .matrixOpStart x1 x2 x3 => Sys2Proof.Machine.execMatrixOpStart x1 x2 x3 s
  | .matrixBlockCommit x1 x2 x3 => Sys2Proof.Machine.execMatrixBlockCommit x1 x2 x3 s
  | .matrixOpComplete x1 x2 x3 => Sys2Proof.Machine.execMatrixOpComplete x1 x2 x3 s
  | .jobStart x1 => Sys2Proof.Machine.execJobStart x1 s
  | .fenceReady x1 x2 => Sys2Proof.Machine.execFenceReady x1 x2 s
  | .jobEnd x1 => Sys2Proof.Machine.execJobEnd x1 s
  | .reclaim x1 => Sys2Proof.Machine.execReclaim x1 s
  | .rayComplete x1 => Sys2Proof.Machine.execRayComplete x1 s
  | .marchUnitThreadEnd x1 => Sys2Proof.Machine.execMarchUnitThreadEnd x1 s
  | .asgenDrainComplete x1 x2 x3 => Sys2Proof.Machine.execAsgenDrainComplete x1 x2 x3 s
  | .skidStop x1 x2 => Sys2Proof.Machine.execSkidStop x1 x2 s
  | .trapDelivery x1 => Sys2Proof.Machine.execTrapDelivery x1 s
  | .polderStopComplete x1 => Sys2Proof.Machine.execPolderStopComplete x1 s
  | .restorePlace x1 => Sys2Proof.Machine.execRestorePlace x1 s
  | .packetFetch x1 => Sys2Proof.Machine.execPacketFetch x1 s
  | .packetSelect x1 => Sys2Proof.Machine.execPacketSelect x1 s
  | .ringPlace x1 => Sys2Proof.Machine.execRingPlace x1 s
  | .inletCoreStart x1 x2 => Sys2Proof.Machine.execInletCoreStart x1 x2 s
  | .packetComplete x1 => Sys2Proof.Machine.execPacketComplete x1 s
  | .tailChildStart x1 => Sys2Proof.Machine.execTailChildStart x1 s
  | .eventPacketWrite x1 => Sys2Proof.Machine.execEventPacketWrite x1 s
  | .inletCoreInstruction x1 x2 => Sys2Proof.Machine.execInletCoreInstruction x1 x2 s
  | .codebookTableWritten x1 x2 x3 => Sys2Proof.Machine.execCodebookTableWritten x1 x2 x3 s
  | .gridLatchWritten x1 x2 x3 => Sys2Proof.Machine.execGridLatchWritten x1 x2 x3 s
  | .rejoinHoldExpiry x1 x2 => Sys2Proof.Machine.execRejoinHoldExpiry x1 x2 s
  | .candidateUrgent x1 x2 x3 => Sys2Proof.Machine.execCandidateUrgent x1 x2 x3 s
  | .softErrorCorrected x1 => Sys2Proof.Machine.execSoftErrorCorrected x1 s
  | .softErrorUncorrectable x1 => Sys2Proof.Machine.execSoftErrorUncorrectable x1 s
  | .sluiceOwnPoll x1 => Sys2Proof.Machine.execSluiceOwnPoll x1 s
  | .collTimeout x1 => Sys2Proof.Machine.execCollTimeout x1 s
  | .rayParkRecheck x1 => Sys2Proof.Machine.execRayParkRecheck x1 s
  | .engineFaultRetry x1 => Sys2Proof.Machine.execEngineFaultRetry x1 s
  | .doorbell x1 x2 => Sys2Proof.Machine.execDoorbell x1 x2 s
  | .workGraphRecordClose x1 x2 x3 x4 => Sys2Proof.Machine.execWorkGraphRecordClose x1 x2 x3 x4 s
  | .binTimerExpiry x1 x2 x3 => Sys2Proof.Machine.execBinTimerExpiry x1 x2 x3 s
  | .spillwayPlace x1 x2 x3 => Sys2Proof.Machine.execSpillwayPlace x1 x2 x3 s
  | .spillwayTimerExpiry x1 x2 x3 => Sys2Proof.Machine.execSpillwayTimerExpiry x1 x2 x3 s
  | .mailboxPacketClose x1 x2 => Sys2Proof.Machine.execMailboxPacketClose x1 x2 s
  | .inletCoreException x1 x2 x3 x4 => Sys2Proof.Machine.execInletCoreException x1 x2 x3 x4 s
  | .slgoWrite x1 x2 x3 => Sys2Proof.Machine.execSlgoWrite x1 x2 x3 s
  | .slklWrite x1 x2 x3 => Sys2Proof.Machine.execSlklWrite x1 x2 x3 s
  | .mbpopWrite x1 x2 => Sys2Proof.Machine.execMbpopWrite x1 x2 s
  | .timeloRead x1 x2 => Sys2Proof.Machine.execTimeloRead x1 x2 s
  | .hostWrite x1 x2 => Sys2Proof.Machine.execHostWrite x1 x2 s
  | .hostRead x1 x2 => Sys2Proof.Machine.execHostRead x1 x2 s
  | .hostRequestTimeout x1 x2 x3 => Sys2Proof.Machine.execHostRequestTimeout x1 x2 x3 s
  | .ctxact x1 x2 => Sys2Proof.Machine.execCtxact x1 x2 s
  | .ctxfree x1 x2 => Sys2Proof.Machine.execCtxfree x1 x2 s
  | .qbindBind x1 x2 x3 => Sys2Proof.Machine.execQbindBind x1 x2 x3 s
  | .qbindUnbind x1 x2 x3 => Sys2Proof.Machine.execQbindUnbind x1 x2 x3 s
  | .asgenCommand x1 x2 => Sys2Proof.Machine.execAsgenCommand x1 x2 s
  | .faultend x1 x2 x3 => Sys2Proof.Machine.execFaultend x1 x2 x3 s
  | .haltend x1 x2 x3 x4 => Sys2Proof.Machine.execHaltend x1 x2 x3 x4 s
  | .diereset x1 x2 => Sys2Proof.Machine.execDiereset x1 x2 s
  | .commandComplete x1 => Sys2Proof.Machine.execCommandComplete x1 s
  | .tsloRead x1 => Sys2Proof.Machine.execTsloRead x1 s
  | .nrheadWrite x1 x2 => Sys2Proof.Machine.execNrheadWrite x1 x2 s
  | .ctxbaseWrite x1 => Sys2Proof.Machine.execCtxbaseWrite x1 s
  | .pwrcapWrite x1 => Sys2Proof.Machine.execPwrcapWrite x1 s
  | .registerWrite x1 x2 x3 => Sys2Proof.Machine.execRegisterWrite x1 x2 x3 s
  | .notificationWrite x1 => Sys2Proof.Machine.execNotificationWrite x1 s
  | .quotaWrite x1 x2 => Sys2Proof.Machine.execQuotaWrite x1 x2 s
  | .ctxholdHold x1 => Sys2Proof.Machine.execCtxholdHold x1 s
  | .ctxholdRelease x1 => Sys2Proof.Machine.execCtxholdRelease x1 s
  | .csrQbindBind x1 x2 => Sys2Proof.Machine.execCsrQbindBind x1 x2 s
  | .csrQbindUnbind x1 x2 => Sys2Proof.Machine.execCsrQbindUnbind x1 x2 s
  | .dbgctlWrite x1 x2 => Sys2Proof.Machine.execDbgctlWrite x1 x2 s
  | .dbghaltHalt x1 x2 => Sys2Proof.Machine.execDbghaltHalt x1 x2 s
  | .dbghaltResume x1 x2 => Sys2Proof.Machine.execDbghaltResume x1 x2 s
  | .linkFlitRetry x1 => Sys2Proof.Machine.execLinkFlitRetry x1 s
  | .linkRetrainStart x1 => Sys2Proof.Machine.execLinkRetrainStart x1 s
  | .linkRetrainEnd x1 => Sys2Proof.Machine.execLinkRetrainEnd x1 s
  | .linkTrainFailure x1 => Sys2Proof.Machine.execLinkTrainFailure x1 s
  | .dieReset x1 => Sys2Proof.Machine.execDieReset x1 s
  | .dieResetDone x1 => Sys2Proof.Machine.execDieResetDone x1 s
  | .packageReset => Sys2Proof.Machine.execPackageReset s
  | .mctpControl x1 => Sys2Proof.Machine.execMctpControl x1 s
  | .spdmGetMeasurements x1 => Sys2Proof.Machine.execSpdmGetMeasurements x1 s
  | .spdmMessage x1 => Sys2Proof.Machine.execSpdmMessage x1 s
  | .telemetryRead => Sys2Proof.Machine.execTelemetryRead s
  | .setPowerCap x1 => Sys2Proof.Machine.execSetPowerCap x1 s
  | .sidebandDieReset x1 => Sys2Proof.Machine.execSidebandDieReset x1 s
  | .sidebandPackageReset => Sys2Proof.Machine.execSidebandPackageReset s
  | .recoveryImageLoad x1 => Sys2Proof.Machine.execRecoveryImageLoad x1 s
  | .raiseMinVersion x1 => Sys2Proof.Machine.execRaiseMinVersion x1 s
  | .powerWindow => Sys2Proof.Machine.execPowerWindow s
  | .thermalThrottle x1 => Sys2Proof.Machine.execThermalThrottle x1 s
  | .thermalDieReset x1 => Sys2Proof.Machine.execThermalDieReset x1 s
  | .hostPortDown x1 => Sys2Proof.Machine.execHostPortDown x1 s
  | .hostPortTrained x1 => Sys2Proof.Machine.execHostPortTrained x1 s
  | .thermalThrottleEnd x1 => Sys2Proof.Machine.execThermalThrottleEnd x1 s
  | .powerLoss => Sys2Proof.Machine.execPowerLoss s

end Sys2Proof.Machine
end

