-- ==== Sys2Proof/Machine/Step.lean ====
section
/-! DEFINITION. One step of the package: what `sched` names next, else a default choice (log 2); and the placing of one
instruction word where the next step fetches it. -/
namespace Sys2Proof.Machine

/-- A sub-group issues: its word is fetched and decoded, and the instruction executes. -/
def issueOne (s : State) (h f g : Nat) : Host.Outcome State Fault Refusal :=
  match s.prepare h f g with
  | .inl s => .next s
  | .inr (t, w) => s.unlessHeld (exec (decode w) t)

/-- The default choice when `sched` names nothing: by turns a candidate in the order of R164, a candidate in rotation,
and a step of the device's agenda in rotation; when there is no candidate, a step of the agenda. -/
def stepDefault (s : State) : Host.Outcome State Fault Refusal :=
  let s' := { s with turn := s.turn + 1 }
  match (if s.turn % 3 = 0 then s.pick else if s.turn % 3 = 1 then s.rotate (s.turn / 3) else none) with
  | some (h, f, g) => issueOne s' h f g
  | none =>
    let sleeps := if s.turn % 12288 = 2 || (s.turn % 768 = 2 && s.candidates.isEmpty) then s.sleepAgenda else []
    match (if sleeps.isEmpty then s.agenda else sleeps) with
    | [] => .next s'.idle
    | i :: is => s'.unlessHeld ((((i :: is)[s.turn / 3 % (is.length + 1)]?).getD i) s')

/-- One step. -/
def step (s : State) : Host.Outcome State Fault Refusal :=
  let s := s.advance
  match s.sched with
  | .event i :: r => State.unlessHeld { s with sched := r } (exec i { s with sched := r })
  | .cand h f g :: r => issueOne { s with sched := r } h f g
  | [] => stepDefault s

/-- The context that `withFetchWord` runs in: context 0 on die 0, its page table root at 0x10_0000 (R366, R393). -/
def fetchCtx : Ctx := { c := 0, vdt := [some 0], ptroot := 0x100000 }
/-- The one fascine of that program, as placed (R155). -/
def fetchFasc : Fascine :=
  { r := { ents := [{ mask := 0xFFFF, val := true }, {}, {}, {}],
           preds := List.replicate 16 0, s := List.replicate 48 0, spois := List.replicate 48 false },
    chstat := [0, 0, 0, 0], cnt := [0, 0, 0, 0], ts := List.replicate 8 0, snaps := [0, 0, 0, 0], bseen := List.replicate 16 0, bord := List.replicate 16 0 }
/-- Its polder: handle 0 on core 0, code at virtual address 0x40_0000 (R182). -/
def fetchPolder : Polder :=
  { h := 0, ctx := 0, hmask0 := 0, code := 0x400000, cw := List.replicate 16 0, ranks := [(0, 0)], regs := 160,
    breg := List.replicate 16 [], bpois := List.replicate 16 false, brel := List.replicate 16 0,
    glatch := [none, none, none, none], fs := [fetchFasc] }

/-- A program of one instruction placed and running (log 16): an active context whose page tables map its code, a
polder with one fascine at its first slot, a bundle with control word 0 (R29) and the word in slot 1, and that
sub-group next to issue. -/
def State.withFetchWord (s : State) (_nbits w : Nat) : State :=
  let m := Memory.writeN s.dev 0x100000 (leBytes 8 0x200001)
  let m := Memory.writeN m 0x200000 (leBytes 8 0xF)
  let m := Memory.writeN m 0x400000 (leBytes 4 0 ++ leBytes 4 w ++ leBytes 8 0)
  let s := { s with dev := m, tlb := [], far := [], cur := none, sched := [.cand 0 0 0] }
  (s.setCtx fetchCtx).setPolder fetchPolder

end Sys2Proof.Machine
end

