-- ==== Sys2Proof/Safety.lean ====
section
/-! DEFINITION. What a safe run is, and the terms that claims use: what an instruction word asks of its fields, when the
word executes (R59), and the state that its effect leaves. -/
namespace Sys2Proof.Safety

/-- A run of k steps from a state reaches a next state. -/
def RunsFor (k : Nat) (s : Machine.State) : Prop := ∃ t : Machine.State, Host.Core.run core k s = .next t

/-- A step takes a state to a next state, and to which. -/
def Goes (s t : Machine.State) : Prop := Machine.step s = .next t

end Sys2Proof.Safety

namespace Sys2Proof
open Sys2Proof.Machine

/-- The chain member that an instruction is (R94, R107 to R117). -/
def Instr.member? : Instr → Option MIns
  | .add a b c => some { op := .add, a := a, b := some b, c := some c }
  | .sub a b c => some { op := .sub, a := a, b := some b, c := some c }
  | .mul a b c => some { op := .mul, a := a, b := some b, c := some c }
  | .mad a b c => some { op := .mad, a := a, rdA := true, b := some b, c := some c }
  | .msb a b c => some { op := .msb, a := a, rdA := true, b := some b, c := some c }
  | .nmad a b c => some { op := .nmad, a := a, rdA := true, b := some b, c := some c }
  | .nmsb a b c => some { op := .nmsb, a := a, rdA := true, b := some b, c := some c }
  | .min a b c => some { op := .min, a := a, b := some b, c := some c }
  | .max a b c => some { op := .max, a := a, b := some b, c := some c }
  | .abs a b => some { op := .abs, a := a, b := some b }
  | .neg a b => some { op := .neg, a := a, b := some b }
  | .div a b c => some { op := .div, a := a, b := some b, c := some c }
  | .sqrt a b => some { op := .sqrt, a := a, b := some b }
  | .rcp a b => some { op := .rcp, a := a, b := some b }
  | .rsq a b => some { op := .rsq, a := a, b := some b }
  | .exp2 a b => some { op := .exp2, a := a, b := some b }
  | .log2 a b => some { op := .log2, a := a, b := some b }
  | .sin a b => some { op := .sin, a := a, b := some b }
  | .cos a b => some { op := .cos, a := a, b := some b }
  | .dot2 a b c => some { op := .dot2, a := a, rdA := true, b := some b, c := some c }
  | .dot4 a b c => some { op := .dot4, a := a, rdA := true, b := some b, c := some c }
  | .lerp a b c => some { op := .lerp, a := a, rdA := true, b := some b, c := some c }
  | .clamp a b c => some { op := .clamp, a := a, rdA := true, b := some b, c := some c }
  | .frac a b => some { op := .frac, a := a, b := some b }
  | .roundi a b => some { op := .roundi, a := a, b := some b }
  | .cvt a b t => some { op := .cvt, a := a, b := some b, src := t.toNat }
  | .sat a b => some { op := .sat, a := a, b := some b }
  | .scale a b c => some { op := .scale, a := a, b := some b, c := some c }
  | .cmp k b c => some { op := .cmp, p := some k.p, cond := k.cond, comb := k.comb, b := some b, c := some c }
  | .cmps a b c => some { op := .cmps, a := a, b := some b, c := some c }
  | .sel a b c => some { op := .sel, a := a, b := some b, c := some c }
  | .classT a b => some { op := .class, a := a, b := some b }
  | .chdec k b c => some { op := .dec, p := some k.p, cond := k.cond, comb := k.comb, b := some b, c := some c }
  | .chclose a => some { op := .close, a := a, b := some .ch }
  | .chcancel p => some { op := .cancel, q := some p }
  | _ => none

/-- Three register fields: a destination and two sources. -/
def formDSS (a b c : Opnd) : Desc := { a := .d a, b := .s b, c := .s c }
/-- A destination and a source. -/
def formDS (a b : Opnd) : Desc := { a := .d a, b := .s b }
/-- An instruction of the sub-group that ignores its guard and reads no register. -/
def formFree : Desc := { unif := true, guard := false, log := false }
/-- A lane-crossing instruction. -/
def formLane (a b : Opnd) : Desc := { a := .d a, b := .lane b, cross := true }

/-- What an instruction word asks of its fields, and how it is executed: the kinds of its fields (R37), whether it is an
operation of the sub-group (R41) and uses the guard (R42), its privilege (R58), its types (R43). None: no
instruction word, or a word that traps before its fields are looked at (R57, R59). -/
def Instr.form : Instr → Option (V → Desc)
  | .nop => some fun _ => formFree
  | .bra _ => some fun _ => { log := false }
  | .brc p _ => some fun _ => { a := .p p, log := false }
  | .dbnz a _ => some fun _ => { a := .ds a }
  | .brx b => some fun _ => { b := .s b, log := false }
  | .call _ => some fun _ => {}
  | .callx b => some fun _ => { b := .s b }
  | .ret => some fun _ => { log := false }
  | .exit => some fun _ => { exits := true }
  | .yield => some fun _ => formFree
  | .mode i => some fun _ => { formFree with a := .lit (modeOk i) }
  | .modex a b _ => some fun _ => { a := .sreg true a, b := .u b, unif := true, guard := false }
  | .lit a _ => some fun _ => { a := .d a }
  | .lith a _ => some fun _ => { a := .ds a }
  | .waitc _ _ _ _ => some fun _ => formFree
  | .waitf _ => some fun _ => formFree
  | .trap _ => some fun _ => { unif := true, log := false }
  | .bkpt _ => some fun _ => { unif := true, log := false }
  | .regroup a p _ => some fun _ => { a := .vd a, b := .pu p, unif := true }
  | .qfill => some fun _ => { unif := true, log := false }
  | .demote => some fun _ => {}
  | .sleep _ => some fun _ => formFree
  | .trapret => some fun _ => { formFree with priv := true }
  | .halt => some fun _ => { formFree with priv := true }
  | .cvt a b t =>
    some fun v =>
      let d := MIns.desc { op := .cvt, a := a, b := some b, src := if 12 ≤ t.toNat then 0 else t.toNat } v
      if 12 ≤ t.toNat then { d with c := .lit false } else d
  | .chopen n => some fun _ => { a := .lit (1 ≤ n.toNat && n.toNat ≤ 4), unif := true }
  | .chstat a _ => some fun _ => { a := .d a, unif := true }
  | .and a b c => some fun _ => formDSS a b c
  | .or a b c => some fun _ => formDSS a b c
  | .xor a b c => some fun _ => formDSS a b c
  | .not a b => some fun _ => formDS a b
  | .andn a b c => some fun _ => formDSS a b c
  | .shl a b c => some fun _ => formDSS a b c
  | .shr a b c => some fun _ => formDSS a b c
  | .sar a b c => some fun _ => formDSS a b c
  | .rol a b c => some fun _ => formDSS a b c
  | .popc a b => some fun _ => formDS a b
  | .clz a b => some fun _ => formDS a b
  | .ctz a b => some fun _ => formDS a b
  | .brev a b => some fun _ => formDS a b
  | .bfe a b c => some fun _ => formDSS a b c
  | .bfi a b c => some fun _ => { a := .ds a, b := .s b, c := .s c }
  | .prmt a b _ => some fun _ => formDS a b
  | .imulh a b c => some fun _ => formDSS a b c
  | .lea a b _ => some fun _ => { a := .ds a, b := .s b }
  | .addc a b c => some fun _ => formDSS a b c
  | .subb a b c => some fun _ => formDSS a b c
  | .movpPack a => some fun _ => { a := .d a }
  | .movpUnpack b => some fun _ => { b := .s b }
  | .pand _ q r => some fun _ => { b := .p q, c := .p r }
  | .por _ q r => some fun _ => { b := .p q, c := .p r }
  | .pxor _ q r => some fun _ => { b := .p q, c := .p r }
  | .pnot _ q => some fun _ => { b := .p q }
  | .pset _ _ => some fun _ => {}
  | .isetp k b c => some fun _ => { a := .lit !(condFloat k.cond), b := .s b, c := .s c }
  | .bmin a b c => some fun _ => formDSS a b c
  | .mov a b => some fun _ => formDS a b
  | .movs a b _ => some fun _ => { a := .sreg false a, b := .sx b, unif := true }
  | .movb a b =>
    some fun _ =>
      if isB a then { a := .d a, b := if isB b then .lit false else .s b }
      else { a := if isB b then .d a else .lit false, b := .s b }
  | .blease f => some fun v => { c := .lit (decide (f.toNat < v.p.fs.length)), unif := true, log := false }
  | .shfl a b c => some fun _ => { a := .d a, b := .lane b, c := .s c, cross := true }
  | .shflx a b _ => some fun _ => formLane a b
  | .shflup a b _ => some fun _ => formLane a b
  | .shfldn a b _ => some fun _ => formLane a b
  | .qswx a b => some fun _ => formLane a b
  | .qswy a b => some fun _ => formLane a b
  | .qswd a b => some fun _ => formLane a b
  | .qbcast a b _ => some fun _ => formLane a b
  | .ddx a b => some fun _ => { formLane a b with tys := some grpFH }
  | .ddy a b => some fun _ => { formLane a b with tys := some grpFH }
  | .vote a p k => some fun _ => { a := .d a, b := .pu p, c := .lit (k.toNat ≤ 2), unif := true, cross := true }
  | .matchT a b => some fun _ => { a := .d a, b := .s b, cross := true }
  | .scanf a b o =>
    some fun _ => { a := .d a, b := .lane b, c := .lit (o.toNat ≤ 5), cross := true, tys := if o.toNat < 3 then some grpIKFH else none }
  | .redf a b o =>
    some fun _ => { a := .d a, b := .lanex b, c := .lit (o.toNat ≤ 5), unif := true, cross := true,
                    tys := if o.toNat < 3 then some grpIKFH else none }
  | .voterk a p k => some fun _ => { a := .d a, b := .pu p, c := .lit (k.toNat ≤ 2), unif := true, cross := true }
  | .getsr a i => some fun _ => { a := .d a, b := .lit (i.toNat ≤ 7), unif := true }
  | .setsr a i => some fun _ => { a := .u a, b := .lit (i == 0), unif := true, log := false }
  | .time a b => some fun _ => { a := .d a, b := if a == b && a != .zero then .lit false else .d b, unif := true }
  | .dieq a b c => some fun _ => { a := .d a, b := .u b, c := .u c, unif := true }
  | .capq a q => some fun _ => { a := .d a, c := .lit (q.toNat ≤ 10), unif := true }
  | .ld a b _ => some fun _ => { a := .d a, b := .a2 b }
  | .ld2 a b _ => some fun _ => { a := .ed 2 a, b := .a2 b }
  | .ld4 a b _ => some fun _ => { a := .ed 4 a, b := .a2 b }
  | .ldb a b _ => some fun _ => { a := .d a, b := .a2 b }
  | .ldb4 a b _ => some fun _ => { a := .ed 4 a, b := .a2 b }
  | .lda a b _ => some fun _ => { a := .d a, b := .a2 b }
  | .st a b _ => some fun _ => { a := .s a, b := .a2 b }
  | .st2 a b _ => some fun _ => { a := .es 2 a, b := .a2 b }
  | .st4 a b _ => some fun _ => { a := .es 4 a, b := .a2 b }
  | .stl a b _ => some fun _ => { a := .s a, b := .a2 b }
  | .lds a b _ => some fun _ => formDS a b
  | .lds4 a b _ => some fun _ => { a := .ed 4 a, b := .s b }
  | .sts a b _ => some fun _ => { a := .s a, b := .s b }
  | .sts4 a b _ => some fun _ => { a := .es 4 a, b := .s b }
  | .ldc a b _ => some fun _ => formDS a b
  | .pref b _ => some fun _ => { b := .a2 b, log := false }
  | .aadd a b c => some fun _ => { a := .d a, b := .a2 b, c := .s c, tys := some grpI }
  | .amin a b c => some fun _ => { a := .d a, b := .a2 b, c := .s c, tys := some grpI }
  | .amax a b c => some fun _ => { a := .d a, b := .a2 b, c := .s c, tys := some grpI }
  | .aand a b c => some fun _ => { a := .d a, b := .a2 b, c := .s c }
  | .aor a b c => some fun _ => { a := .d a, b := .a2 b, c := .s c }
  | .axor a b c => some fun _ => { a := .d a, b := .a2 b, c := .s c }
  | .axch a b c => some fun _ => { a := .d a, b := .a2 b, c := .s c }
  | .acas a b c => some fun _ => { a := .d a, b := .a2 b, c := .es 2 c }
  | .ainc a b c => some fun _ => { a := .d a, b := .a2 b, c := .s c }
  | .afadd a b c => some fun _ => { a := .d a, b := .a2 b, c := .s c, tys := some grpFH }
  | .fence _ _ => some fun _ => { unif := true, log := false }
  | .gather a b c => some fun _ => { a := .d a, b := .s b, c := .g c }
  | .gather4 a b c => some fun _ => { a := .ed 4 a, b := .s b, c := .g c }
  | .scatter a b c => some fun _ => { a := .s a, b := .s b, c := .g c }
  | .scatadd a b c => some fun _ => { a := .s a, b := .s b, c := .g c, tys := some (grpI ++ grpF) }
  | .binit a b n => some (barDesc (.u a) (.u b) n)
  | .barr n => some (barDesc .any .any n)
  | .bexp a n => some (barDesc (.u a) .any n)
  | .bwait n => some (barDesc .any .any n)
  | .btry _ n => some (barDesc .any .any n)
  | .bsync n => some (barDesc .any .any n)
  | .bring n => some fun v => { barDesc .any .any n v with c := .lit (decide (n.toNat < v.p.bars.length) && v.p.rcores != 0) }
  | .sluice a b _ => some fun _ => engineDesc (.a2u a) (.u b) .any
  | .slstat a _ => some fun _ => engineDesc (.d a) .any .any
  | .slkill _ => some fun _ => engineDesc .any .any .any
  | .coll a _ => some fun _ => engineDesc (.a2u a) .any .any
  | .cpys a b c => some fun _ => engineDesc (.u a) (.u b) (.u c)
  | .osclaim _ n => some (mxDesc .any .any (slotOk n))
  | .osrel n => some (mxDesc .any .any (slotOk n))
  | .osload a n => some (mxDesc (.u a) .any (slotOk n))
  | .mfmt a _ => some (mxDesc (.u a) .any fun _ => true)
  | .mloop a b _ => some (mxDesc (.u a) (.u b) fun _ => true)
  | .msparse a b _ => some (mxDesc (.u a) (.u b) fun _ => true)
  | .mgust a b _ => some (mxDesc (.u a) (.u b) fun _ => true)
  | .mdrain a b _ => some (mxDesc (.u a) (.u b) fun _ => true)
  | .mzero b _ => some (mxDesc .any (.u b) fun _ => true)
  | .mver a _ => some (mxDesc (.d a) .any fun _ => true)
  | .mwait b _ => some (mxDesc .any (.u b) fun _ => true)
  | .mstep a _ => some (mxDesc (.d a) .any fun _ => true)
  | .mcbook a _ => some (mxDesc (.u a) .any fun _ => true)
  | .trace a b c => some fun _ => { a := .vr 5 false a, b := .vq 9 b, c := .a2u c, wall := true }
  | .tracea a b c => some fun _ => { a := .vr 5 false a, b := .vq 9 b, c := .a2u c, wall := true }
  | .build a _ => some fun _ => engineDesc (.a2u a) .any .any
  | .refit a _ => some fun _ => engineDesc (.a2u a) .any .any
  | .sfence a b => some fun _ => engineDesc (.a2u a) (.u b) .any
  | .sready _ b c => some fun _ => engineDesc .any (.a2u b) (.u c)
  | .genpin b c => some fun _ => engineDesc .any (.a2u b) (.u c)
  | .genunpin b c => some fun _ => engineDesc .any (.a2u b) (.u c)
  | .march a b c => some fun _ => { a := .vr 8 true a, b := .vq 12 b, c := .a2u c, wall := true }
  | .mloc a b c => some fun _ => { a := .vr 8 false a, b := .vq 4 b, c := .a2u c, wall := true }
  | .sample a b c => some fun _ => { a := .vr 4 false a, b := .vq 12 b, c := .a2u c, wall := true }
  | .gridset a _ => some fun _ => engineDesc (.a2u a) .any .any
  | .compact a _ => some fun _ => engineDesc (.a2u a) .any .any
  | .launch _ b => some fun _ => engineDesc .any (.a2u b) .any
  | .nodeq a b q => some fun _ => { a := .d a, b := .u b, c := .lit (q.toNat < 6), unif := true }
  | .binflush b => some fun _ => { b := .u b, unif := true, log := false }
  | .qsigAdd b => some fun _ => { b := .u b, unif := true, log := false }
  | .qsigMax b => some fun _ => { b := .u b, unif := true, log := false }
  | .qsigNotify b => some fun _ => { b := .u b, unif := true, log := false }
  | .csrr a i => some fun v => { a := .d a, b := .lit (v.csr i.toNat).isSome, unif := true }
  | .csrw a i =>
    some fun _ => { a := .u a, b := .lit (csrWritable.contains i.toNat), unif := true, priv := csrWritable.contains i.toNat, log := false }
  | .savec a _ => some fun _ => { a := .a2u a, unif := true, priv := true, log := false }
  | .restc a => some fun _ => { a := .a2u a, unif := true, priv := true, log := false }
  | .dbglogSelect b => some fun v => { b := .u b, c := .lit v.dbgTarget.isSome, unif := true, priv := true, log := false }
  | .dbglogDiscard b => some fun v => { b := .u b, c := .lit v.dbgTarget.isSome, unif := true, priv := true, log := false }
  | .dbglogWrite b => some fun _ => { b := .u b, unif := true, priv := true, log := false }
  | .undo n =>
    some fun v => { a := .lit (n != 0), b := .lit ((v.undoFasc.map fun x => x.1.debug).getD false), unif := true, priv := true, log := false }
  | .asgen b => some fun _ => { b := .u b, unif := true, priv := true, log := false }
  | .evwait a _ => some fun _ => { a := .d a, unif := true }
  | i => (i.member?).map fun m => m.desc

/-- The state in whose beat an instruction takes place: the events at barriers take theirs in the order of R225. -/
def Instr.turn (i : Instr) (s : State) : State :=
  match i with
  | .binit _ _ _ => s.barTurn 0
  | .bexp _ _ => s.barTurn (atBexp s.issuer)
  | .barr _ | .bsync _ | .bring _ => s.barTurn (atArrival s.issuer)
  | _ => s

end Sys2Proof

namespace Sys2Proof.Machine

/-- The view that an instruction reads from, its distance passed (R32). -/
def V.reads (v : V) (d : Desc) : V := v.elapse d (v.joins d)
/-- The view that its effect starts from: the chain that it does not join has ended, its last-read bits are applied. -/
def V.writes (v : V) (d : Desc) : V :=
  (if v.joins d then v.reads d else (v.reads d).endChain).free ((v.reads d).freedNames d)
/-- The threads it acts for (R42). -/
def V.threads (v : V) (d : Desc) : Mask := (v.reads d).acts d
/-- No earlier chain holds the instruction back (R104), and its checks 3 to 5 of R59 pass. -/
def V.decoded (v : V) (d : Desc) : Bool := !v.blocked d && ((v.reads d).decodeTrap d).isNone
/-- Moreover it keeps the sequence of an open chain (R95), and neither its guard nor its sources are poisoned (R129). -/
def V.clean (v : V) (d : Desc) : Bool :=
  v.decoded d && !(v.reads d).breaks d && !(d.guard && (v.reads d).guardPois) && !(v.reads d).consumes d (v.threads d)
/-- Moreover some thread is active (R42): its body runs. -/
def V.ready (v : V) (d : Desc) : Bool := v.clean d && (v.threads d != 0 || d.member)
/-- The state after an effect that left the view `w`: the sub-group is at the slot that follows (R25). -/
def V.done (v : V) (d : Desc) (w : V) : State := ((v.reads d).finish w d true).put
/-- The same where the effect itself has placed the sub-group. -/
def V.doneAt (v : V) (d : Desc) (w : V) : State := ((v.reads d).finish w d false).put
/-- The same where the instruction has begun and holds the sub-group until it ends (R163). -/
def V.begun (v : V) (d : Desc) (w : V) : State := ((v.reads d).finish w d false).held.put
/-- The state after a word traps before any effect (R59). -/
def V.trapsAs (v : V) (t : TrapInfo) : State := v.trapped t

end Sys2Proof.Machine
end

