-- ==== Sys2Proof/WellFormed.lean ====
section
/-! DEFINITION. Well-formed steps: an instruction word's fields are in range by their types, the two rows for words that are
no instruction hold such words, and the numbers in a device step are those of dies, ports, links, fascines and the like
(spec/01_vz940_package.md R7, R12; spec/06_fascine_rank.md R155, R158; spec/14_queue_kernel.md R342; spec/15_context.md R366). -/
namespace Sys2Proof

/-- A 32-bit instruction word is an unassigned one, or one with a reserved field (R57, R59). -/
def Instr.wellFormed : Instr → Bool
  | .unassignedOpcode w => decide (decode w = .unassignedOpcode w)
  | .reservedFieldWord w => decide (decode w = .reservedFieldWord w)
  | .rejoinMerge _ f => decide (f < 64)
  | .sleepExpiry _ f g => decide (f < 64) && decide (g < 4)
  | .voterkRoundComplete _ rank => decide (rank < 8)
  | .regroupRoundComplete _ rank => decide (rank < 8)
  | .chdecDecide _ f _ t => decide (f < 64) && decide (t < 16)
  | .chainDrainComplete _ f _ => decide (f < 64)
  | .loadDataReturn _ f _ => decide (f < 64)
  | .storeAccept _ f _ => decide (f < 64)
  | .atomicPerform _ f _ => decide (f < 64)
  | .culvertFlitAccept _ f _ => decide (f < 64)
  | .gatherWindowTimeout core => decide (core < 256)
  | .cpysComplete _ f _ => decide (f < 64)
  | .slotLoadComplete _ e slot => decide (e < 8) && decide (slot < 16)
  | .matrixOpStart _ e a => decide (e < 8) && decide (a < 4)
  | .matrixBlockCommit _ e a => decide (e < 8) && decide (a < 4)
  | .matrixOpComplete _ e a => decide (e < 8) && decide (a < 4)
  | .asgenDrainComplete _ f g => decide (f < 64) && decide (g < 4)
  | .skidStop _ f => decide (f < 64)
  | .packetFetch q => decide (q < 32768)
  | .packetSelect q => decide (q < 32768)
  | .inletCoreStart _ k => decide (k < 2)
  | .eventPacketWrite c => decide (c < 4096)
  | .inletCoreInstruction _ k => decide (k < 2)
  | .codebookTableWritten _ f g => decide (f < 64) && decide (g < 4)
  | .gridLatchWritten _ f g => decide (f < 64) && decide (g < 4)
  | .rejoinHoldExpiry _ f => decide (f < 64)
  | .candidateUrgent _ f g => decide (f < 64) && decide (g < 4)
  | .softErrorCorrected die => decide (die < 4)
  | .doorbell q _ => decide (q < 32768)
  | .workGraphRecordClose _ f t _ => decide (f < 64) && decide (t < 16)
  | .binTimerExpiry core _ node => decide (core < 256) && decide (node < 256)
  | .spillwayPlace _ node part => decide (node < 256) && decide (part < 4)
  | .spillwayTimerExpiry _ node part => decide (node < 256) && decide (part < 4)
  | .mailboxPacketClose _ k => decide (k < 2)
  | .inletCoreException _ k _ _ => decide (k < 2)
  | .slgoWrite _ k _ => decide (k < 2)
  | .slklWrite _ k _ => decide (k < 2)
  | .mbpopWrite _ k => decide (k < 2)
  | .timeloRead _ k => decide (k < 2)
  | .hostRequestTimeout _ f _ => decide (f < 64)
  | .ctxact port c => decide (port < 2) && decide (c < 4096)
  | .ctxfree port c => decide (port < 2) && decide (c < 4096)
  | .qbindBind port c q => decide (port < 2) && decide (c < 4096) && decide (q < 32768)
  | .qbindUnbind port c q => decide (port < 2) && decide (c < 4096) && decide (q < 32768)
  | .asgenCommand port asid => decide (port < 2) && decide (asid < 4294967296)
  | .faultend port c _ => decide (port < 2) && decide (c < 4096)
  | .haltend port c tself act => decide (port < 2) && decide (c < 4096) && decide (tself < 256) && decide (act < 4)
  | .diereset port die => decide (port < 2) && decide (die < 4)
  | .commandComplete port => decide (port < 2)
  | .hostWrite w _ => decide (w.port < 2)
  | .hostRead r _ => decide (r.port < 2) && decide (r.bar < 2)
  | .ctxbaseWrite w => decide (w.port < 2)
  | .pwrcapWrite w => decide (w.port < 2)
  | .tsloRead port => decide (port < 2)
  | .nrheadWrite port _ => decide (port < 2)
  | .registerWrite port _ _ => decide (port < 2)
  | .notificationWrite port => decide (port < 2)
  | .quotaWrite c _ => decide (c < 4096)
  | .ctxholdHold c => decide (c < 4096)
  | .ctxholdRelease c => decide (c < 4096)
  | .csrQbindBind c q => decide (c < 4096) && decide (q < 32768)
  | .csrQbindUnbind c q => decide (c < 4096) && decide (q < 32768)
  | .dbgctlWrite c _ => decide (c < 4096)
  | .dbghaltHalt c mask => decide (c < 4096) && decide (mask < 16)
  | .dbghaltResume c mask => decide (c < 4096) && decide (mask < 16)
  | .linkFlitRetry l => decide (l < 4)
  | .linkRetrainStart l => decide (l < 4)
  | .linkRetrainEnd l => decide (l < 4)
  | .linkTrainFailure l => decide (l < 4)
  | .dieReset d => decide (d < 4)
  | .dieResetDone d => decide (d < 4)
  | .sidebandDieReset d => decide (d < 4)
  | .thermalThrottle d => decide (d < 4)
  | .thermalDieReset d => decide (d < 4)
  | .hostPortDown port => decide (port < 2)
  | .hostPortTrained port => decide (port < 2)
  | .thermalThrottleEnd d => decide (d < 4)
  | .nop .. | .bra .. | .brc .. | .dbnz .. | .brx .. | .call .. | .callx .. | .ret .. | .exit .. | .yield ..
  | .mode .. | .modex .. | .lit .. | .lith .. | .waitc .. | .waitf .. | .trap .. | .bkpt .. | .regroup .. | .qfill ..
  | .demote .. | .sleep .. | .trapret .. | .halt .. | .add .. | .sub .. | .mul .. | .mad .. | .msb .. | .nmad ..
  | .nmsb .. | .min .. | .max .. | .abs .. | .neg .. | .div .. | .sqrt .. | .rcp .. | .rsq .. | .exp2 .. | .log2 ..
  | .sin .. | .cos .. | .dot2 .. | .dot4 .. | .lerp .. | .clamp .. | .frac .. | .roundi .. | .cvt .. | .sat ..
  | .scale .. | .cmp .. | .cmps .. | .sel .. | .classT .. | .chopen .. | .chdec .. | .chclose .. | .chcancel ..
  | .chstat .. | .and .. | .or .. | .xor .. | .not .. | .andn .. | .shl .. | .shr .. | .sar .. | .rol .. | .popc ..
  | .clz .. | .ctz .. | .brev .. | .bfe .. | .bfi .. | .prmt .. | .imulh .. | .lea .. | .addc .. | .subb ..
  | .movpPack .. | .movpUnpack .. | .pand .. | .por .. | .pxor .. | .pnot .. | .pset .. | .isetp .. | .bmin ..
  | .mov .. | .movs .. | .movb .. | .blease .. | .shfl .. | .shflx .. | .shflup .. | .shfldn .. | .qswx .. | .qswy ..
  | .qswd .. | .qbcast .. | .ddx .. | .ddy .. | .vote .. | .matchT .. | .scanf .. | .redf .. | .voterk .. | .getsr ..
  | .setsr .. | .time .. | .dieq .. | .capq .. | .ld .. | .ld2 .. | .ld4 .. | .ldb .. | .ldb4 .. | .lda .. | .st ..
  | .st2 .. | .st4 .. | .stl .. | .lds .. | .lds4 .. | .sts .. | .sts4 .. | .ldc .. | .pref .. | .aadd .. | .amin ..
  | .amax .. | .aand .. | .aor .. | .axor .. | .axch .. | .acas .. | .ainc .. | .afadd .. | .fence .. | .gather ..
  | .gather4 .. | .scatter .. | .scatadd .. | .binit .. | .barr .. | .bexp .. | .bwait .. | .btry .. | .bsync ..
  | .bring .. | .sluice .. | .slstat .. | .slkill .. | .coll .. | .cpys .. | .osclaim .. | .osrel .. | .osload ..
  | .mfmt .. | .mloop .. | .msparse .. | .mgust .. | .mdrain .. | .mzero .. | .mver .. | .mwait .. | .mstep ..
  | .mcbook .. | .trace .. | .tracea .. | .build .. | .refit .. | .sfence .. | .sready .. | .genpin .. | .genunpin ..
  | .march .. | .mloc .. | .sample .. | .gridset .. | .compact .. | .launch .. | .nodeq .. | .binflush ..
  | .qsigAdd .. | .qsigMax .. | .qsigNotify .. | .csrr .. | .csrw .. | .savec .. | .restc .. | .dbglogSelect ..
  | .dbglogDiscard .. | .dbglogWrite .. | .undo .. | .asgen .. | .evwait .. | .polderRetire .. | .sluiceRecordTake ..
  | .sluiceRecordComplete .. | .sluiceKillStop .. | .collMatch .. | .collComplete .. | .jobStart .. | .fenceReady ..
  | .jobEnd .. | .reclaim .. | .rayComplete .. | .marchUnitThreadEnd .. | .trapDelivery .. | .polderStopComplete ..
  | .restorePlace .. | .ringPlace .. | .packetComplete .. | .tailChildStart .. | .softErrorUncorrectable ..
  | .sluiceOwnPoll .. | .collTimeout .. | .rayParkRecheck .. | .engineFaultRetry ..
  | .packageReset .. | .mctpControl .. | .spdmGetMeasurements ..
  | .spdmMessage .. | .telemetryRead .. | .setPowerCap .. | .sidebandPackageReset .. | .recoveryImageLoad ..
  | .raiseMinVersion .. | .powerWindow .. | .powerLoss .. => true

end Sys2Proof
end

