-- ==== Sys2Proof/Certificates/Slice0/Obligations.lean ====
section
/-! DEFINITION. The statements for the provers. `Claims` holds the terms they share. -/

namespace Sys2Proof.Claims
open Sys2Proof.Machine

/-- The state in the step of a sub-group after the beats of the step have passed. -/
def stepping (s : State) (r : List Choice) : State := { s.advance with sched := r }

/-- Opcodes that R57 names as unassigned, as ranges. -/
def unassignedRanges : List (Nat × Nat) :=
  [(0x18, 0x1F), (0x45, 0x4F), (0x6C, 0x6F), (0x88, 0x8F), (0xAF, 0xAF), (0xB7, 0xB7), (0xBD, 0xBF), (0xCD, 0xCF), (0xDD, 0xDF),
   (0xE4, 0xEF), (0xF8, 0xFF)]

/-- A word given by its four bytes, opcode first (R36). -/
def word4 (op a b c : Nat) : Word := BitVec.ofNat 32 (op * 2 ^ 24 + a * 2 ^ 16 + b * 2 ^ 8 + c)

end Sys2Proof.Claims

open Sys2Proof Sys2Proof.Machine Sys2Proof.Claims in
/-- Every well-formed instruction that has a word decodes from it to itself (spec/02_instruction_word.md R36, spec/02_instruction_word.md R37, spec/02_instruction_word.md R48 to R56). -/
def Obligations.DecodeOfEncode : Prop :=
  ∀ (i : Instr) (w : Word), i.wellFormed = true → encode i = some w → decode w = i

open Sys2Proof Sys2Proof.Machine Sys2Proof.Claims in
/-- Every word decodes to a well-formed step, which has a word that decodes to the same (spec/02_instruction_word.md R36, spec/02_instruction_word.md R37, spec/02_instruction_word.md R57, spec/02_instruction_word.md R59). -/
def Obligations.DecodeTotalAndStable : Prop :=
  ∀ w : Word, (decode w).wellFormed = true ∧ ∃ x, encode (decode w) = some x ∧ decode x = decode w

open Sys2Proof Sys2Proof.Machine Sys2Proof.Claims in
/-- The opcodes that R57 names, and no others, decode as unassigned; each traps ILLINST (R57). -/
def Obligations.UnassignedOpcodes : Prop :=
  (∀ w : Word, decode w = .unassignedOpcode w ↔ ∃ r ∈ unassignedRanges, r.1 ≤ w.toNat / 2 ^ 24 ∧ w.toNat / 2 ^ 24 ≤ r.2) ∧
  ∀ (w : Word) (s : State) (v : V), s.view = some v → v.blocked {} = false →
    exec (.unassignedOpcode w) s =
      .next ({ s with cur := none, free := s.free + 1 }.takeTrap v.l.h v.l.f v.l.g v.e.pc v.e.pc { t := .illinst })

open Sys2Proof Sys2Proof.Machine Sys2Proof.Claims in
/-- Words written out from the encodings decode to the instructions they stand for (spec/02_instruction_word.md R48 to R56, spec/02_instruction_word.md R37, spec/05_registers.md R144). -/
def Obligations.DecodedWords : Prop :=
  decode (word4 0x02 0x0B 0x00 0x05) = .brc ⟨true, 3⟩ 5 ∧
  decode (word4 0x0B 0xA1 0xFF 0xFE) = .lit (.s 1) 0xFFFE ∧
  decode (word4 0x20 0x01 0xD0 0xE0) = .add (.v 1) (.b 0) (.c 0) ∧
  decode (word4 0x41 0xE8 0x02 0x03) = .chdec ⟨.xor, .ge, 0⟩ (.v 2) (.v 3) ∧
  decode (word4 0x69 0x06 0x00 0x00) = .pset 6 0 ∧
  decode (word4 0x62 0x0A 0x02 0x04) = .addc (.v 10) (.v 2) (.v 4) ∧
  decode (word4 0x64 0x00 0x03 0x01) = .movpUnpack (.v 3) ∧
  decode (word4 0x61 0x01 0x02 0x20) = .reservedFieldWord (word4 0x61 0x01 0x02 0x20) ∧
  decode (word4 0x74 0x01 0x02 0x03) = .shfl (.v 1) (.v 2) (.v 3) ∧
  decode (word4 0x91 0x04 0x06 0xFF) = .ld2 (.v 4) (.v 6) 0xFF ∧
  decode (word4 0xAB 0x01 0x05 0xA2) = .gather (.v 1) (.v 5) (.s 2) ∧
  decode (word4 0xB1 0x00 0x00 0x3F) = .barr 63 ∧
  decode (word4 0xB8 0xA0 0xA2 0x07) = .sluice (.s 0) (.s 2) 7 ∧
  decode (word4 0xC2 0xA0 0x00 0x0F) = .osload (.s 0) 15 ∧
  decode (word4 0xC4 0xA0 0xA1 0x03) = .mloop (.s 0) (.s 1) 3 ∧
  decode (word4 0xD0 0x0C 0x10 0xA0) = .trace (.v 12) (.v 16) (.s 0) ∧
  decode (word4 0xD2 0xA0 0x00 0x07) = .build (.s 0) 7 ∧
  decode (word4 0xD8 0x0C 0x10 0xA0) = .march (.v 12) (.v 16) (.s 0) ∧
  decode (word4 0xE3 0x00 0xA1 0x02) = .qsigNotify (.s 1) ∧
  decode (word4 0xF1 0xA0 0x00 0x10) = .csrw (.s 0) 0x0010

open Sys2Proof Sys2Proof.Machine Sys2Proof.Claims in
/-- A step of a sub-group runs the instruction that its slot's word decodes to, a step of the device its row (spec/00_scope.md R1, spec/00_scope.md R2, spec/02_instruction_word.md R23, spec/02_instruction_word.md R28, spec/02_instruction_word.md R30, spec/02_instruction_word.md R31, spec/02_instruction_word.md R35, spec/06_fascine_rank.md R160, spec/06_fascine_rank.md R164, spec/06_fascine_rank.md R166, spec/17_link.md R406). -/
def Obligations.StepRunsDecodedWord : Prop :=
  (∀ (s : State) (i : Instr) (r : List Choice), s.sched = .event i :: r → step s = (stepping s r).unlessHeld (exec i (stepping s r))) ∧
  (∀ s t : State, (∀ (k : Nat) (a b : Port), s.ports[k]? = some a → t.ports[k]? = some b → b.wait.length ≤ max 1024 a.wait.length) →
    s.unlessHeld (.next t) = .next t) ∧
  ∀ (s s' : State) (h i g : Nat) (r : List Choice) (p : Polder) (f : Fascine) (e : SplitEntry) (b : List Byte),
    let m := (stepping s r).merged h i
    s.sched = .cand h i g :: r → m.polder? h = some p → p.fs[i]? = some f → f.r.ents[g]? = some e → m.mayIssue p f e = true →
    (f.settle = true → m.settled h i f = true) → m.fetch p e.pc = .ok (b, s') →
    let ctl := wordAt b 0
    let k := e.pc.toNat / 4 % 4
    let word := wordAt b (4 * k)
    let dist := ctl.toNat / 2 ^ (9 + 3 * k) % 8
    let samples := k = 1 ∨ e.entry = true
    ¬(k = 1 ∧ ctl.getLsbD 31 = true ∧ e.arrived = false) →
    (samples → e.passed = false → f.clearAll (ctl.toNat % 4096) = true) →
    let t := s'.passTo (max (f.dueBeat g dist e) (s'.portFree p i (portOf word) e))
    let e' := { e with passed := true }.found t.beat (f.dueBeat g dist e) (portOf word)
    let u := (t.modFasc h i (fun x => { x with r := { x.r with ents := setAt x.r.ents g e' } })).survey p.core (p.seat i).1
    u.outranked p i g f e' = false →
    step s = (stepping s r).unlessHeld (exec (decode word)
      { u.passBeats h i g (f.gap g dist) with
        cur := some { h := h, f := i, g := g, dist := dist, last := BitVec.ofNat 3 (ctl.toNat / 2 ^ (18 + 3 * k)),
                      word := word, wm0 := !(decide (k = 1) || e.entry) || ctl.toNat % 4096 == 0,
                      rejoin := decide (k = 1) && ctl.getLsbD 31, yieldh := ctl.getLsbD 30, chosen := some (u.choiceOf p i g e') } })

open Sys2Proof Sys2Proof.Machine Sys2Proof.Claims in
/-- A fetch from the die's own memory reads the 16 bytes of the bundle, or one of the contents they have had since the launch (spec/02_instruction_word.md R23, spec/02_instruction_word.md R27). -/
def Obligations.FetchReadsCode : Prop :=
  (∀ (s : State) (p : Polder) (pc : Word) (c : Ctx) (x : Nat) (t : Tlb),
    s.ctx? p.ctx = some c → s.translate c (p.code + pc.toNat / 16 * 16) 2 0 p.die = .ok (.glob 0 x p.die, t) → s.reach p.die 0 p.die = true →
    (s.codes.find? (fun h => h.launch == p.launch && h.tgt == 0 && h.x == x) = none →
      ∃ s', s.fetch p pc = .ok (s.dev.readN x 16, s') ∧ s'.dev = s.dev ∧ s'.host = s.host ∧ s'.peer = s.peer) ∧
    ∀ h, s.codes.find? (fun h => h.launch == p.launch && h.tgt == 0 && h.x == x) = some h → h.seen ≠ [] →
      ∃ b s', s.fetch p pc = .ok (b, s') ∧ b ∈ h.seen ∧ s'.dev = s.dev ∧ s'.host = s.host ∧ s'.peer = s.peer) ∧
  (∀ (s : State) (launch tgt x : Nat), s.codes.find? (fun h => h.launch == launch && h.tgt == tgt && h.x == x) = none →
    (s.noteCode launch tgt x).codes = ⟨launch, tgt, x, [(s.memOf tgt).readN x 16]⟩ :: s.codes) ∧
  ∀ (h : CodeLog) (tgt x n : Nat) (m : Memory), (∀ b ∈ h.seen, b ∈ (h.touch tgt x n m).seen) ∧
    (h.tgt = tgt → x < h.x + 16 → h.x < x + n → m.readN h.x 16 ∈ (h.touch tgt x n m).seen)

open Sys2Proof Sys2Proof.Machine Sys2Proof.Claims in
/-- The word that withFetchWord places is the next that a step runs (spec/15_context.md R366, spec/16_page.md R393, spec/07_polder_ring.md R182). -/
def Obligations.FirstInstructionRuns : Prop :=
  ∀ w : Word, ∃ t : State, step (State.reset.withFetchWord 32 w.toNat) =
      (stepping (State.reset.withFetchWord 32 w.toNat) []).unlessHeld (exec (decode w) t) ∧ t.view.isSome = true ∧
    t.cur.map Latch.word = some w ∧ t.dev = (State.reset.withFetchWord 32 w.toNat).dev

namespace Sys2Proof.Claims
open Sys2Proof.Machine

/-- The state after the issuing sub-group has taken a trap at its own slot (R59, R372). -/
def trapAt (v : V) (t : TrapInfo) : State :=
  { v.s with cur := none, free := v.s.free + 1 }.takeTrap v.l.h v.l.f v.l.g v.e.pc v.e.pc t
/-- The same after it has consumed poison (R129, R371). -/
def deadAt (v : V) : State := { v.s with cur := none, free := v.s.free + 1 }.contextDead v.p.ctx

/-- Whether every earlier access of the sub-group's threads has been performed, and no SLSTAT of theirs is in flight: what an operation of an
engine and a release ask for (R215, R218, R252). -/
def calm (v : V) : Bool := v.quiet && !v.asking

/-- Instruction i issues for the sub-group that the latch names, with the form d; an event at a barrier takes its turn in the order
of R225. -/
def Issues (i : Instr) (s : State) (v : V) (d : Desc) : Prop := (i.turn s).view = some v ∧ i.form.map (· v) = some d
/-- It issues, and every check that comes before its own effect passes, for at least one thread. -/
def Runs (i : Instr) (s : State) (v : V) (d : Desc) : Prop := Issues i s v d ∧ v.ready d = true

/-- The instruction words of R58 that are privileged whatever their operands. -/
def privileged : Instr → Bool
  | .trapret => true
  | .halt => true
  | .savec _ _ => true
  | .restc _ => true
  | .dbglogSelect _ => true
  | .dbglogDiscard _ => true
  | .dbglogWrite _ => true
  | .undo _ => true
  | .asgen _ => true
  | .csrw _ i => [0x03, 0x10, 0x11, 0x20, 0x21].contains i.toNat
  | _ => false

/-- The instruction words that ignore the guard (R42). -/
def ignoresGuard : Instr → Bool
  | .mode _ => true
  | .modex _ _ _ => true
  | .nop => true
  | .waitc _ _ _ _ => true
  | .waitf _ => true
  | .yield => true
  | .sleep _ => true
  | .trapret => true
  | .halt => true
  | .sel _ _ _ => true
  | _ => false

end Sys2Proof.Claims

open Sys2Proof Sys2Proof.Machine Sys2Proof.Claims in
/-- The first check of privilege, fields and element type that fails decides the trap, with no effect (spec/02_instruction_word.md R37, spec/02_instruction_word.md R43, spec/02_instruction_word.md R59). -/
def Obligations.FieldChecksTrapInOrder : Prop :=
  ∀ (i : Instr) (s : State) (v : V) (d : Desc), Issues i s v d → v.blocked d = false →
    (d.priv = true → v.p.sys = false → exec i s = .next (trapAt v { t := .priv })) ∧
    ((d.priv = true → v.p.sys = true) →
      (∀ t, [d.a, d.b, d.c].findSome? (v.chk d.uniform) = some t → exec i s = .next (trapAt v { t := t })) ∧
      ([d.a, d.b, d.c].findSome? (v.chk d.uniform) = none →
        ∀ l, d.tys = some l → etype v.e.mode ∉ l → exec i s = .next (trapAt v { t := .illopnd })))

open Sys2Proof Sys2Proof.Machine Sys2Proof.Claims in
/-- Outside the system domain every privileged instruction traps PRIV and does nothing else (R58). -/
def Obligations.PrivilegedTrapsOutsideSystem : Prop :=
  (∀ (i : Instr) (v : V) (d : Desc), i.form.map (· v) = some d → d.priv = privileged i) ∧
  ∀ (i : Instr) (s : State) (v : V) (d : Desc), privileged i = true → Issues i s v d → v.blocked d = false → v.p.sys = false →
    exec i s = .next (trapAt v { t := .priv })

open Sys2Proof Sys2Proof.Machine Sys2Proof.Claims in
/-- An instruction with an empty active set only issues: it goes to the next slot and applies its last-read bits (spec/02_instruction_word.md R42, spec/02_instruction_word.md R34). -/
def Obligations.NoActiveThreadNoEffect : Prop :=
  (∀ (i : Instr) (v : V) (d : Desc), i.form.map (· v) = some d → d.guard = !ignoresGuard i) ∧
  ∀ (i : Instr) (s : State) (v : V) (d : Desc), Issues i s v d → v.clean d = true → v.threads d = 0 → d.member = false →
    exec i s = .next ((v.reads d).finish (v.writes d) { d with log := false, wall := false } true).put ∧
    ∀ t, exec i s = .next t →
      t.dev = s.dev ∧ t.host = s.host ∧ t.peer = s.peer ∧ t.queues = s.queues ∧ t.grids = s.grids ∧ t.ctxs = s.ctxs ∧
      t.schains = s.schains ∧ t.colls = s.colls ∧ t.jobs = s.jobs ∧ t.rays = s.rays ∧ t.walks = s.walks ∧
      ∃ f, t.fasc? v.l.h v.l.f = some f ∧ (f.r.ents[v.l.g]?).map SplitEntry.pc = some (nextSlot v.e.pc) ∧
        f.r.s = v.f.r.s ∧ f.r.preds = v.f.r.preds ∧ f.exc = v.f.exc ∧ f.cnt = v.f.cnt ∧ f.tok = v.f.tok

open Sys2Proof Sys2Proof.Machine Sys2Proof.Claims in
/-- An instruction that consumes poison makes the context DEAD and writes nothing (spec/05_registers.md R129, spec/15_context.md R371). -/
def Obligations.PoisonedSourceKillsContext : Prop :=
  ∀ (i : Instr) (s : State) (v : V) (d : Desc), Issues i s v d → v.decoded d = true → (v.reads d).breaks d = false →
    ((d.guard = true ∧ (v.reads d).guardPois = true) ∨ (v.reads d).consumes d (v.threads d) = true) →
    exec i s = .next (deadAt v)

open Sys2Proof Sys2Proof.Machine Sys2Proof.Claims in
/-- The polders of a context that becomes DEAD retire without further effect, its queues stop with DEAD, and the host is told once (spec/15_context.md R367, spec/15_context.md R371). -/
def Obligations.DeadContext : Prop :=
  ∀ (s : State) (c : Nat) (x : Ctx), s.ctx? c = some x → x.dead = false →
    ((s.contextDead c).ctx? c).map (fun y => (y.dead, y.evq)) = some (true, []) ∧
    (s.contextDead c).ports = modAt s.ports x.port (fun p => p.notify ⟨6, c, 0, s.time, 0, 0⟩) ∧
    (∀ h p, s.polder? h = some p → p.ctx = c → ∃ q, (s.contextDead c).polder? h = some q ∧ q.ctx = c ∧ q.life = .draining ∧ q.halt = none ∧
      q.spad = p.spad ∧ ∀ f ∈ q.fs, f.retired = true ∧ f.ops = []) ∧
    (∀ h p, s.polder? h = some p → (∀ y ∈ s.polders, y.h = h → y.ctx ≠ c) → (s.contextDead c).polder? h = some p) ∧
    (s.contextDead c).restores = s.restores.filter (·.ctx != c) ∧ (s.contextDead c).pending = s.pending.filter (·.ctx != c) ∧
    (s.contextDead c).queues.map (fun q => (q.q, q.ctx, q.st, q.err, q.ecode)) =
      s.queues.map (fun q => if q.ctx = c then (q.q, q.ctx, .error, true, 7) else (q.q, q.ctx, q.st, q.err, q.ecode)) ∧
    (s.contextDead c).contextDead c = s.contextDead c

open Sys2Proof Sys2Proof.Machine Sys2Proof.Claims in
/-- A first trap other than POISON halts the polder at the saved PC and abandons its rounds; a sibling's later one in its skid is counted (spec/15_context.md R372, spec/15_context.md R375, spec/06_fascine_rank.md R157, spec/06_fascine_rank.md R179). -/
def Obligations.TrapEntryHaltsPolder : Prop :=
  (∀ (s : State) (h f g : Nat) (slot saved : Word) (t : TrapInfo) (p : Polder) (x : Fascine) (e : SplitEntry),
    s.polder? h = some p → p.fs[f]? = some x → x.r.ents[g]? = some e → p.halt = none → t.t ≠ .poison →
    ∃ q y, (s.takeTrap h f g slot saved t).polder? h = some q ∧ q.fs[f]? = some y ∧
      q.life = .halted ∧
      q.halt = some { code := t.t.code, sub := t.sub, f := f, g := g, pc := saved, addr := t.addr, data := t.data, time := s.time } ∧
      y.stop = { x.stop with stopped := true, code := t.t.code, primary := true, slot := slot } ∧
      (y.r.ents[g]?).map SplitEntry.pc = some saved ∧ y.r = { x.r with ents := y.r.ents } ∧
      (∀ k, k ≠ g → y.r.ents[k]? = x.abandon.r.ents[k]?) ∧ (∀ k, k ≠ f → q.fs[k]? = (p.fs[k]?).map Fascine.abandon) ∧ q.breg = p.breg ∧ q.spad = p.spad ∧
      (∀ k, k ≠ h → (s.takeTrap h f g slot saved t).polder? k = s.polder? k) ∧
      (s.takeTrap h f g slot saved t).dev = s.dev ∧ (s.takeTrap h f g slot saved t).host = s.host ∧
      (s.takeTrap h f g slot saved t).peer = s.peer) ∧
  (∀ f : Fascine, ((∀ e ∈ f.r.ents, e.inRound = false) → f.abandon = f) ∧
    ∀ (g : Nat) (e : SplitEntry), f.r.ents[g]? = some e → e.inRound = true →
      f.abandon.r.ents[g]? = some { e with hold := .none } ∧ f.abandon.stop.stopped = true ∧ f.abandon.r.s = f.r.s ∧ f.abandon.r.vb = f.r.vb) ∧
  ∀ (s : State) (h f g : Nat) (slot saved : Word) (t : TrapInfo) (p : Polder) (x : Fascine) (e : SplitEntry) (y : Halt),
    s.polder? h = some p → p.fs[f]? = some x → x.r.ents[g]? = some e → p.halt = some y → t.t ≠ .poison →
    let first := y.tself = none ∧ y.time = s.time ∧ f < y.f
    (first → ∃ q z, (s.takeTrap h f g slot saved t).polder? h = some q ∧ q.fs[f]? = some z ∧
      q.halt = some { code := t.t.code, sub := t.sub, f := f, g := g, pc := saved, addr := t.addr, data := t.data, time := s.time,
                      nsec := min 255 (y.nsec + 1) } ∧
      z.stop.primary = true ∧ (∀ w, q.fs[y.f]? = some w → w.stop.primary = false) ∧ (z.r.ents[g]?).map SplitEntry.pc = some saved) ∧
    (¬first → ∃ q z, (s.takeTrap h f g slot saved t).polder? h = some q ∧ q.fs[f]? = some z ∧
      q.halt = some { y with nsec := min 255 (y.nsec + 1) } ∧ q.life = p.life ∧
      z.stop = { x.stop with stopped := true, code := t.t.code, primary := false, slot := slot } ∧
      (z.r.ents[g]?).map SplitEntry.pc = some saved)

namespace Sys2Proof.Claims
open Sys2Proof.Machine

/-- The word that each thread gets from an instruction that writes one register from its operands, and the register: bit
stage, moves and literals (R47, R140 to R142, R145). -/
def wordResult : Instr → Option (Opnd × (V → Nat → Word))
  | .and a b c => some (a, fun v t => v.rd b t 1 &&& v.rd c t 2)
  | .or a b c => some (a, fun v t => v.rd b t 1 ||| v.rd c t 2)
  | .xor a b c => some (a, fun v t => v.rd b t 1 ^^^ v.rd c t 2)
  | .andn a b c => some (a, fun v t => v.rd b t 1 &&& ~~~v.rd c t 2)
  | .not a b => some (a, fun v t => ~~~v.rd b t 1)
  | .shl a b c => some (a, fun v t => BitVec.ofNat 32 ((v.rd b t 1).toNat * 2 ^ ((v.rd c t 2).toNat % 256)))
  | .shr a b c => some (a, fun v t => BitVec.ofNat 32 ((v.rd b t 1).toNat / 2 ^ ((v.rd c t 2).toNat % 256)))
  | .sar a b c => some (a, fun v t => BitVec.ofInt 32 ((v.rd b t 1).toInt / 2 ^ ((v.rd c t 2).toNat % 256)))
  | .rol a b c =>
    some (a, fun v t => v.rd b t 1 <<< ((v.rd c t 2).toNat % 32) ||| v.rd b t 1 >>> (32 - (v.rd c t 2).toNat % 32))
  | .popc a b => some (a, fun v t => BitVec.ofNat 32 ((List.range 32).countP (v.rd b t 1).getLsbD))
  | .clz a b => some (a, fun v t => BitVec.ofNat 32 (if v.rd b t 1 = 0 then 32 else 31 - Nat.log2 (v.rd b t 1).toNat))
  | .ctz a b => some (a, fun v t => BitVec.ofNat 32 (((List.range 32).find? (v.rd b t 1).getLsbD).getD 32))
  | .brev a b => some (a, fun v t => (v.rd b t 1).reverse)
  | .bfe a b c =>
    some (a, fun v t =>
      let pos := (v.rd c t 2).toNat % 32
      let w := min ((v.rd c t 2).toNat / 256 % 64) (32 - pos)
      let x := (v.rd b t 1).toNat / 2 ^ pos % 2 ^ w
      let ty := etype v.e.mode
      if ty % 2 = 0 ∨ 6 ≤ ty then (if 0 < w ∧ 2 ^ (w - 1) ≤ x then BitVec.ofInt 32 ((x : Int) - 2 ^ w) else BitVec.ofNat 32 x)
      else BitVec.ofNat 32 x)
  | .bfi a b c =>
    some (a, fun v t =>
      let pos := (v.rd c t 2).toNat % 32
      let w := min ((v.rd c t 2).toNat / 256 % 64) (32 - pos)
      let old := (v.rd a t).toNat
      BitVec.ofNat 32 (old % 2 ^ pos + (v.rd b t 1).toNat % 2 ^ w * 2 ^ pos + old / 2 ^ (pos + w) * 2 ^ (pos + w)))
  | .prmt a b k =>
    some (a, fun v t =>
      let byte (i : Nat) : Nat := (v.rd b t 1).toNat / 256 ^ (k.toNat / 4 ^ i % 4) % 256
      BitVec.ofNat 32 (byte 0 + 256 * byte 1 + 65536 * byte 2 + 16777216 * byte 3))
  | .lea a b k => some (a, fun v t => BitVec.ofNat 32 ((v.rd a t).toNat + (v.rd b t 1).toNat * 2 ^ k.toNat))
  | .imulh a b c =>
    some (a, fun v t =>
      let ty := if etype v.e.mode < 6 then etype v.e.mode else 0
      packT ty fun j => ((elemInt ty (v.rd b t 1) j * elemInt ty (v.rd c t 2) j) / 2 ^ widthT ty % 2 ^ widthT ty).toNat)
  | .bmin a b c =>
    some (a, fun v t =>
      let ty := if etype v.e.mode < 6 then etype v.e.mode else 0
      packT ty fun j => if elemInt ty (v.rd b t 1) j ≤ elemInt ty (v.rd c t 2) j then elemBits ty (v.rd b t 1) j else elemBits ty (v.rd c t 2) j)
  | .mov a b => some (a, fun v t => v.rd b t)
  | .lit a i => some (a, fun _ _ => BitVec.ofInt 32 i.toInt)
  | .lith a i => some (a, fun v t => BitVec.ofNat 32 (i.toNat * 65536 + (v.rd a t).toNat % 65536))
  | _ => none

/-- The capacity figures of R153 for the issuer. -/
def capFigure (v : V) (q : Nat) : Nat :=
  let berm := ((v.s.dies[v.p.die]?).getD {}).berm
  let cores := max 1 v.p.rcores
  match q with
  | 0 => if berm then 4194304 else 2097152
  | 1 => v.p.spsize
  | 2 => if v.p.fuse then 262144 * cores else 262144
  | 3 => cores
  | 4 => v.p.ranks.length
  | 5 => ((v.s.ctx? v.p.ctx).map (·.vdt.length)).getD 0
  | 6 => 64
  | 7 => v.p.regs
  | 8 => v.p.bars.length
  | 9 => v.p.nslots
  | _ => if berm then 1 else 0

/-- The CSRs of R385 as a thread of the context c reads them; write-only ones read 0. -/
def csrValue (v : V) (c : Ctx) (n : Nat) : Word :=
  match n with
  | 0x00 => BitVec.ofNat 32 v.p.ctx
  | 0x01 => if v.p.sys then 1 else 0
  | 0x02 => c.vdtw
  | 0x03 => c.quota
  | 0x04 => BitVec.ofNat 32 c.asid
  | 0x05 => BitVec.ofNat 32 (v.s.gen c.asid)
  | 0x06 => BitVec.ofNat 32 (c.evc.getD 0 0)
  | 0x07 => BitVec.ofNat 32 (c.evc.getD 1 0)
  | 0x08 => BitVec.ofNat 32 (c.evc.getD 2 0)
  | 0x09 => (v.p.tself.map (BitVec.ofNat 32 ·)).getD 0xFFFFFFFF
  | 0x10 => if c.hold then 1 else 0
  | 0x12 => BitVec.ofNat 32 c.qbstat
  | 0x20 => BitVec.ofNat 32 c.dbg
  | 0x22 => BitVec.ofNat 32 v.f.undoCnt
  | _ => 0
/-- Their numbers. -/
def csrNumbers : List Nat := [0x00, 0x01, 0x02, 0x03, 0x04, 0x05, 0x06, 0x07, 0x08, 0x09, 0x10, 0x11, 0x12, 0x20, 0x21, 0x22]

/-- The word that a query of the sub-group gives (R118, R138, R139, R152, R153, R289, R385, R386), and its register. -/
def queryResult : Instr → Option (Opnd × (V → Mask → Word))
  | .getsr a i =>
    some (a, fun v _ =>
      let cnt (k : Nat) : Nat := min 63 (v.f.cnt.getD k 0)
      match i.toNat with
      | 0 => v.f.exc.setWidth 32
      | 1 => v.e.park ++ v.e.mask
      | 2 => v.f.r.hmask.setWidth 32
      | 3 => BitVec.ofNat 32 (256 * v.p.regs + v.f.r.vb.length)
      | 4 => BitVec.ofNat 32 (v.p.lease + (if v.p.lease = v.l.f then 64 else 0))
      | 5 => BitVec.ofNat 32 (cnt 0 + 2 ^ 6 * cnt 1 + 2 ^ 12 * cnt 2 + 2 ^ 18 * cnt 3)
      | 6 => v.f.tok.setWidth 32
      | _ => BitVec.ofNat 32 (16 * v.l.g + (v.f.r.ents.filter (·.val)).length))
  | .chstat a n => some (a, fun v _ => v.f.chstat.getD n.toNat 0)
  | .dieq a b c =>
    some (a, fun v act =>
      let die (o : Opnd) (k : Nat) : Option Nat := (v.s.ctx? v.p.ctx).bind (·.pdie (v.rd o (lowest act) k).toNat)
      match die b 1, die c 2 with
      | some x, some y => BitVec.ofNat 32 (popcount 2 (x ^^^ y))
      | _, _ => 0xFFFFFFFF)
  | .capq a q => some (a, fun v _ => BitVec.ofNat 32 (capFigure v q.toNat))
  | .mver a n => some (a, fun v _ => BitVec.ofNat 32 (v.engine.acc n.toNat).ver)
  | .csrr a i => some (a, fun v _ => csrValue v ((v.s.ctx? v.p.ctx).getD { c := v.p.ctx }) i.toNat)
  | .vote a p k =>
    some (a, fun v act =>
      let m := (threadsOf act).filter (v.rdP p)
      match k.toNat with
      | 0 => if m.isEmpty then 0 else 1
      | 1 => if m = threadsOf act then 1 else 0
      | _ => (maskOf fun t => act.getLsbD t && v.rdP p t).setWidth 32)
  | .nodeq a b q =>
    some (a, fun v act =>
      let n := (v.rd b (lowest act) 1).toNat
      match v.p.node, v.p.grid.bind v.s.grid?, v.s.ctx? v.p.ctx with
      | some e, some g, some c =>
        if q.toNat = 0 then BitVec.ofNat 32 v.p.nrec
        else if q.toNat = 2 then BitVec.ofNat 32 v.p.depth
        else if q.toNat = 5 then BitVec.ofNat 32 e
        else if g.pkt.nodes.length ≤ n then 0xFFFFFFFF
        else if q.toNat = 1 then BitVec.ofNat 32 (nodeRsize (g.node n))
        else if q.toNat = 3 then BitVec.ofNat 32 (((v.s.bin? v.p.core g.id n).map (·.recs.length)).getD 0)
        else BitVec.ofNat 32 (v.s.spill? g.id n (c.vdie v.p.die)).held.length
      | _, _, _ => 0xFFFFFFFF)
  | _ => none

/-- The thread whose word thread t gets from a lane crossing (R146), and its register and source. -/
def laneSource : Instr → Option (Opnd × Opnd × (V → Nat → Nat))
  | .shfl a b c => some (a, b, fun v t => if (v.rd c t 2).toNat ≤ 15 then (v.rd c t 2).toNat else t)
  | .shflx a b m => some (a, b, fun _ t => t ^^^ m.toNat)
  | .shflup a b m => some (a, b, fun _ t => if m.toNat ≤ t then t - m.toNat else t)
  | .shfldn a b m => some (a, b, fun _ t => if t + m.toNat ≤ 15 then t + m.toNat else t)
  | .qswx a b => some (a, b, fun _ t => t ^^^ 1)
  | .qswy a b => some (a, b, fun _ t => t ^^^ 2)
  | .qswd a b => some (a, b, fun _ t => t ^^^ 3)
  | .qbcast a b q => some (a, b, fun _ t => t / 4 * 4 + q.toNat)
  | .movs a b i => some (a, b, fun _ _ => i.toNat)
  | _ => none

/-- Per-thread words of an instruction: each thread's own, or, when it executes once, that of its lowest thread (R41). -/
def perLane (d : Desc) (m : Mask) (f : Nat → Word) (t : Nat) : Word := if d.uniform then f (lowest m) else f t

/-- The state after an instruction whose whole effect is to write word f t to register a for its threads, with L = 2. -/
def writesWord (v : V) (d : Desc) (a : Opnd) (f : Nat → Word) : State :=
  v.done d ((v.writes d).write a (v.threads d) f (fun _ => false) 2)

end Sys2Proof.Claims

open Sys2Proof Sys2Proof.Machine Sys2Proof.Claims in
/-- Bit-stage instructions, moves and literals write the word the rules give to their threads (spec/02_instruction_word.md R47, spec/05_registers.md R140, spec/05_registers.md R141, spec/05_registers.md R142, spec/05_registers.md R145). -/
def Obligations.BitStageResults : Prop :=
  ∀ (i : Instr) (s : State) (v : V) (d : Desc) (a : Opnd) (f : V → Nat → Word), Runs i s v d → wordResult i = some (a, f) →
    ((v.writes d).capOk [a] = true →
      exec i s = .next (writesWord v d a (perLane d (v.threads d) (f (v.reads d))))) ∧
    ((v.writes d).capOk [a] = false → exec i s = .next (trapAt v { t := .regcap }))

open Sys2Proof Sys2Proof.Machine Sys2Proof.Claims in
/-- Queries write the status, count or vote that the rules give (spec/04_chain.md R118, spec/05_registers.md R138, spec/05_registers.md R139, spec/05_registers.md R147, spec/05_registers.md R152, spec/05_registers.md R153, spec/11_operand_slot.md R274, spec/11_operand_slot.md R289, spec/14_queue_kernel.md R361, spec/15_context.md R385, spec/15_context.md R386). -/
def Obligations.QueryResults : Prop :=
  (∀ (i : Instr) (s : State) (v : V) (d : Desc) (a : Opnd) (f : V → Mask → Word), Runs i s v d → queryResult i = some (a, f) →
    (v.writes d).capOk [a] = true → exec i s = .next (writesWord v d a fun _ => f (v.reads d) (v.threads d))) ∧
  (∀ (v : V) (n : Nat), (v.csr n).isSome = true ↔ n ∈ csrNumbers) ∧
  ∀ (s : State) (v : V) (d : Desc) (a : Opnd) (n : BitVec 2), Runs (.mstep a n) s v d → (v.writes d).capOk [a] = true →
    let acc := v.engine.acc n.toNat
    let word (run : Bool) (kind done : Nat) : Word :=
      BitVec.ofNat 32 ((if run then 2 ^ 31 else 0) + kind * 2 ^ 28 + acc.err * 2 ^ 26 + (if acc.spec.isEmpty then 0 else 2 ^ 25) + min done 0xFFFFFF)
    (v.engine.running? n.toNat = none → exec (.mstep a n) s = .next (writesWord v d a fun _ => word false acc.opk acc.done)) ∧
    ∀ o, v.engine.running? n.toNat = some o → ∃ done, exec (.mstep a n) s = .next (writesWord v d a fun _ => word true o.kind done) ∧
      if o.kind = 3 ∨ o.kind = 4 then done ∈ 0 :: o.reached else done ≤ o.units

open Sys2Proof Sys2Proof.Machine Sys2Proof.Claims in
/-- Lane crossings deliver the source thread's word, MOVS one thread's, MATCH the mask of equal threads (spec/05_registers.md R145, spec/05_registers.md R146, spec/05_registers.md R149). -/
def Obligations.LaneResults : Prop :=
  (∀ (i : Instr) (s : State) (v : V) (d : Desc) (a b : Opnd) (u : V → Nat → Nat), Runs i s v d → laneSource i = some (a, b, u) →
    ((threadsOf (v.threads d)).any (fun t => (v.reads d).pois b (u (v.reads d) t)) = true →
      exec i s = .next (deadAt v)) ∧
    ((threadsOf (v.threads d)).any (fun t => (v.reads d).pois b (u (v.reads d) t)) = false → (v.writes d).capOk [a] = true →
      exec i s = .next (writesWord v d a (perLane d (v.threads d) fun t => (v.reads d).rd b (u (v.reads d) t) 1)))) ∧
  ∀ (s : State) (v : V) (d : Desc) (a b : Opnd), Runs (.matchT a b) s v d → (v.writes d).capOk [a] = true →
    exec (.matchT a b) s = .next (writesWord v d a (perLane d (v.threads d) fun t =>
      BitVec.ofNat 32 ((List.range 16).foldl (fun n u =>
        if (v.threads d).getLsbD u && (v.reads d).rd b u == (v.reads d).rd b t then n + 2 ^ u else n) 0)))

open Sys2Proof Sys2Proof.Machine Sys2Proof.Claims in
/-- A written register reads back per thread, once per fascine, or as zero; other names and threads keep theirs (spec/02_instruction_word.md R39, spec/05_registers.md R124, spec/05_registers.md R129). -/
def Obligations.RegisterWriteReadsBack : Prop :=
  ∀ (v : V) (m : Mask) (f : Nat → Word) (L : Nat),
    (∀ (n : Fin 160) (t : Nat), t < 16 →
      (v.write (.v n) m f (fun _ => false) L).f.r.vword n t = (if m.getLsbD t then f t else v.f.r.vword n t) ∧
      (m.getLsbD t = true → (v.write (.v n) m f (fun _ => false) L).f.r.vpois n t = false) ∧
      ∀ k : Nat, k ≠ n.val → (v.write (.v n) m f (fun _ => false) L).f.r.vword k t = v.f.r.vword k t) ∧
    (∀ n : Fin 48, n.val < v.f.r.s.length →
      (v.write (.s n) m f (fun _ => false) L).f.r.s[n.val]? = some (f (lowest m)) ∧
      ∀ k : Nat, k ≠ n.val → (v.write (.s n) m f (fun _ => false) L).f.r.s[k]? = v.f.r.s[k]?) ∧
    v.write .zero m f (fun _ => false) L = v ∧ (∀ t, v.rd .zero t = 0) ∧ (v.f.r.vb = [] → ∀ n t, v.f.r.vword n t = 0) ∧
    ∀ o : Opnd, (v.write o m f (fun _ => false) L).f.r.preds = v.f.r.preds ∧ (v.write o m f (fun _ => false) L).f.exc = v.f.exc ∧
      (v.write o m f (fun _ => false) L).s = v.s

open Sys2Proof Sys2Proof.Machine Sys2Proof.Claims in
/-- ADDC and SUBB give the word of the sum or difference and the carry or borrow in p6 (spec/05_registers.md R143, spec/02_instruction_word.md R41). -/
def Obligations.CarryResults : Prop :=
  ∀ (s : State) (v : V) (d : Desc) (a b c : Opnd) (sub : Bool),
    Runs (if sub then .subb a b c else .addc a b c) s v d → v.threads d &&& v.f.r.ppois = 0 → (v.writes d).capOk [a] = true →
    ∃ k, k ∈ threadsOf (v.threads d) ∧
    let r := v.reads d
    let u (t : Nat) : Nat := if d.uniform then lowest (v.threads d) else t
    let p6 (t : Nat) : Int := if r.rdP ⟨false, 6⟩ (if d.uniform then k else t) then 1 else 0
    let x (t : Nat) : Int :=
      if sub then ((r.rd b (u t) 1).toNat : Int) - (r.rd c (u t) 2).toNat - p6 t else (r.rd b (u t) 1).toNat + (r.rd c (u t) 2).toNat + p6 t
    exec (if sub then .subb a b c else .addc a b c) s =
      .next (v.done d (((v.writes d).write a (v.threads d) (fun t => BitVec.ofInt 32 (x t)) (fun _ => false) 2).wrP 6 (v.threads d)
        fun t => if sub then decide (x t < 0) else decide (2 ^ 32 ≤ x t)))

open Sys2Proof Sys2Proof.Machine Sys2Proof.Claims in
/-- Predicate instructions and MOVP write the predicates or the word that the rule gives (spec/05_registers.md R144, spec/05_registers.md R140, spec/04_chain.md R110). -/
def Obligations.PredicateResults : Prop :=
  (∀ (s : State) (v : V) (d : Desc) (p : Fin 8) (q q' : Pred),
    (Runs (.pand p q q') s v d → exec (.pand p q q') s =
      .next (v.done d ((v.writes d).wrP p (v.threads d) fun t => (v.reads d).rdP q t 1 && (v.reads d).rdP q' t 2))) ∧
    (Runs (.por p q q') s v d → exec (.por p q q') s =
      .next (v.done d ((v.writes d).wrP p (v.threads d) fun t => (v.reads d).rdP q t 1 || (v.reads d).rdP q' t 2))) ∧
    (Runs (.pxor p q q') s v d → exec (.pxor p q q') s =
      .next (v.done d ((v.writes d).wrP p (v.threads d) fun t => (v.reads d).rdP q t 1 ^^ (v.reads d).rdP q' t 2))) ∧
    (Runs (.pnot p q) s v d → exec (.pnot p q) s =
      .next (v.done d ((v.writes d).wrP p (v.threads d) fun t => !(v.reads d).rdP q t 1)))) ∧
  (∀ (s : State) (v : V) (d : Desc) (p : Fin 8) (x : BitVec 1), Runs (.pset p x) s v d →
    exec (.pset p x) s = .next (v.done d ((v.writes d).wrP p (v.threads d) fun _ => x.getLsbD 0))) ∧
  (∀ (s : State) (v : V) (d : Desc) (k : Pcc) (b c : Opnd), Runs (.isetp k b c) s v d →
    (k.comb = .set ∨ k.p = 7 ∨ v.threads d &&& v.f.r.ppois = 0) →
    let ty := if etype v.e.mode < 6 then etype v.e.mode else 0
    exec (.isetp k b c) s = .next (v.done d ((v.writes d).wrP k.p (v.threads d) fun t =>
      combine k.comb ((v.reads d).rdP ⟨false, k.p⟩ t) ((List.range (32 / widthT ty)).all fun j =>
        condInt k.cond (elemInt ty ((v.reads d).rd b t 1) j) (elemInt ty ((v.reads d).rd c t 2) j))))) ∧
  (∀ (s : State) (v : V) (d : Desc) (b : Opnd), Runs (.movpUnpack b) s v d → ∃ w, exec (.movpUnpack b) s = .next (v.done d w) ∧
    w.f.r.ppois = (v.writes d).f.r.ppois &&& ~~~v.threads d ∧
    ∀ t k, t < 16 → k < 7 → (w.f.r.preds.getD t 0).getLsbD k =
      if (v.threads d).getLsbD t then ((v.reads d).rd b t).getLsbD k else ((v.writes d).f.r.preds.getD t 0).getLsbD k) ∧
  ∀ (s : State) (v : V) (d : Desc) (a : Opnd), Runs (.movpPack a) s v d → v.threads d &&& v.f.r.ppois = 0 →
    (v.writes d).capOk [a] = true → ∃ (f : Nat → Word) (u : Nat), exec (.movpPack a) s = .next (writesWord v d a f) ∧
      u ∈ threadsOf (v.threads d) ∧
      ∀ t, (f t).toNat < 256 ∧ ∀ k : Fin 8, (f t).getLsbD k = (v.reads d).rdP ⟨false, k⟩ (if d.uniform then u else t)

namespace Sys2Proof.Claims
open Sys2Proof.Machine

/-- A running fold of a lane instruction over threads in ascending order (R150): the value and what it signals. -/
def foldTo (v : V) (o : Nat) (b : Opnd) (ts : List Nat) : Option (Word × BitVec 5) :=
  ts.foldl (fun acc t => match acc with
    | none => some (v.rd b t, 0)
    | some (y, f) =>
      let (z, g) := scanOp o v.e.mode (v.s.draw (t + 2 ^ 32)) y (v.rd b t)
      some (z, f ||| g)) none

/-- The word of such a fold, 0 over no thread. -/
def foldWord (v : V) (o : Nat) (b : Opnd) (ts : List Nat) : Word := ((foldTo v o b ts).map (·.1)).getD 0
/-- What such a fold signals. -/
def foldExc (v : V) (o : Nat) (b : Opnd) (ts : List Nat) : BitVec 5 := ((foldTo v o b ts).map (·.2)).getD 0

/-- The far thread minus the near thread of thread t's pair, k = 1 in a row and 2 in a column, as SUB gives it (R146). -/
def pairDiff (v : V) (b : Opnd) (k t : Nat) : MOut :=
  let near := if t / k % 2 = 1 then t - k else t
  arithMember { mode := v.e.mode, write := true, draw := v.s.draw (near + 2 ^ 32) } .sub 0 (.word (v.rd b (near + k))) (.word (v.rd b near))

/-- The view `w` with the exceptions x signalled (R81). -/
def signalled (w : V) (x : BitVec 5) : V := { w with f := { w.f with exc := w.f.exc ||| x } }

/-- The threads that a member acts for: SEL acts for every running one (R42, R111). -/
def memberThreads (m : MIns) (v : V) (d : Desc) : Mask := if m.op = .sel then v.e.running else v.threads d

/-- Whether a member's own reads of predicates meet no poison (R129): the old value that a combine folds, the selector of SEL. -/
def memberClean (m : MIns) (v : V) (d : Desc) : Prop :=
  (∀ p, m.p = some p → m.comb ≠ .set → p ≠ 7 → memberThreads m v d &&& v.f.r.ppois = 0) ∧
  (m.op = .sel → v.e.mode.toNat % 8 ≠ 7 → v.e.running &&& v.f.r.ppois = 0)

/-- One thread of a member whose sources are registers. -/
def memberOut (m : MIns) (v : V) (t : Nat) : MOut :=
  let src (o : Option Opnd) (k : Nat) : MSrc := .word ((o.map fun o => v.rd o t k).getD 0)
  m.compute { mode := v.e.mode, write := m.p.isNone && m.q.isNone && m.a != .zero, draw := v.s.draw (t + 2 ^ 32) } v.codebook
    (v.rdP (guardOf v.e.mode) t 3) ((m.q.map fun q => v.rdP q t).getD false) (if m.rdA then v.rd m.a t else 0) (src m.b 1) (src m.c 2)

/-- What a member writes as it issues, when no exception traps: its predicate, combined with the old one, or its register. -/
def memberWrites (m : MIns) (r w : V) (act : Mask) (mask : Mask) (out : Nat → MOut) : V :=
  if act = 0 then w
  else match m.p with
    | some p => w.wrP p act (fun t => combine m.comb (r.rdP ⟨false, p⟩ t) (out t).cond) (m.op.delay + 4)
    | none => if m.q.isSome ∨ m.a = .zero ∨ mask = 0 then w else w.write m.a mask (fun t => (out t).word) (fun _ => false) (m.op.delay + 4)

end Sys2Proof.Claims

open Sys2Proof Sys2Proof.Machine Sys2Proof.Claims in
/-- SCANF and REDF fold over the active threads in ascending order; DDX and DDY take differences in the quad (spec/03_numbers.md R81, spec/05_registers.md R129, spec/05_registers.md R146, spec/05_registers.md R150). -/
def Obligations.FoldResults : Prop :=
  (∀ (i : Instr) (s : State) (v : V) (d : Desc) (a b : Opnd) (o : BitVec 3) (red : Bool), Runs i s v d →
    (i = .scanf a b o ∧ red = false) ∨ (i = .redf a b o ∧ red = true) →
    let ts := threadsOf (v.threads d)
    let x := foldExc (v.reads d) o.toNat b ts
    (ts.any ((v.reads d).pois b) = true → exec i s = .next (deadAt v)) ∧
    (ts.any ((v.reads d).pois b) = false → x &&& modeTen v.e.mode ≠ 0 → exec i s = .next (trapAt v { t := .arith, sub := x.toNat })) ∧
    (ts.any ((v.reads d).pois b) = false → x &&& modeTen v.e.mode = 0 → (v.writes d).capOk [a] = true →
      ∃ f : Nat → Word, exec i s = .next (v.done d ((signalled (v.writes d) x).write a (v.threads d) f (fun _ => false) 2)) ∧
        ∀ t ∈ ts, f t = foldWord (v.reads d) o.toNat b (if red || d.uniform then ts else ts.filter (· ≤ t)))) ∧
  ∀ (i : Instr) (s : State) (v : V) (d : Desc) (a b : Opnd) (k : Nat), Runs i s v d → (i = .ddx a b ∧ k = 1) ∨ (i = .ddy a b ∧ k = 2) →
    let ts := threadsOf (v.threads d)
    let out (t : Nat) : MOut := pairDiff (v.reads d) b k (if d.uniform then lowest (v.threads d) else t)
    let x := ts.foldl (fun a t => a ||| (out t).exc) 0
    let clean := ts.all fun t => !(v.reads d).pois b (if t / k % 2 = 1 then t else t + k) && !(v.reads d).pois b (if t / k % 2 = 1 then t - k else t)
    (clean = false → exec i s = .next (deadAt v)) ∧
    (clean = true → x &&& modeTen v.e.mode ≠ 0 → exec i s = .next (trapAt v { t := .arith, sub := x.toNat })) ∧
    (clean = true → x &&& modeTen v.e.mode = 0 → (v.writes d).capOk [a] = true →
      exec i s = .next (v.done d ((signalled (v.writes d) x).write a (v.threads d) (fun t => (out t).word) (fun _ => false) 2)))

namespace Sys2Proof.Claims
open Sys2Proof.Machine

/-- Fraction bits of a floating element type: f32, f16x2, bf16x2 (R67). -/
def fracBits (ty : Nat) : Nat := if ty = 6 then 23 else if ty = 7 then 10 else 7
/-- Units of the least subnormal in 1.0 of such a type, as a power of 2 (R67). -/
def oneUnits (ty : Nat) : Nat := if ty = 6 then 149 else if ty = 7 then 24 else 133
/-- The exponent field of an element. -/
def expField (ty x : Nat) : Nat := x / 2 ^ fracBits ty % 2 ^ (widthT ty - 1 - fracBits ty)
/-- Whether an element is finite. -/
def finiteEl (ty x : Nat) : Prop := expField ty x ≠ 2 ^ (widthT ty - 1 - fracBits ty) - 1
/-- The value of a finite element in units of the type's least subnormal (R67). -/
def units (ty x : Nat) : Int :=
  let m := x % 2 ^ fracBits ty
  let n : Nat := if expField ty x = 0 then m else (2 ^ fracBits ty + m) * 2 ^ (expField ty x - 1)
  if x / 2 ^ (widthT ty - 1) % 2 = 1 then -(n : Int) else n
/-- The element r is n / d units rounded to nearest, ties to even (R75). -/
def nearest (ty r : Nat) (n d : Int) : Prop :=
  finiteEl ty r ∧ ∀ z, z < 2 ^ widthT ty → finiteEl ty z →
    (units ty r * d - n).natAbs ≤ (units ty z * d - n).natAbs ∧
    ((units ty r * d - n).natAbs = (units ty z * d - n).natAbs → r ≠ z → r % 2 = 0)

end Sys2Proof.Claims

open Sys2Proof Sys2Proof.Machine Sys2Proof.Claims in
/-- Integer members are exact and then wrap or saturate; floating members and CVT deliver the exact result, rounded once (spec/03_numbers.md R66, spec/03_numbers.md R67, spec/03_numbers.md R75, spec/03_numbers.md R78, spec/03_numbers.md R82, spec/03_numbers.md R83, spec/04_chain.md R107, spec/04_chain.md R108, spec/04_chain.md R109). -/
def Obligations.IntegerMembers : Prop :=
  (∀ (e : MEnv) (op : COp) (a x y : Word) (j : Nat), etype e.mode < 6 → j < 32 / widthT (etype e.mode) →
    let ty := etype e.mode
    let w := widthT ty
    let el (z : Word) : Int := elemInt ty z j
    let lo : Int := if ty % 2 = 0 then -(2 ^ (w - 1)) else 0
    let hi : Int := if ty % 2 = 0 then 2 ^ (w - 1) - 1 else 2 ^ w - 1
    let exact : Option Int := match op with
      | .add => some (el x + el y)
      | .sub => some (el x - el y)
      | .mul => some (el x * el y)
      | .mad => some (el x * el y + el a)
      | .msb => some (el x * el y - el a)
      | .nmad => some (-(el x * el y + el a))
      | .nmsb => some (el a - el x * el y)
      | .min => some (min (el x) (el y))
      | .max => some (max (el x) (el y))
      | .abs => some (if el x < 0 then -el x else el x)
      | .neg => some (-el x)
      | .clamp => some (min (max (el a) (el x)) (el y))
      | _ => none
    ∀ z, exact = some z →
      (arithMember e op a (.word x) (.word y)).exc = 0 ∧
      (elemBits ty (arithMember e op a (.word x) (.word y)).word j : Int) = (if modeSat e.mode then max lo (min hi z) else z) % 2 ^ w) ∧
  (∀ (e : MEnv) (a x y : Word), etype e.mode < 2 → modeSat e.mode = false →
    (arithMember e .add a (.word x) (.word y)).word = x + y ∧ (arithMember e .sub a (.word x) (.word y)).word = x - y ∧
    (arithMember e .mul a (.word x) (.word y)).word = x * y ∧ (arithMember e .mad a (.word x) (.word y)).word = x * y + a) ∧
  (∀ (e : MEnv) (op : COp) (a x y : Word) (j : Nat), etype e.mode ∈ [6, 7, 8] → modeRnd e.mode = 0 → modePrec e.mode = 0 → modeFtz e.mode = false →
    j < 32 / widthT (etype e.mode) →
    let ty := etype e.mode
    let el (z : Word) : Nat := elemBits ty z j
    let one : Int := 2 ^ oneUnits ty
    finiteEl ty (el a) → finiteEl ty (el x) → finiteEl ty (el y) →
    let A := units ty (el a)
    let X := units ty (el x)
    let Y := units ty (el y)
    let exact : Option (Int × Int) := match op with
      | .add => some (X + Y, 1)
      | .sub => some (X - Y, 1)
      | .mul => some (X * Y, one)
      | .mad => some (X * Y + A * one, one)
      | .msb => some (X * Y - A * one, one)
      | .nmad => some (-(X * Y + A * one), one)
      | .nmsb => some (A * one - X * Y, one)
      | .div => some (X * one, Y)
      | .rcp => some (one * one, X)
      | _ => none
    ∀ n d, exact = some (n, d) → n ≠ 0 → d ≠ 0 →
      n.natAbs ≤ (2 ^ (fracBits ty + 1) - 1) * 2 ^ (2 ^ (widthT ty - 1 - fracBits ty) - 3) * d.natAbs →
      nearest ty (elemBits ty (arithMember e op a (.word x) (.word y)).word j) n d) ∧
  (∀ (e : MEnv) (a x y : Word) (j : Nat), etype e.mode ∈ [6, 7, 8] → modePrec e.mode = 0 → modeFtz e.mode = false →
    j < 32 / widthT (etype e.mode) →
    let ty := etype e.mode
    let top := 2 ^ (widthT ty - 1)
    let el (z : Word) : Nat := elemBits ty z j
    finiteEl ty (el x) → finiteEl ty (el y) →
    let r (op : COp) : Nat := el (arithMember e op a (.word x) (.word y)).word
    r .abs = el x % top ∧ r .neg = (el x + top) % (2 * top) ∧
    (r .min = el x ∨ r .min = el y) ∧ units ty (r .min) = min (units ty (el x)) (units ty (el y)) ∧
    (r .max = el x ∨ r .max = el y) ∧ units ty (r .max) = max (units ty (el x)) (units ty (el y))) ∧
  (∀ (e : MEnv) (book : List Byte) (b : Word), etype e.mode = 6 → modeRnd e.mode = 0 → modePrec e.mode = 0 → b ≠ 0 →
    nearest 6 (cvtMember e 0 book (.word b)).word.toNat (b.toInt * 2 ^ 149) 1) ∧
  ∀ (e : MEnv) (book : List Byte) (b : Word), etype e.mode = 0 → modeRnd e.mode = 1 → finiteEl 6 b.toNat →
    let q := Int.tdiv (units 6 b.toNat) (2 ^ 149)
    let z := max (-(2 ^ 31)) (min (2 ^ 31 - 1) q)
    (cvtMember e 6 book (.word b)).word = BitVec.ofInt 32 z ∧ (cvtMember e 6 book (.word b)).exc.getLsbD 4 = decide (q ≠ z)

open Sys2Proof Sys2Proof.Machine Sys2Proof.Claims in
/-- A chain member that does not co-stream computes its result and starts a chain of its own (spec/04_chain.md R91, spec/04_chain.md R92, spec/04_chain.md R94, spec/04_chain.md R99, spec/04_chain.md R104, spec/04_chain.md R107, spec/04_chain.md R110 to R117, spec/02_instruction_word.md R32). -/
def Obligations.ChainMemberAlone : Prop :=
  (∀ (i : Instr) (m : MIns) (s : State) (v : V) (d : Desc), i.member? = some m → Runs i s v d → m.op ≠ .cancel → memberClean m v d →
    v.joins d = false → v.opens d = false →
    (4 ≤ v.f.chains.length ∨ v.f.chains.any Chain.fills = true → exec i s = .next v.endChain.put) ∧
    (v.f.chains.length < 4 → v.f.chains.any Chain.fills = false → (m.p = none → (v.writes d).capOk [m.a] = true) →
      let act := memberThreads m v d
      let out := fun t => memberOut m (v.reads d) (if d.uniform then lowest act else t)
      ∃ (w : V) (c : Chain) (x : Member), exec i s = .next (v.done d w) ∧
        w.f.chains.map Chain.id = (v.writes d).f.chains.map Chain.id ++ [c.id] ∧ w.f.chains.getLast? = some c ∧ c.mems = [x] ∧ c.g = v.l.g ∧
        c.mode = v.e.mode ∧ c.unif = d.uniform ∧ c.amask = act ∧ c.pc1 = v.e.pc ∧ c.st = 1 ∧ x.word = v.l.word ∧
        (∀ t ∈ threadsOf act, x.out[t]? = some (out t).out ∧ x.exc[t]? = some (out t).exc) ∧
        (modeTen v.e.mode = 0 → x.writes = none ∧ w.f.r = (memberWrites m (v.reads d) (v.writes d) act act out).f.r ∧
          w.p = (memberWrites m (v.reads d) (v.writes d) act act out).p) ∧
        (modeTen v.e.mode ≠ 0 → w.f.r = (v.writes d).f.r ∧ w.p = (v.writes d).p))) ∧
  ∀ (p : Pred) (s : State) (v : V) (d : Desc), Runs (.chcancel p) s v d → v.joins d = false → v.opens d = false →
    ∃ w, exec (.chcancel p) s = .next (v.done d w) ∧ w.f.r = (v.writes d).f.r ∧ w.f.chains = (v.writes d).f.chains ∧ w.p = (v.writes d).p ∧
      w.f.chstat = if v.l.dist = 0 then modAt (v.writes d).f.chstat 3 (· + 1) else (v.writes d).f.chstat

open Sys2Proof Sys2Proof.Machine Sys2Proof.Claims in
/-- A member that co-streams, or opens an announced chain, is appended to it and computes on its stream (spec/04_chain.md R94, spec/04_chain.md R95, spec/04_chain.md R99, spec/04_chain.md R106, spec/04_chain.md R107, spec/04_chain.md R116). -/
def Obligations.ChainMemberJoins : Prop :=
  ∀ (i : Instr) (m : MIns) (s : State) (v : V) (d : Desc) (c : Chain), i.member? = some m → Runs i s v d → memberClean m v d →
    (v.reads d).chain? = some c → v.joins d = true ∨ v.opens d = true → (m.p = none → m.q = none → (v.writes d).capOk [m.a] = true) →
    v.joins d = true ∨ c.nopen ≠ 4 ∨ v.f.chains.any Chain.fills = false →
    let act0 := memberThreads m v d
    let c0 : Chain := if v.joins d then c else { c with unif := d.uniform, mode := v.e.mode, amask := act0 }
    let act := if v.joins d ∧ m.op ≠ .sel then act0 &&& c.live else act0
    let out := fun t => m.eval (v.reads d) c0
      { mode := c0.mode, write := m.p.isNone && m.q.isNone && m.a != .zero, draw := s.draw (t + 16 * c.mems.length + 2 ^ 32) } t
    let outs := fun t => out (if d.uniform then lowest act else t)
    ∃ (w : V) (c' : Chain) (x : Member), exec i s = .next (v.done d w) ∧ c' ∈ w.f.chains ∧ c'.id = c.id ∧
      c'.mems.map Member.word = c.mems.map Member.word ++ [v.l.word] ∧ c'.mems.getLast? = some x ∧
      (∀ t ∈ threadsOf act, x.out[t]? = some (outs t).out) ∧ c'.amask = c0.amask ∧
      c'.st = (if 0 < c.nopen then (if c.mems.length + 1 = c.nopen then 2 else 0)
        else if c.mems.length + 1 = 4 ∨ m.op = .close ∨ m.op = .cancel then 2 else 1) ∧
      (modeTen c0.mode = 0 →
        w.f.r = (memberWrites m (v.reads d) (v.writes d) act (m.writers c0 act) outs).f.r ∧
        w.p = (memberWrites m (v.reads d) (v.writes d) act (m.writers c0 act) outs).p)

open Sys2Proof Sys2Proof.Machine Sys2Proof.Claims in
/-- A drained chain ends: it traps ARITH when an enabled exception was signalled, else adds its exceptions (spec/04_chain.md R92, spec/04_chain.md R97, spec/04_chain.md R99, spec/04_chain.md R103, spec/04_chain.md R104, spec/15_context.md R372). -/
def Obligations.ChainDrains : Prop :=
  ∀ (s : State) (h i : Nat) (p : Polder) (x : Fascine) (c : Chain), s.polder? h = some p → p.fs[i]? = some x →
    x.chains.find? (·.id == c.id) = some c →
    let runs := c.st = 2 ∧ p.halt = none ∧ p.stopReq = none ∧ p.dieHalt = false ∧ c.soonest ≤ c.ran
    let first := modeTen c.mode = 0 ∧ s.issuesFirst p i c.g = true
    (¬runs ∨ first → exec (.chainDrainComplete h i c.id) s = .next { s with cur := none, free := s.free + 1 }) ∧
    (runs → c.excAll &&& modeTen c.mode ≠ 0 → ∃ (u : State) (k : Nat),
      exec (.chainDrainComplete h i c.id) s =
        .next ({ u.takeTrap h i c.g c.pc1 c.pc1 { t := .arith, sub := c.excAll.toNat, data := k } with cur := none, free := s.free + 1 }) ∧
      u = s.modFasc h i (fun x => { x with chains := x.chains.filter (·.id != c.id), r := c.freed.foldl Regs.rebind x.r }) ∧
      1 ≤ k ∧ k ≤ max 1 c.mems.length) ∧
    (runs → ¬first → c.excAll &&& modeTen c.mode = 0 → ∃ y : Fascine, y.exc = x.exc ||| c.excAll ∧ y.chains.all (·.id != c.id) = true ∧ y.r = x.r ∧
      exec (.chainDrainComplete h i c.id) s = .next { s.setPolder ((c.mems.filterMap (·.writes)).foldl (fun q w => q.makeHeld s i c w)
        { p with fs := modAt p.fs i fun _ => y }) with cur := none, free := s.free + 1 })

open Sys2Proof Sys2Proof.Machine Sys2Proof.Claims in
/-- CHOPEN announces a chain, a broken sequence traps CHSEQ, and a decision counts a cancelled thread (spec/04_chain.md R91, spec/04_chain.md R95, spec/04_chain.md R97, spec/04_chain.md R99, spec/04_chain.md R100, spec/04_chain.md R101, spec/04_chain.md R114, spec/04_chain.md R118). -/
def Obligations.ChainControl : Prop :=
  (∀ (s : State) (v : V) (d : Desc) (n : BitVec 3), Runs (.chopen n) s v d →
    (v.f.chains.length < 4 → ∃ (w : V) (c : Chain), exec (.chopen n) s = .next (v.done d w) ∧
      w.f.chains = (v.writes d).f.chains ++ [c] ∧ c.g = v.l.g ∧ c.st = 0 ∧ c.nopen = n.toNat ∧ c.mems = [] ∧ c.pc1 = v.e.pc ∧
      w.f.r = (v.writes d).f.r ∧ w.f.exc = v.f.exc ∧ w.f.cnt = v.f.cnt ∧ w.p.breg = v.p.breg ∧ w.s.dev = s.dev) ∧
    (4 ≤ v.f.chains.length → exec (.chopen n) s = .next v.endChain.put)) ∧
  (∀ (i : Instr) (s : State) (v : V) (d : Desc) (c : Chain), Issues i s v d → v.decoded d = true →
    v.chain? = some c → 0 < c.nopen → v.joins d = false → v.opens d = false →
    exec i s = .next (trapAt v { t := .chseq })) ∧
  ∀ (s : State) (h i t : Nat) (p : Polder) (x : Fascine) (c : Chain), s.polder? h = some p → p.fs[i]? = some x →
    x.chains.find? (·.id == c.id) = some c → p.frozen = false → c.tokens.getLsbD t = false → x.chstat.length = 4 →
    ∀ j k, c.mems.findIdx? Member.sender = some k → c.lanes.findIdx? (· == t) = some j → c.startOf j k ≤ c.ran →
    ∃ (u : State) (y : Fascine) (c' : Chain), exec (.chdecDecide h i c.id t) s = .next u ∧ u.fasc? h i = some y ∧
      c' ∈ y.chains ∧ c'.id = c.id ∧ c'.tokens = (c.tokens ||| (if c.sends t then maskOf (· == t) else 0)) ∧ y.r = x.r ∧
      ∃ k, k ≤ c.saved ∧
        y.chstat = if c.sends t then setAt (setAt x.chstat 1 (x.chstat.getD 1 0 + 1)) 0 (x.chstat.getD 0 0 + BitVec.ofNat 32 k) else x.chstat

namespace Sys2Proof.Claims
open Sys2Proof.Machine

/-- How an instruction branches (R171, R172): its taken threads, their targets as slot indexes or byte offsets, whether it
calls, and a register that it writes first. `none` for a target that traps MISALIGN. -/
structure Branch where
  taken : Mask
  dest : Nat → Nat
  link : Bool := false
  count : Option Opnd := none

/-- The target of a direct branch (R26): none below slot 0, which traps. -/
def directTarget (v : V) (imm : Int) : Option Nat :=
  let k := (3 * (v.e.pc.toNat / 16) + (v.e.pc.toNat / 4 % 4 - 1) : Nat) + imm
  if k < 0 then none else some (16 * (k.toNat / 3) + 4 * (k.toNat % 3 + 1))

/-- The branch of an instruction, from the view it reads and its threads; none: some taken target is invalid. -/
def branchOf (i : Instr) (d : Desc) (v : V) (act : Mask) : Option Branch :=
  let direct (taken : Mask) (imm : Int) : Option Branch :=
    if taken = 0 then some ⟨0, fun _ => 0, false, none⟩ else (directTarget v imm).map fun x => ⟨taken, fun _ => x, false, none⟩
  let indirect (o : Opnd) (link : Bool) : Option Branch :=
    if (threadsOf act).all fun t => (v.rd o t).toNat % 4 == 0 && (v.rd o t).toNat / 4 % 4 != 0 then
      some ⟨act, fun t => (v.rd o t).toNat, link, none⟩ else none
  match i with
  | .bra imm => direct act imm.toInt
  | .brc p imm => direct (act &&& maskOf (v.rdP p)) imm.toInt
  | .dbnz a imm =>
    (direct (act &&& maskOf fun t => v.rd a (if d.uniform then lowest act else t) != 1) imm.toInt).map fun b => { b with count := some a }
  | .brx o => indirect o false
  | .call imm => (directTarget v imm.toInt).map fun x => ⟨act, fun _ => x, true, none⟩
  | .callx o => indirect o true
  | .ret => if (threadsOf act).any (v.pois (.v 159)) then none else indirect (.v 159) false
  | _ => none

/-- The registers that a branch writes before it branches: DBNZ its count, a call the link register v159. -/
def Branch.writes (b : Branch) (d : Desc) (r w : V) (act : Mask) : V :=
  match b.count with
  | some a => w.write a act (fun t => r.rd a (if d.uniform then lowest act else t) - 1) (fun _ => false) 2
  | none => if b.link then w.write (.v 159) act (fun _ => nextSlot r.e.pc) (fun _ => false) 2 else w

/-- The registers that a branch needs room for. -/
def Branch.names (b : Branch) : List Opnd :=
  match b.count with
  | some a => [a]
  | none => if b.link then [.v 159] else []

/-- Whether every counter and token that WAITF selects is clear (R30). -/
def flagClear (f : Fascine) (i : Nat) : Prop := if i < 4 then f.cnt.getD i 0 = 0 else f.tok.getLsbD (i - 4) = false

end Sys2Proof.Claims

open Sys2Proof Sys2Proof.Machine Sys2Proof.Claims in
/-- Slot index and slot offset convert into each other; the slot that follows is the next of the bundle or of the next one (spec/02_instruction_word.md R24, spec/02_instruction_word.md R25). -/
def Obligations.SlotCounts : Prop :=
  (∀ o, validSlot o = true ↔ o % 4 = 0 ∧ o / 4 % 4 ≠ 0) ∧
  (∀ o, validSlot o = true → slotIndex o = 3 * (o / 16) + (o / 4 % 4 - 1) ∧ slotOffset (slotIndex o) = o) ∧
  (∀ k, validSlot (slotOffset k) = true ∧ slotIndex (slotOffset k) = k) ∧
  ∀ pc : Word, validSlot pc.toNat = true → nextSlot pc = pc + (if pc.toNat / 4 % 4 = 3 then 8 else 4)

open Sys2Proof Sys2Proof.Machine Sys2Proof.Claims in
/-- Every branch, call and return writes its link or count and places the groups of its running threads (spec/02_instruction_word.md R26, spec/06_fascine_rank.md R159, spec/06_fascine_rank.md R171, spec/06_fascine_rank.md R172). -/
def Obligations.BranchesPlaceTheirGroups : Prop :=
  ∀ (i : Instr) (s : State) (v : V) (d : Desc) (b : Branch), Runs i s v d → branchOf i d (v.reads d) (v.threads d) = some b →
    (b.names ≠ [] → (v.writes d).capOk b.names = true) →
    let gs := (v.reads d).groups b.taken b.dest
    (∀ w, (b.writes d (v.reads d) (v.writes d) (v.threads d)).place gs.1 gs.2 = some w → exec i s = .next (v.doneAt d w)) ∧
    ((b.writes d (v.reads d) (v.writes d) (v.threads d)).place gs.1 gs.2 = none → exec i s = .next (trapAt v { t := .splitov }))

open Sys2Proof Sys2Proof.Machine Sys2Proof.Claims in
/-- A branch to a slot below 0, or to no slot, traps MISALIGN (spec/02_instruction_word.md R26, spec/06_fascine_rank.md R171, spec/06_fascine_rank.md R172). -/
def Obligations.BadTargetsTrap : Prop :=
  (∀ (i : Instr) (s : State) (v : V) (d : Desc) (imm : Int), Runs i s v d → directTarget v imm = none →
    ((∃ k, i = .bra k ∧ imm = k.toInt) ∨ (∃ k, i = .call k ∧ imm = k.toInt) ∨
      (∃ p k, i = .brc p k ∧ imm = k.toInt ∧ v.threads d &&& maskOf ((v.reads d).rdP p) ≠ 0) ∨
      (∃ a k, i = .dbnz a k ∧ imm = k.toInt ∧
        (v.threads d &&& maskOf fun t => (v.reads d).rd a (if d.uniform then lowest (v.threads d) else t) != 1) ≠ 0)) →
    exec i s = .next (trapAt v { t := .misalign })) ∧
  ∀ (i : Instr) (s : State) (v : V) (d : Desc) (o : Opnd) (k : Nat), Runs i s v d →
    i = .brx o ∨ i = .callx o ∨ (i = .ret ∧ o = .v 159 ∧ (threadsOf (v.threads d)).any ((v.reads d).pois o) = false) →
    (threadsOf (v.threads d)).find? (fun t => !validSlot ((v.reads d).rd o t).toNat) = some k →
    exec i s = .next (trapAt v { t := .misalign, addr := ((v.reads d).rd o k).toNat })

open Sys2Proof Sys2Proof.Machine Sys2Proof.Claims in
/-- The first group moves the PC, later ones get the lowest free entries, and with a full table the rest are parked (spec/06_fascine_rank.md R159, spec/02_instruction_word.md R25). -/
def Obligations.PlacementOfGroups : Prop :=
  (∀ (w : V) (o : Nat) (m : Mask) (fall : Bool), ∃ u, w.place [(o, m)] fall = some u ∧ u.e.pc = BitVec.ofNat 32 o ∧ u.e.mask = w.e.mask ∧
    u.e.park = w.e.park ∧ u.e.rjf = w.e.rjf ∧ u.f = w.f ∧ u.p = w.p ∧ u.s = w.s) ∧
  (∀ (w : V) (a b : Nat) (m n : Mask) (fall : Bool),
    (∀ k ks, w.f.freeEntries = k :: ks → ∃ u x, w.place [(a, m), (b, n)] fall = some u ∧ u.e.pc = BitVec.ofNat 32 a ∧
      u.e.mask = w.e.mask &&& ~~~n ∧ u.e.park = w.e.park ∧ u.f.r.ents[k]? = some x ∧ x.pc = BitVec.ofNat 32 b ∧ x.mask = n ∧ x.park = 0 ∧
      x.rjf = false ∧ x.wj = false ∧ x.val = true ∧ x.mode = w.e.mode ∧ ∀ j, j ≠ k → u.f.r.ents[j]? = w.f.r.ents[j]?) ∧
    (w.f.freeEntries = [] → w.e.park = 0 → w.e.rjf = false → ∃ u, w.place [(a, m), (b, n)] fall = some u ∧ u.e.pc = BitVec.ofNat 32 a ∧
      u.e.mask = w.e.mask ∧ u.e.park = n ∧ u.e.rpc = (if fall then BitVec.ofNat 32 b else w.e.pc) ∧ u.f = w.f) ∧
    (w.f.freeEntries = [] → w.e.park ≠ 0 ∨ w.e.rjf = true → w.place [(a, m), (b, n)] fall = none)) ∧
  ∀ (w : V) (o : Nat) (m : Mask) (later : List (Nat × Mask)) (fall : Bool),
    let free := w.f.freeEntries
    let rest := later.drop free.length
    (rest ≠ [] → w.e.park ≠ 0 ∨ w.e.rjf = true → w.place ((o, m) :: later) fall = none) ∧
    (rest = [] ∨ (w.e.park = 0 ∧ w.e.rjf = false) → ∃ u, w.place ((o, m) :: later) fall = some u ∧ u.e.pc = BitVec.ofNat 32 o ∧ u.p = w.p ∧ u.s = w.s ∧
      (∀ (j k : Nat) (y : Nat × Mask), free[j]? = some k → later[j]? = some y →
        ∃ x, u.f.r.ents[k]? = some x ∧ x.val = true ∧ x.pc = BitVec.ofNat 32 y.1 ∧ x.mask = y.2 ∧ x.park = 0 ∧ x.mode = w.e.mode) ∧
      (rest = [] → u.e.park = w.e.park ∧ u.e.rpc = w.e.rpc) ∧
      (rest ≠ [] → (∀ t, u.e.park.getLsbD t = rest.any fun y => y.2.getLsbD t) ∧
        u.e.rpc = match rest with
          | [y] => if fall then BitVec.ofNat 32 y.1 else w.e.pc
          | _ => w.e.pc))

open Sys2Proof Sys2Proof.Machine Sys2Proof.Claims in
/-- NOP, YIELD, SLEEP, WAITC, WAITF, MODE, MODEX, DEMOTE, QFILL, SETSR and TIME have the effects of their rules (spec/02_instruction_word.md R45, spec/02_instruction_word.md R46, spec/05_registers.md R139, spec/05_registers.md R151, spec/06_fascine_rank.md R168, spec/06_fascine_rank.md R169, spec/06_fascine_rank.md R174, spec/06_fascine_rank.md R175). -/
def Obligations.WaitsAndModes : Prop :=
  ∀ (s : State) (v : V) (d : Desc),
    (Runs .nop s v d → exec .nop s = .next (v.done d (v.writes d))) ∧
    (Runs .yield s v d → exec .yield s = .next (v.done d { v.writes d with e := { (v.writes d).e with sleep := 2 } })) ∧
    (∀ n, Runs (.sleep n) s v d → exec (.sleep n) s = .next (v.done d { v.writes d with e := { (v.writes d).e with sleep := if n = 0 then 0 else n.toNat + 1 } })) ∧
    (∀ l st c t, Runs (.waitc l st c t) s v d →
      let ok := v.f.cnt.getD 0 0 ≤ l.toNat ∧ v.f.cnt.getD 1 0 ≤ st.toNat ∧ v.f.cnt.getD 2 0 ≤ c.toNat ∧ v.f.cnt.getD 3 0 ≤ t.toNat
      (ok → exec (.waitc l st c t) s = .next (v.done d (v.writes d))) ∧ (¬ok → exec (.waitc l st c t) s = .next v.delayed)) ∧
    (∀ m, Runs (.waitf m) s v d →
      ((∀ i, i < 12 → m.getLsbD i = true → flagClear v.f i) → exec (.waitf m) s = .next (v.done d (v.writes d))) ∧
      (∀ i, i < 12 → m.getLsbD i = true → ¬flagClear v.f i → exec (.waitf m) s = .next v.delayed)) ∧
    (∀ m, Runs (.mode m) s v d → exec (.mode m) s = .next (v.done d { v.writes d with e := { (v.writes d).e with mode := m } })) ∧
    (∀ a b k, Runs (.modex a b k) s v d →
      let x := ((v.reads d).rd b (lowest (v.threads d))).setWidth 24
      let sel := modexBits k
      let m := (v.e.mode &&& ~~~sel) ||| (x &&& sel)
      let w := (v.writes d).write a (v.threads d) (fun _ => v.e.mode.setWidth 32) (fun _ => false) 2
      exec (.modex a b k) s =
        .next (if modeRnd m ≠ 7 ∧ etype m < 12 then v.done d { w with e := { w.e with mode := m } } else trapAt v { t := .illopnd })) ∧
    (Runs .demote s v d → exec .demote s = .next (v.done d
      { v.writes d with f := { (v.writes d).f with r := { (v.writes d).f.r with hmask := (v.writes d).f.r.hmask ||| v.threads d } } })) ∧
    (Runs .qfill s v d → ∃ w m, exec .qfill s = .next (v.done d w) ∧
      (∀ t, t < 16 → m.getLsbD t = (v.f.r.exmask.getLsbD t && (List.range 16).any fun u => u / 4 == t / 4 && (v.threads d).getLsbD u)) ∧
      w.e.mask = v.e.mask ||| m ∧ w.f.r.exmask = v.f.r.exmask &&& ~~~m ∧ w.f.r.hmask = v.f.r.hmask ||| m ∧
      w.f.r.vb = (v.writes d).f.r.vb ∧ w.f.r.s = v.f.r.s ∧ w.f.r.preds = v.f.r.preds) ∧
    (∀ a i, Runs (.setsr a i) s v d → exec (.setsr a i) s = .next (v.done d
      { v.writes d with f := { (v.writes d).f with
          exc := v.f.exc &&& ~~~(((v.reads d).rd a (lowest (v.threads d))).setWidth 5) } })) ∧
    (∀ a b, Runs (.time a b) s v d → (v.writes d).capOk [a, b] = true → exec (.time a b) s = .next (v.done d
      (((v.writes d).write a (v.threads d) (fun _ => BitVec.ofNat 32 (s.beat * 20 / 17)) (fun _ => false) 2).write b (v.threads d)
        (fun _ => BitVec.ofNat 32 (s.beat * 20 / 17 / 2 ^ 32)) (fun _ => false) 2)))

open Sys2Proof Sys2Proof.Machine Sys2Proof.Claims in
/-- EXIT, TRAP, BKPT, HALT, VOTERK, REGROUP, MOVB and BLEASE have the effects of their rules (spec/05_registers.md R134, spec/05_registers.md R135, spec/05_registers.md R136, spec/05_registers.md R148, spec/06_fascine_rank.md R173, spec/06_fascine_rank.md R176, spec/06_fascine_rank.md R178, spec/15_context.md R376). -/
def Obligations.ExitsTrapsAndRounds : Prop :=
  ∀ (s : State) (v : V) (d : Desc),
    let w := v.writes d
    let w0 := v.ordered w
    (Runs .exit s v d → exec .exit s = .next ((v.done d w).exitFrom v.l.h v.l.f v.l.g (v.threads d))) ∧
    (∀ n, Runs (.trap n) s v d → exec (.trap n) s = .next ((v.done d w).takeTrap v.l.h v.l.f v.l.g v.e.pc
      (nextSlot v.e.pc) { t := .swtrap, data := n.toNat })) ∧
    (∀ n, Runs (.bkpt n) s v d → exec (.bkpt n) s = .next ((v.done d w).takeTrap v.l.h v.l.f v.l.g v.e.pc
      (nextSlot v.e.pc) { t := .bkpt, data := n.toNat })) ∧
    (Runs .halt s v d → exec .halt s = .next ((v.done d w).takeTrap v.l.h v.l.f v.l.g v.e.pc (nextSlot v.e.pc) { t := .halt })) ∧
    (∀ a p k, Runs (.voterk a p k) s v d →
      (1 < (v.f.r.ents.filter (·.val)).length → exec (.voterk a p k) s = .next (trapAt v { t := .diverge })) ∧
      ((v.f.r.ents.filter (·.val)).length ≤ 1 → w.capOk [a] = true → exec (.voterk a p k) s = .next (v.begun d
        { w with e := { w.e with hold := .voterk a (v.threads d) (v.threads d &&& maskOf ((v.reads d).rdP p)) k.toNat } }))) ∧
    (∀ a p k, Runs (.regroup a p k) s v d →
      (1 < (v.f.r.ents.filter (·.val)).length ∨ v.e.park ≠ 0 → exec (.regroup a p k) s = .next (trapAt v { t := .diverge })) ∧
      ((v.f.r.ents.filter (·.val)).length ≤ 1 → v.e.park = 0 → exec (.regroup a p k) s = .next (v.begun d
        { w with e := { w.e with hold := .regroup a (v.threads d &&& maskOf ((v.reads d).rdP p)) k.toNat } }))) ∧
    (∀ (n : Fin 16) b, Runs (.movb (.b n) b) s v d →
      (calm v = false → exec (.movb (.b n) b) s = .next v.delayed) ∧
      (calm v = true → exec (.movb (.b n) b) s = .next (v.done d ((w0.releaseB.publishMovb (.b n)).write (.b n) (v.threads d)
        (fun _ => (v.reads d).rd b (lowest (v.threads d)) 1) (fun _ => false) 2)))) ∧
    (∀ a (n : Fin 16), isB a = false → Runs (.movb a (.b n)) s v d → w.capOk [a] = true →
      exec (.movb a (.b n)) s = .next (v.done d (((v.reads d).takeMovb (.b n) w).write a (v.threads d)
        (fun _ => (v.reads d).rd (.b n) (lowest (v.threads d)) 1) (fun _ => false) 2))) ∧
    ∀ n, Runs (.blease n) s v d →
      (v.p.lease ≠ v.l.f → exec (.blease n) s = .next (trapAt v { t := .lease })) ∧
      (v.p.lease = v.l.f → v.f.ops.any (·.accesses) = true ∨ calm v = false → exec (.blease n) s = .next v.delayed) ∧
      (v.p.lease = v.l.f → v.f.ops.any (·.accesses) = false → calm v = true → ∀ y, v.p.fs[n.toNat]? = some y →
        exec (.blease n) s = .next (v.done d { w0.releaseB with
          p := { w0.releaseB.p with lease := if y.retired then (v.p.firstLive).getD v.l.f else n.toNat } }))

open Sys2Proof Sys2Proof.Machine Sys2Proof.Claims in
/-- Threads that exit leave the masks of their entry, and their results in flight are dropped (spec/05_registers.md R124, spec/05_registers.md R126, spec/06_fascine_rank.md R162, spec/06_fascine_rank.md R173, spec/04_chain.md R106). -/
def Obligations.ExitTakesThreadsOut : Prop :=
  ∀ (s : State) (h i g : Nat) (m : Mask) (p : Polder) (f : Fascine) (e : SplitEntry), s.polder? h = some p → p.fs[i]? = some f →
    f.r.ents[g]? = some e → e.val = true → (e.mask &&& ~~~m) &&& ~~~(e.park &&& ~~~m) ≠ 0 →
    ∃ y, (s.exitFrom h i g m).fasc? h i = some y ∧ y.r.exmask = f.r.exmask ||| m ∧ y.r.hmask = f.r.hmask &&& ~~~m ∧
      y.r.ents[g]? = some { e with mask := e.mask &&& ~~~m, park := e.park &&& ~~~m } ∧ (∀ k, k ≠ g → y.r.ents[k]? = f.r.ents[k]?) ∧
      (f.haz = [] → y.r.s = f.r.s ∧ y.r.preds = f.r.preds) ∧ y.retired = f.retired ∧
      y.ops = f.ops.map (fun o => { o with wmask := o.wmask &&& ~~~m }) ∧
      y.chains = f.chains.filterMap (fun c => if c.g = g then (if c.live &&& ~~~m = 0 then none else some { c with gone := c.gone ||| m }) else some c) ∧
      (∀ b ∈ y.r.vb, ∃ a ∈ f.r.vb, b.name = a.name ∧ b.live = a.live &&& ~~~m ∧ b.live ≠ 0 ∧
        ∀ t, t < 16 → m.getLsbD t = false → b.words.getD t 0 = a.words.getD t 0) ∧
      (s.exitFrom h i g m).dev = s.dev ∧ (∀ k, k ≠ h → (s.exitFrom h i g m).polder? k = s.polder? k)

namespace Sys2Proof.Claims
open Sys2Proof.Machine

/-- What an access instruction asks of memory: its accesses, by threads `ts` standing in the order of threads `mask`. -/
structure Acc where
  ins : MemIns
  mask : Mask
  ts : List Nat
  addr : Nat → Nat
  data : Nat → List Word

/-- The address of an a2 field with its signed word offset (R196). -/
def pairAddr (v : V) (b : Opnd) (o : BitVec 8) (t : Nat) : Nat :=
  (((v.rd b t 1).toNat + 2 ^ 32 * (v.rd (b.plus 1) t 1).toNat + 4 * o.toInt) % 2 ^ 64 : Int).toNat
/-- The generic address of a scratchpad (0xFE) or constant (0xFC) offset with its signed word offset (R186, R196). -/
def spaceAddr (v : V) (sel : Nat) (b : Opnd) (o : BitVec 8) (t : Nat) : Nat :=
  sel * 2 ^ 56 + (((v.rd b t 1).toNat + 4 * o.toInt) % 2 ^ 32 : Int).toNat

/-- The accesses of each load, store and atomic (R197, R198): helper threads store and update nothing. -/
def accessOf (i : Instr) (d : Desc) (v : V) (act : Mask) : Option Acc :=
  let who (m : Mask) : List Nat := if d.uniform then [lowest act] else threadsOf m
  let live : Mask := act &&& ~~~v.f.r.hmask
  let load (n : Nat) (k : OpKind) (c : Machine.Class) (acq : Option Nat) (a : Opnd) (f : Nat → Nat) : Option Acc :=
    some { ins := { kind := k, cls := c, n := n, dst := some a, cntr := 0, acquire := acq }, mask := act, ts := who act, addr := f,
           data := fun _ => [] }
  let store (n : Nat) (c : Machine.Class) (rel : Bool) (a : Opnd) (f : Nat → Nat) : Option Acc :=
    some { ins := { kind := .store, cls := c, n := n, cntr := 1, write := true, release := rel }, mask := live, ts := threadsOf live,
           addr := f, data := fun t => (List.range n).map fun k => v.rd (a.group k) t }
  let atom (code : Nat) (a b : Opnd) (f : Nat → List Word) : Option Acc :=
    let m := if d.uniform then act else live
    some { ins := { kind := .atomic code (etype v.e.mode), cls := .memory, dst := if a = .zero then none else some a,
                    cntr := if a = .zero then 1 else 0, write := true },
           mask := m, ts := who m, addr := fun t => (v.rd b t 1).toNat + 2 ^ 32 * (v.rd (b.plus 1) t 1).toNat, data := f }
  match i with
  | .ld a b o => load 1 (.load true false) .load none a (pairAddr v b o)
  | .ld2 a b o => load 2 (.load true false) .load none a (pairAddr v b o)
  | .ld4 a b o => load 4 (.load true false) .load none a (pairAddr v b o)
  | .ldb a b o => load 1 (.load false false) .load none a (pairAddr v b o)
  | .ldb4 a b o => load 4 (.load false false) .load none a (pairAddr v b o)
  | .lda a b o => load 1 (.load false (5 ≤ modeScope v.e.mode)) .memory (some (modeScope v.e.mode)) a (pairAddr v b o)
  | .lds a b o => load 1 (.load true false) .load none a (spaceAddr v 0xFE b o)
  | .lds4 a b o => load 4 (.load true false) .load none a (spaceAddr v 0xFE b o)
  | .ldc a b o => load 1 (.load true false) .load none a (spaceAddr v 0xFC b o)
  | .st a b o => store 1 .store false a (pairAddr v b o)
  | .st2 a b o => store 2 .store false a (pairAddr v b o)
  | .st4 a b o => store 4 .store false a (pairAddr v b o)
  | .stl a b o => store 1 .memory true a (pairAddr v b o)
  | .sts a b o => store 1 .memory false a (spaceAddr v 0xFE b o)
  | .sts4 a b o => store 4 .memory false a (spaceAddr v 0xFE b o)
  | .aadd a b c => atom 0 a b fun t => [v.rd c t 2]
  | .amin a b c => atom 1 a b fun t => [v.rd c t 2]
  | .amax a b c => atom 2 a b fun t => [v.rd c t 2]
  | .aand a b c => atom 3 a b fun t => [v.rd c t 2]
  | .aor a b c => atom 4 a b fun t => [v.rd c t 2]
  | .axor a b c => atom 5 a b fun t => [v.rd c t 2]
  | .axch a b c => atom 6 a b fun t => [v.rd c t 2]
  | .acas a b c => atom 7 a b fun t => [v.rd c t 2, v.rd (c.group 1) t 2]
  | .ainc a b c => atom 8 a b fun t => [v.rd c t 2]
  | .afadd a b c => atom 9 a b fun t => [v.rd c t 2]
  | _ => none

/-- Bytes of a list of words in memory order, little-endian (R3). -/
def bytesOf (ws : List Word) : List Byte :=
  ws.flatMap fun (w : Word) => [w.setWidth 8, (w >>> 8).setWidth 8, (w >>> 16).setWidth 8, (w >>> 24).setWidth 8]

/-- The gather collector's instructions (R200): words per access, whether they load, and the kind of operation. -/
def gatherForm (ty : Nat) : Instr → Option (Nat × Bool × OpKind × Opnd × Opnd × Opnd)
  | .gather a b c => some (1, true, .load true false, a, b, c)
  | .gather4 a b c => some (4, true, .load true false, a, b, c)
  | .scatter a b c => some (1, false, .store, a, b, c)
  | .scatadd a b c => some (1, false, .atomic (if ty = 6 then 9 else 0) ty, a, b, c)
  | _ => none

end Sys2Proof.Claims

open Sys2Proof Sys2Proof.Machine Sys2Proof.Claims in
/-- Loads, stores and atomics whose addresses pass their checks are in flight, with one access per thread (spec/07_polder_ring.md R186, spec/07_polder_ring.md R187, spec/07_polder_ring.md R196, spec/07_polder_ring.md R197, spec/07_polder_ring.md R198, spec/08_ordering.md R205, spec/08_ordering.md R211). -/
def Obligations.AccessesAreIssued : Prop :=
  ∀ (i : Instr) (s : State) (v : V) (d : Desc) (x : Acc) (ls : List (Nat × Loc × Option Tlb)), Runs i s v d →
    accessOf i d (v.reads d) (v.threads d) = some x →
    (∀ t ∈ x.ts, x.addr t % (4 * x.ins.n) = 0 ∧ (v.reads d).spaceOk x.ins.cls (x.addr t) (4 * x.ins.n) = true) →
    (v.reads d).locateAll (if x.ins.write then 1 else 0) x.addr x.ts = .ok ls → (v.writes d).capOk x.ins.dsts = true →
    let culvert := ls.any (·.2.1.isCulvert) = true ∧ (v.f.ops.any (·.hasCulvert) = true ∨ (v.p.earlier v.l.f x.mask).any (·.2.hasCulvert) = true)
    (culvert ∨ v.mustWait = true → exec i s = .next v.delayed) ∧
    (¬culvert → v.mustWait = false → x.ts = [] → exec i s = .next (v.done d (v.ordered (v.writes d)))) ∧
    (¬culvert → v.mustWait = false → x.ts ≠ [] →
      ∃ (w : V) (o : MemOp), exec i s = .next (v.done d w) ∧ w.f.ops = v.f.ops ++ [o] ∧ w.f.nextOp = v.f.nextOp + 1 ∧
      o.id = v.f.nextOp ∧ o.g = v.l.g ∧ o.kind = x.ins.kind ∧ o.mask = x.mask ∧ o.wmask = x.mask ∧ o.n = x.ins.n ∧ o.dst = x.ins.dst ∧
      o.cntr = x.ins.cntr ∧ o.uni = (d.uniform && x.ins.kind != .store) ∧ o.gather = false ∧
      o.acc.map (fun y => (y.t, y.loc, y.data)) = ls.map (fun y => (y.1, y.2.1, x.data y.1)) ∧ ls.map (·.1) = x.ts ∧
      w.f.cnt = modAt v.f.cnt x.ins.cntr (· + 1) ∧ w.f.r.s = v.f.r.s ∧ w.f.r.preds = v.f.r.preds ∧
      (∀ n t, t < 16 → w.f.r.vword n t = (v.writes d).f.r.vword n t) ∧
      w.s.dev = s.dev ∧ w.s.host = s.host ∧ w.s.peer = s.peer ∧ w.p.spad = v.p.spad ∧
      (x.ins.acquire.isSome = true → w.e.acq = x.ins.acquire.map fun sc => (v.f.nextOp + 1, sc)))

open Sys2Proof Sys2Proof.Machine Sys2Proof.Claims in
/-- An access that is not aligned traps MISALIGN, one outside its spaces SPACE, one that does not translate PAGE (spec/00_scope.md R22, spec/02_instruction_word.md R59, spec/07_polder_ring.md R186, spec/16_page.md R399). -/
def Obligations.BadAddressesTrap : Prop :=
  ∀ (i : Instr) (s : State) (v : V) (d : Desc) (x : Acc) (t : Nat), Runs i s v d → accessOf i d (v.reads d) (v.threads d) = some x →
    (x.ts.find? (fun t => x.addr t % (4 * x.ins.n) != 0) = some t →
      exec i s = .next (trapAt v { t := .misalign, addr := x.addr t })) ∧
    ((∀ u ∈ x.ts, x.addr u % (4 * x.ins.n) = 0) →
      x.ts.find? (fun t => !(v.reads d).spaceOk x.ins.cls (x.addr t) (4 * x.ins.n)) = some t →
      exec i s = .next (trapAt v { t := .space, addr := x.addr t })) ∧
    ((∀ u ∈ x.ts, x.addr u % (4 * x.ins.n) = 0 ∧ (v.reads d).spaceOk x.ins.cls (x.addr u) (4 * x.ins.n) = true) →
      ∀ e, (v.reads d).locateAll (if x.ins.write then 1 else 0) x.addr x.ts = .error e →
        e.t = .page ∧ exec i s = .next (if e.sub % 16 = 0 then v.delayed else trapAt v e))

open Sys2Proof Sys2Proof.Machine Sys2Proof.Claims in
/-- GATHER, GATHER4, SCATTER and SCATADD access the elements in bound and mark the threads that are not (spec/03_numbers.md R81, spec/07_polder_ring.md R186, spec/07_polder_ring.md R195, spec/07_polder_ring.md R200, spec/08_ordering.md R211). -/
def Obligations.GathersAreIssued : Prop :=
  ∀ (i : Instr) (s : State) (v : V) (d : Desc) (n : Nat) (ld : Bool) (k : OpKind) (a b c : Opnd) (ls : List (Nat × Loc × Option Tlb)),
    Runs i s v d → gatherForm (etype v.e.mode) i = some (n, ld, k, a, b, c) →
    let r := v.reads d
    let act := v.threads d
    let base := (r.rd c (lowest act) 2).toNat * 4096
    let bound := (r.rd (c.plus 1) (lowest act) 2).toNat
    let idx (t : Nat) : Nat := (r.rd b (if d.uniform then lowest act else t) 1).toNat
    let inb := act &&& maskOf fun t => decide (idx t < bound)
    let goes := if ld then inb else inb &&& ~~~v.f.r.hmask
    let ts := if d.uniform then (threadsOf goes).take 1 else threadsOf goes
    (∀ t ∈ ts, r.spaceOk (if ld then .load else .memory) (base + 4 * n * idx t) (4 * n) = true) →
    r.locateAll (if ld then 0 else 1) (fun t => base + 4 * n * idx t) ts = .ok ls →
    (v.writes d).capOk (if ld then (List.range n).map a.group else []) = true →
    (inb ≠ act → (modeTen v.e.mode).getLsbD 4 = true → exec i s = .next (trapAt v { t := .arith, sub := 16 })) ∧
    (inb = act ∨ (modeTen v.e.mode).getLsbD 4 = false →
      (v.mustWait = true → exec i s = .next v.delayed) ∧
      (v.mustWait = false → ∃ w : V,
        exec i s = .next (if 256 ≤ (v.done d w).window v.p.core then (v.done d w).sendWindow v.p.core else v.done d w) ∧
        (ts = [] → w.f.ops = v.f.ops ∧ w.f.cnt = v.f.cnt) ∧
        (ts ≠ [] → w.f.cnt = modAt v.f.cnt (if ld then 0 else 1) (· + 1) ∧ ∃ o : MemOp, w.f.ops = v.f.ops ++ [o] ∧ o.kind = k ∧ o.mask = goes ∧
          o.n = n ∧ o.gather = true ∧ o.sent = false ∧
          o.acc.map (fun y => (y.t, y.loc, y.data)) = ls.map (fun y => (y.1, y.2.1, if ld then [] else [r.rd a y.1]))) ∧
        (∀ t, t < 16 → (if ld then act else act &&& ~~~v.f.r.hmask).getLsbD t = true →
          (w.f.r.preds.getD t 0).getLsbD 5 = decide (idx t < bound)) ∧
        (ld = true → ∀ t, t < 16 → act.getLsbD t = true → bound ≤ idx t → ∀ (j : Nat) (m : Fin 160), j < n → a.group j = .v m → w.f.r.vword m.val t = 0) ∧
        w.f.exc = v.f.exc ||| (if inb = act then 0 else 0x10) ∧
        w.s.dev = s.dev ∧ w.s.host = s.host ∧ w.s.peer = s.peer ∧ w.p.spad = v.p.spad))

open Sys2Proof Sys2Proof.Machine Sys2Proof.Claims in
/-- A store that is performed puts its bytes in memory, changes no other byte, and leaves F1 (spec/07_polder_ring.md R189, spec/07_polder_ring.md R192, spec/07_polder_ring.md R197, spec/08_ordering.md R206). -/
def Obligations.StorePerforms : Prop :=
  ∀ (s : State) (h i id : Nat) (p : Polder) (f : Fascine) (o : MemOp) (x : Access), s.polder? h = some p → p.fs[i]? = some f →
    s.op? h i id = some o → o.kind = .store → o.acc = [x] → x.data.length = o.n → s.ready' p f o false = [(x, 0)] →
    ∃ (t : State) (q : Polder) (y : Fascine), exec (.storeAccept h i id) s = .next t ∧ t.polder? h = some q ∧ q.fs[i]? = some y ∧
      y.ops = f.ops.filter (·.id != id) ∧ y.cnt = modAt f.cnt o.cntr (· - 1) ∧
      (∀ a home, x.loc = .glob 0 a home → s.dev.wf = true → t.dev.readN a (4 * o.n) = bytesOf x.data ∧
        (∀ c, c < a ∨ a + 4 * o.n ≤ c → t.dev.read c = s.dev.read c) ∧ t.host = s.host ∧ t.peer = s.peer ∧ q.spad = p.spad) ∧
      (∀ a, x.loc = .spad a → p.spad.wf = true → q.spad.readN a (4 * o.n) = bytesOf x.data ∧
        (∀ c, c < a ∨ a + 4 * o.n ≤ c → q.spad.read c = p.spad.read c) ∧ t.dev = s.dev ∧ t.host = s.host ∧ t.peer = s.peer)

open Sys2Proof Sys2Proof.Machine Sys2Proof.Claims in
/-- However many of its accesses a store performs, no byte outside them changes (spec/07_polder_ring.md R197, spec/08_ordering.md R206). -/
def Obligations.StoresKeepOtherBytes : Prop :=
  ∀ (s t : State) (h i id : Nat) (p q : Polder) (f : Fascine) (o : MemOp), exec (.storeAccept h i id) s = .next t → s.polder? h = some p →
    p.fs[i]? = some f → s.op? h i id = some o → (∀ x ∈ o.acc, x.data.length = o.n) → t.polder? h = some q → s.dev.wf = true → p.spad.wf = true →
    (∀ c, (∀ x ∈ o.acc, ∀ a home, x.loc = .glob 0 a home → c < a ∨ a + 4 * o.n ≤ c) → t.dev.read c = s.dev.read c) ∧
    (∀ c, (∀ x ∈ o.acc, ∀ a, x.loc = .spad a → c < a ∨ a + 4 * o.n ≤ c) → q.spad.read c = p.spad.read c) ∧
    ∀ k, k ≠ h → t.polder? k = s.polder? k

open Sys2Proof Sys2Proof.Machine Sys2Proof.Claims in
/-- A load that is performed delivers the bytes of memory to its register, and changes no memory (spec/07_polder_ring.md R189, spec/07_polder_ring.md R197, spec/05_registers.md R124). -/
def Obligations.LoadReturns : Prop :=
  ∀ (s : State) (h i id : Nat) (p : Polder) (f : Fascine) (o : MemOp) (x : Access) (l1 far : Bool) (n : Fin 160) (e : SplitEntry),
    s.polder? h = some p → p.fs[i]? = some f → s.op? h i id = some o → o.kind = .load l1 far → o.acc = [x] → o.n = 1 → o.uni = false →
    s.ready' p f o false = [(x, 0)] → o.dst = some (.v n) → o.wmask.getLsbD x.t = true → x.t < 16 → f.r.ents[o.g]? = some e → s.l1 = [] →
    ∃ (t : State) (q : Polder) (y : Fascine), exec (.loadDataReturn h i id) s = .next t ∧ t.polder? h = some q ∧ q.fs[i]? = some y ∧
      y.ops = f.ops.filter (·.id != id) ∧ y.cnt = modAt f.cnt o.cntr (· - 1) ∧
      t.dev = s.dev ∧ t.host = s.host ∧ t.peer = s.peer ∧ q.spad = p.spad ∧
      let kept := (f.taken (2 * id) n.val).getLsbD x.t
      (∀ a, x.loc = .glob 0 a p.die → a % 4 = 0 →
        y.r.vword n.val x.t = if kept then f.r.vword n.val x.t else BitVec.ofNat 32 (leNat (s.dev.readN a 4))) ∧
      (∀ a, x.loc = .spad a → y.r.vword n.val x.t = if kept then f.r.vword n.val x.t else BitVec.ofNat 32 (leNat (p.spad.readN a 4)))

open Sys2Proof Sys2Proof.Machine Sys2Proof.Claims in
/-- An atomic replaces the word by its operation's result and returns the old word, in one step (spec/07_polder_ring.md R198, spec/08_ordering.md R211). -/
def Obligations.AtomicPerforms : Prop :=
  ∀ (s : State) (h i id code ty a home : Nat) (p : Polder) (f : Fascine) (o : MemOp) (x : Access) (e : SplitEntry),
    s.polder? h = some p → p.fs[i]? = some f → s.op? h i id = some o → o.kind = .atomic code ty → o.acc = [x] → o.n = 1 →
    s.ready' p f o false = [(x, 0)] → x.loc = .glob 0 a home → s.poisoned a = false → s.dev.wf = true → x.t < 16 → f.r.ents[o.g]? = some e →
    let old : Word := BitVec.ofNat 32 (leNat (s.dev.readN a 4))
    let c := x.data.getD 0 0
    let new : Option Word := match code with
      | 0 => some (old + c)
      | 1 => some (if ty = 0 then (if old.toInt ≤ c.toInt then old else c) else if old.toNat ≤ c.toNat then old else c)
      | 2 => some (if ty = 0 then (if c.toInt ≤ old.toInt then old else c) else if c.toNat ≤ old.toNat then old else c)
      | 3 => some (old &&& c)
      | 4 => some (old ||| c)
      | 5 => some (old ^^^ c)
      | 6 => some c
      | 7 => some (if old = c then x.data.getD 1 0 else old)
      | 8 => some (if c.toNat ≤ old.toNat then 0 else old + 1)
      | _ => none
    ∃ (t : State) (y : Fascine), exec (.atomicPerform h i id) s = .next t ∧ t.fasc? h i = some y ∧
      (∀ k, k < a ∨ a + 4 ≤ k → t.dev.read k = s.dev.read k) ∧ t.host = s.host ∧ t.peer = s.peer ∧
      (∀ z, new = some z → BitVec.ofNat 32 (leNat (t.dev.readN a 4)) = z) ∧
      (∀ n : Fin 160, o.dst = some (.v n) → o.uni = false → o.wmask.getLsbD x.t = true → (f.taken (2 * id) n.val).getLsbD x.t = false →
        y.r.vword n.val x.t = old) ∧
      y.ops = f.ops.filter (·.id != id) ∧ y.cnt = modAt f.cnt o.cntr (· - 1)

open Sys2Proof Sys2Proof.Machine Sys2Proof.Claims in
/-- FENCE leaves its order for the accesses after it; PREF changes caches only (spec/07_polder_ring.md R197, spec/07_polder_ring.md R199, spec/08_ordering.md R207, spec/08_ordering.md R211, spec/08_ordering.md R215). -/
def Obligations.FencesAndPrefetches : Prop :=
  (∀ (s : State) (v : V) (d : Desc) (k : BitVec 2) (sc : BitVec 3), Runs (.fence k sc) s v d →
    ∃ w, exec (.fence k sc) s = .next (v.done d w) ∧ w.f.r = (v.writes d).f.r ∧ w.f.ops = v.f.ops ∧ w.f.cnt = v.f.cnt ∧
      w.e.relBefore = (if k = 0 then v.e.relBefore else v.f.nextOp) ∧
      w.e.acq = (if k = 1 then v.e.acq else some (v.f.nextOp, match v.e.acq with
        | some (_, x) => max x sc.toNat
        | none => sc.toNat)) ∧
      w.e.scBefore = (if k = 3 then v.f.nextOp else v.e.scBefore)) ∧
  ∀ (s : State) (v : V) (d : Desc) (b : Opnd) (o : BitVec 8), Runs (.pref b o) s v d →
    let u := v.done d (v.writes d)
    ∃ t, exec (.pref b o) s = .next t ∧ { t with l1 := u.l1, far := u.far, tlb := u.tlb, prefs := u.prefs } = u

namespace Sys2Proof.Claims
open Sys2Proof.Machine

/-- Barrier n of the issuing polder as the view holds it, put back with its count changed. -/
def withBar (w : V) (n : BitVec 8) (x : Bar) : V := { w with p := { w.p with bars := setAt w.p.bars n.toNat x } }
/-- What an arrival leaves of the record (R225): none is made at the greatest count. -/
def recAfter (x : Bar) (r : WaitRec) : WaitRec := if x.arr = 0xFFFF then r else { r with snap := x.phase, wv := true }

/-- Queued work of an engine instruction: a token bound, and one object more. -/
def tokenBound (w w' : V) (m : BitVec 8) : Prop :=
  w'.f.tok = w.f.tok ||| m ∧ w'.f.r = w.f.r ∧ w'.f.ops = (w.f.sampled w.e.running m).ops ∧ w'.f.cnt = w.f.cnt ∧ w'.s.dev = w.s.dev ∧ w'.s.host = w.s.host ∧
    w'.s.peer = w.s.peer ∧ w'.p.spad = w.p.spad

end Sys2Proof.Claims

open Sys2Proof Sys2Proof.Machine Sys2Proof.Claims in
/-- The phase of a barrier advances exactly when its arrivals and bytes are complete; an arrival or landing counts, or sets ERR (spec/09_barrier.md R225, spec/09_barrier.md R227, spec/09_barrier.md R228, spec/09_barrier.md R230). -/
def Obligations.BarrierCounting : Prop :=
  (∀ b : Bar, (b.err = false ∧ b.exparr ≤ b.arr ∧ b.bytes = 0 →
      Bar.check b = { b with phase := (b.phase + 1) % 2 ^ 16, arr := 0, scope := 2, wide := (Bar.check b).wide } ∧
      ∀ k, k ≠ b.phase → (Bar.check b).wide.filter (·.1 == k) = b.wide.filter (·.1 == k)) ∧
    (¬(b.err = false ∧ b.exparr ≤ b.arr ∧ b.bytes = 0) → Bar.check b = b)) ∧
  (∀ b : Bar, b.arr = 0xFFFF → b.arrive = { b with err := true }) ∧
  (∀ b : Bar, b.arr ≠ 0xFFFF → b.arrive = Bar.check { b with arr := b.arr + 1 }) ∧
  (∀ (b : Bar) (n : Int) (sc : Nat),
    let c := { b with scope := max b.scope sc, err := b.err || b.ring }
    (b.bytes - n < -(2 ^ 31) → b.land n sc = { c with err := true }) ∧
    (-(2 ^ 31) ≤ b.bytes - n → b.land n sc = Bar.check { c with bytes := b.bytes - n })) ∧
  ∀ (f : Fascine) (n : Nat) (b : Bar), f.passed n b = ((f.wrec.getD n {}).wv && (f.wrec.getD n {}).snap != b.phase)

open Sys2Proof Sys2Proof.Machine Sys2Proof.Claims in
/-- BINIT, BEXP, BARR, BWAIT, BTRY, BSYNC and BRING change the barrier and the record as their rules say, or trap (spec/09_barrier.md R225, spec/09_barrier.md R228, spec/09_barrier.md R229, spec/09_barrier.md R230, spec/09_barrier.md R231, spec/09_barrier.md R234, spec/09_barrier.md R235, spec/09_barrier.md R236). -/
def Obligations.BarrierInstructions : Prop :=
  ∀ (s : State) (v : V) (d : Desc) (n : BitVec 8),
    let r := v.reads d
    let w := v.writes d
    let w0 := v.ordered w
    let x := r.bar n
    let k := r.wrec n
    let good := x.ring = false ∧ x.err = false
    let bad (i : Instr) : Prop := (x.ring = true → exec i s = .next (trapAt v (barErr 2 n.toNat))) ∧
      (x.ring = false → x.err = true → exec i s = .next (trapAt v (barErr 1 n.toNat)))
    let split := 1 < (v.f.r.ents.filter (·.val)).length ∨ v.e.park ≠ 0
    let waits (u : V) (ring : Bool) : State :=
      { u with e := { u.e with hold := .bar n.toNat ring }, f := { u.f with haz := v.f.haz, active := true } }.delayed
    let goesOn (i : Instr) (u : V) (ring : Bool) (y : Bar) : Prop :=
      match u.e.hold with
      | .passed _ q sc => exec i s = .next (v.done d (u.observe n q sc))
      | _ => (u.f.passed n.toNat y = true → exec i s = .next (v.done d (u.observed n ring y))) ∧
        (u.f.passed n.toNat y = false → exec i s = .next (waits u ring))
    let arrived (u : V) (ring : Bool) (z : Bar) : V :=
      if z.arr = 0xFFFF then u.releaseAt n.toNat ring else (u.releaseAt n.toNat ring).setRec n { (u.releaseAt n.toNat ring).wrec n with snap := z.phase, wv := true }
    (∀ a b, Runs (.binit a b n) s v d →
      let cnt := (r.rd a (lowest (v.threads d))).toNat
      let byt := (r.rd b (lowest (v.threads d)) 1).toNat
      (cnt ≤ 0xFFFF ∧ byt < 2 ^ 31 → exec (.binit a b n) s = .next (v.done d (withBar w n
        { exparr := if cnt = 0 then v.p.live else cnt, arr := 0, bytes := byt, phase := x.phase, wide := x.wide, auto := cnt == 0, ring := false,
          err := false }))) ∧
      (¬(cnt ≤ 0xFFFF ∧ byt < 2 ^ 31) → exec (.binit a b n) s = .next (trapAt v (barErr 0 n.toNat)))) ∧
    (∀ a, Runs (.bexp a n) s v d → bad (.bexp a n) ∧ (good →
      let y := x.bytes + ((r.rd a (lowest (v.threads d))).toNat : Int)
      (y ≤ 2 ^ 31 - 1 → exec (.bexp a n) s = .next (v.done d (withBar w n (Bar.check { x with bytes := y })))) ∧
      (2 ^ 31 - 1 < y → exec (.bexp a n) s = .next (trapAt v (barErr 0 n.toNat))))) ∧
    (Runs (.barr n) s v d → (split → exec (.barr n) s = .next (trapAt v { t := .diverge })) ∧
      (¬split → x.ring = true → exec (.barr n) s = .next (trapAt v (barErr 2 n.toNat))) ∧
      (¬split → x.ring = false → calm v = true → exec (.barr n) s = .next (v.done d (withBar (arrived w0 false x) n x.arrive))) ∧
      (¬split → x.ring = false → calm v = false → exec (.barr n) s = .next v.delayed)) ∧
    (Runs (.bwait n) s v d → (v.inWait = false → bad (.bwait n)) ∧ (v.inWait = true ∨ good →
      goesOn (.bwait n) (if v.inWait = true ∨ k.wv = true then w else w.setRec n { k with snap := x.phase, wv := true }) false x)) ∧
    (∀ p, Runs (.btry p n) s v d → bad (.btry p n) ∧ (good →
      (k.wv = false → exec (.btry p n) s = .next (v.done d
        ((w.setRec n { k with snap := x.phase, wv := true }).wrP p (v.threads d) fun _ => false))) ∧
      (k.wv = true → k.snap ≠ x.phase →
        exec (.btry p n) s = .next (v.done d ((w.observed n false x).wrP p (v.threads d) fun _ => true))) ∧
      (k.wv = true → k.snap = x.phase → exec (.btry p n) s = .next (v.done d (w.wrP p (v.threads d) fun _ => false))))) ∧
    (Runs (.bsync n) s v d →
      (v.inWait = true ∨ k.sw = true → goesOn (.bsync n) w false x) ∧
      (v.inWait = false → k.sw = false → (split → exec (.bsync n) s = .next (trapAt v { t := .diverge })) ∧ (¬split → bad (.bsync n)) ∧
        (¬split → good → calm v = true →
          let u := withBar (arrived w0 false x) n x.arrive
          goesOn (.bsync n) (u.setRec n { u.wrec n with sw := true }) false x.arrive) ∧
        (¬split → good → calm v = false → exec (.bsync n) s = .next v.delayed))) ∧
    (Runs (.bring n) s v d →
      let ld := v.s.leader v.p
      let w := { w with s := v.s.payOwed ld }
      (w.s.ringOpen ld = false ∨ w.s.bar? ld n.toNat = none → exec (.bring n) s = .next v.delayed) ∧
      ∀ z, w.s.ringOpen ld = true → w.s.bar? ld n.toNat = some z →
        (v.inWait = true ∨ k.sw = true → goesOn (.bring n) w true z) ∧
        (v.inWait = false → k.sw = false →
          let cold := z.ring = false ∧ (z.arr ≠ 0 ∨ z.bytes ≠ 0)
          (split → exec (.bring n) s = .next (trapAt v { t := .diverge })) ∧
          (¬split → z.err = true → exec (.bring n) s = .next (trapAt v (barErr 1 n.toNat))) ∧
          (¬split → z.err = false → cold → exec (.bring n) s = .next (trapAt v (barErr 2 n.toNat))) ∧
          (¬split → z.err = false → ¬cold → calm v = false → exec (.bring n) s = .next v.delayed) ∧
          (¬split → z.err = false → ¬cold → calm v = true →
            let y := (if z.ring then z else { z with ring := true, exparr := if z.auto then v.s.ringLive v.p else z.exparr }).arrive
            let u := arrived (v.ordered w) true z
            let u := u.setRec n { u.wrec n with sw := true }
            goesOn (.bring n) (if ld = v.p.h then withBar u n y else { u with s := u.s.ringArrive ld n.toNat y }) true (v.s.ringSeen ld z y)))) ∧
    (∀ (u : State) (ld b : Nat) (y : Bar) (q : Polder), u.polder? ld = some q → u.saved? ld = none → u.inSample ld = false →
      u.ringArrive ld b y = u.setPolder { q with bars := modAt q.bars b fun _ => y }) ∧
    ∀ (u : V) (q : WaitRec), (u.setRec n q).f.wrec = setAt u.f.wrec n.toNat q ∧ (u.setRec n q).s = u.s ∧ (u.setRec n q).p = u.p ∧
      (u.setRec n q).e = u.e ∧ (u.setRec n q).f.r.vb = u.f.r.vb ∧
      ∀ (g : Nat) (e : SplitEntry), u.f.r.ents[g]? = some e → (∀ b ring, e.hold ≠ .bar b ring) → (u.setRec n q).f.r.ents[g]? = some e

open Sys2Proof Sys2Proof.Machine Sys2Proof.Claims in
/-- SLUICE, SLSTAT, SLKILL, COLL, CPYS, BUILD, REFIT and COMPACT give their work to the engines (spec/10_sluice.md R238, spec/10_sluice.md R250, spec/10_sluice.md R252, spec/10_sluice.md R253, spec/10_sluice.md R254, spec/10_sluice.md R258, spec/12_structure.md R301, spec/12_structure.md R312). -/
def Obligations.EngineWorkIsQueued : Prop :=
  ∀ (s : State) (v : V) (d : Desc),
    let r := v.reads d
    let t := lowest (v.threads d)
    let w0 := v.ordered (v.writes d)
    (∀ a b (k : BitVec 3), Runs (.sluice a b k) s v d →
      let h := r.rd2 a t
      let ctl := (r.rd b t 1).toNat
      let m : BitVec 8 := BitVec.ofNat 8 (ctl / 256 % 256) ||| BitVec.ofNat 8 (2 ^ k.toNat)
      let room := (s.schains.filter fun c => c.die == v.p.die && c.eng == ctl % 4).length < 256
      ctl / 2 ^ 16 = 0 → ctl / 4 % 64 = 0 → h % 64 = 0 → spaceOf h = 0 ∨ spaceOf h = 0xFE →
      (v.f.tok &&& m ≠ 0 → exec (.sluice a b k) s = .next v.delayed) ∧
      (v.f.tok &&& m = 0 → h ≠ 0 → ¬room ∨ calm v = false → exec (.sluice a b k) s = .next v.delayed) ∧
      (v.f.tok &&& m = 0 → h ≠ 0 → room → calm v = true →
        ∃ (w : V) (c : SChain), exec (.sluice a b k) s = .next (v.done d w) ∧ tokenBound w0 w m ∧ w.s.schains = w0.s.schains ++ [c] ∧
          c.die = v.p.die ∧ c.eng = ctl % 4 ∧ c.iss = { h := v.l.h, f := v.l.f } ∧ c.tok = k.toNat ∧ c.next = h ∧ c.now = [] ∧
          c.recs = 0 ∧ c.kill = false ∧ c.mask = (m &&& ~~~BitVec.ofNat 8 (2 ^ k.toNat)) ∧ w.f.ts = setAt w0.f.ts k.toNat 1) ∧
      (v.f.tok &&& m = 0 → h = 0 → ∃ w, exec (.sluice a b k) s = .next (v.done d w) ∧ w.f.tok = v.f.tok ∧
        w.f.ts = setAt v.f.ts k.toNat 0 ∧ w.s.schains = s.schains)) ∧
    (∀ a (k : BitVec 3), Runs (.slstat a k) s v d → (v.writes d).capOk [a] = true →
      ∃ (w : V) (o : MemOp), exec (.slstat a k) s = .next (v.done d w) ∧ w.f.ops = v.f.ops ++ [o] ∧ o.kind = .status k.toNat ∧ o.dst = some a ∧
        o.cntr = 0 ∧ w.f.cnt = modAt v.f.cnt 0 (· + 1) ∧ w.s.dev = s.dev) ∧
    (∀ k : BitVec 3, Runs (.slkill k) s v d → ∃ w, exec (.slkill k) s = .next (v.done d w) ∧
      w.f = (v.writes d).f.sampled (v.writes d).e.running (BitVec.ofNat 8 (2 ^ k.toNat)) ∧ w.s.dev = s.dev ∧
      w.s.schains = s.schains.map fun c =>
        if c.iss.h = v.l.h ∧ c.iss.f = v.l.f ∧ c.iss.io = none ∧ (c.tok = k.toNat ∨ c.mask.getLsbD k.toNat = true) then { c with kill := true } else c) ∧
    (∀ a b c, Runs (.cpys a b c) s v d →
      let x := (r.rd a t).toNat
      let y := (r.rd b t 1).toNat
      let n := (r.rd c t 2).toNat
      x % 16 = 0 → y % 16 = 0 → n % 16 = 0 → x + n ≤ v.p.spsize → y + n ≤ v.p.spsize →
      (n = 0 → exec (.cpys a b c) s = .next (v.done d (v.writes d))) ∧
      (n ≠ 0 → calm v = false → exec (.cpys a b c) s = .next v.delayed) ∧
      (n ≠ 0 → calm v = true →
        ∃ (w : V) (o : MemOp), exec (.cpys a b c) s = .next (v.done d w) ∧ w.f.ops = w0.f.ops ++ [o] ∧ o.kind = .copy x y n w0.s.nextId ∧
          o.cntr = 2 ∧ w.f.cnt = modAt w0.f.cnt 2 (· + 1) ∧ w.p.spad = v.p.spad ∧ w.f.r = w0.f.r)) ∧
    (∀ a (k : BitVec 3), Runs (.coll a k) s v d →
      let h := r.rd2 a t
      h % 64 = 0 → spaceOf h = 0 ∨ spaceOf h = 0xFE →
      (v.f.tok.getLsbD k.toNat = true ∨ calm v = false → exec (.coll a k) s = .next v.delayed) ∧
      (v.f.tok.getLsbD k.toNat = false → calm v = true →
        ∃ (w : V) (c : Coll), exec (.coll a k) s = .next ((v.done d w).collRead c.id) ∧ tokenBound w0 w (BitVec.ofNat 8 (2 ^ k.toNat)) ∧
          w.s.colls = w0.s.colls ++ [c] ∧ c.addr = h ∧ c.tok = k.toNat ∧ c.iss = { h := v.l.h, f := v.l.f } ∧ c.time = s.time ∧ c.st = 0)) ∧
    ∀ (i : Instr) (kind : Nat) a (k : BitVec 3), (i = .build a k ∧ kind = 0) ∨ (i = .refit a k ∧ kind = 1) ∨ (i = .compact a k ∧ kind = 2) →
      Runs i s v d → r.rd2 a t % 64 = 0 → inSpace v.p.spsize (r.rd2 a t) 64 = true →
      let room := kind = 2 ∨ (s.jobs.filter fun j => j.die == v.p.die && j.st == 0 && (j.kind == 2) == false).length < 64
      (v.f.tok.getLsbD k.toNat = true ∨ ¬room ∨ calm v = false → exec i s = .next v.delayed) ∧
      (v.f.tok.getLsbD k.toNat = false → room → calm v = true →
        ∃ (w : V) (j : Job), exec i s = .next (v.done d w) ∧ tokenBound w0 w (BitVec.ofNat 8 (2 ^ k.toNat)) ∧ w.s.jobs = w0.s.jobs ++ [j] ∧
          j.kind = kind ∧ j.die = v.p.die ∧ j.addr = r.rd2 a t ∧ j.st = 0 ∧ j.tok = k.toNat ∧ j.iss = some { h := v.l.h, f := v.l.f })

open Sys2Proof Sys2Proof.Machine Sys2Proof.Claims in
/-- Matrix instructions claim and free slots, set formats, and queue loads and versioned operations (spec/11_operand_slot.md R268, spec/11_operand_slot.md R271, spec/11_operand_slot.md R273, spec/11_operand_slot.md R283, spec/11_operand_slot.md R285 to R289). -/
def Obligations.MatrixInstructions : Prop :=
  ∀ (s : State) (v : V) (d : Desc),
    let r := v.reads d
    let t := lowest (v.threads d)
    let w0 := v.ordered (v.writes d)
    let fresh (n : BitVec 2) (ver : Nat) : Prop := (ver + 65536 - (v.engine.acc n.toNat).ver) % 65536 < 32768 ∧
      v.engine.q.all (fun o => o.kind == 0 || o.a != n.toNat || o.v != ver) = true
    let room := (v.engine.q.filter (·.kind != 0)).length < 16
    let queued (i : Instr) (n : BitVec 2) (ver kind : Nat) (b : List Byte) : Prop :=
      (¬fresh n ver → exec i s = .next (trapAt v mxdesc)) ∧ (fresh n ver → ¬room → exec i s = .next v.delayed) ∧
      (fresh n ver → room → ∃ (w : V) (o : MOp) (e : Engine), exec i s = .next (v.done d w) ∧ w.p = (w0.setEngine e).p ∧ e.q = w0.engine.q ++ [o] ∧
        o.kind = kind ∧ o.a = n.toNat ∧ o.v = ver ∧ o.desc = b ∧ o.fmt = (v.engine.acc n.toNat).fmt ∧ o.f = v.l.f ∧ o.running = false ∧ o.pos = 0 ∧
        w.f.cnt = modAt w0.f.cnt 3 (· + 1))
    (∀ p n, Runs (.osclaim p n) s v d →
      let free := (v.engine.slot n.toNat).st = 0
      (free → exec (.osclaim p n) s = .next (v.done d (((v.writes d).setEngine (v.engine.modSlot n.toNat fun x => { x with st := 1 })).wrP p
        (v.threads d) fun _ => true))) ∧
      (¬free → exec (.osclaim p n) s = .next (v.done d ((v.writes d).wrP p (v.threads d) fun _ => false)))) ∧
    (∀ n, Runs (.osrel n) s v d →
      ((v.engine.slot n.toNat).st ≠ 0 →
        exec (.osrel n) s = .next (v.done d ((v.writes d).setEngine (v.engine.modSlot n.toNat fun x => { x with st := 0 })))) ∧
      ((v.engine.slot n.toNat).st = 0 → exec (.osrel n) s = .next (trapAt v slotst))) ∧
    (∀ a n, Runs (.osload a n) s v d → (r.rd a t).toNat % 128 = 0 → (r.rd a t).toNat + 6144 ≤ v.p.spsize →
      ((v.engine.slot n.toNat).st = 0 → exec (.osload a n) s = .next (trapAt v slotst)) ∧
      ((v.engine.slot n.toNat).st ≠ 0 → calm v = false → exec (.osload a n) s = .next v.delayed) ∧
      ((v.engine.slot n.toNat).st ≠ 0 → calm v = true →
        ∃ (w : V) (o : MOp) (e : Engine), exec (.osload a n) s = .next (v.done d w) ∧ w.p = (w0.setEngine e).p ∧
          e.q = w0.engine.q ++ [o] ∧ o.kind = 0 ∧ o.a = n.toNat ∧ o.src = (r.rd a t).toNat ∧ o.f = v.l.f ∧ w.f.cnt = modAt w0.f.cnt 3 (· + 1))) ∧
    (∀ (a : Opnd) (al : Nat) (b : List Byte), r.offsetTrap (r.rd a t).toNat al al = none →
      r.engineRead (r.rd a t).toNat al = some (b, false) →
      (∀ n, al = 32 → Runs (.mfmt a n) s v d →
        (calm v = false → exec (.mfmt a n) s = .next v.delayed) ∧
        (calm v = true → fmtBad b = false → exec (.mfmt a n) s = .next (v.done d (w0.setEngine (w0.engine.modAcc n.toNat fun x => { x with fmt := b })))) ∧
        (calm v = true → fmtBad b = true → exec (.mfmt a n) s = .next (trapAt v mxdesc))) ∧
      (∀ k, al = 32 → Runs (.mcbook a k) s v d →
        (calm v = false → exec (.mcbook a k) s = .next v.delayed) ∧
        (calm v = true → exec (.mcbook a k) s = .next (v.begun d { w0 with e := { w0.e with hold := .codebook k.toNat b } }))) ∧
      ∀ (i : Instr) (c : Opnd) (n : BitVec 2) (kind : Nat), Runs i s v d →
        (i = .mloop a c n ∧ al = 32 ∧ kind = 2) ∨ (i = .msparse a c n ∧ al = 64 ∧ kind = 3) ∨
        (i = .mgust a c n ∧ al = 64 ∧ kind = 4) ∨ (i = .mdrain a c n ∧ al = 16 ∧ kind = 5) →
        let bad := if kind = 2 then r.loopTrap n.toNat b false else if kind = 3 then r.loopTrap n.toNat b true
          else if (if kind = 4 then gustBad b (v.engine.acc n.toNat).fmt else drainBad v.p.spsize b (v.engine.acc n.toNat).fmt) then some mxdesc else none
        (calm v = false → exec i s = .next v.delayed) ∧
        (calm v = true → ∀ x, bad = some x → exec i s = .next (trapAt v x)) ∧
        (calm v = true → bad = none → queued i n ((r.rd c t 1).toNat % 65536) kind b)) ∧
    (∀ c n, Runs (.mzero c n) s v d →
      (calm v = false → exec (.mzero c n) s = .next v.delayed) ∧
      (calm v = true → queued (.mzero c n) n ((r.rd c t 1).toNat % 65536) 1 [])) ∧
    ∀ c n, Runs (.mwait c n) s v d →
      (((v.engine.acc n.toNat).ver + 65536 - (r.rd c t 1).toNat % 65536) % 65536 < 32768 →
        exec (.mwait c n) s = .next (v.done d ((v.writes d).acquire 2))) ∧
      (32768 ≤ ((v.engine.acc n.toNat).ver + 65536 - (r.rd c t 1).toNat % 65536) % 65536 → exec (.mwait c n) s = .next v.delayed)

open Sys2Proof Sys2Proof.Machine Sys2Proof.Claims in
/-- TRACE, TRACEA, MARCH, MLOC and SAMPLE put one ray or walk per thread in flight; fences are read; a grid latch is held (spec/12_structure.md R306, spec/12_structure.md R312, spec/13_march.md R323, spec/13_march.md R329, spec/13_march.md R333, spec/13_march.md R338 to R340). -/
def Obligations.SceneInstructions : Prop :=
  ∀ (s : State) (v : V) (d : Desc),
    let r := v.reads d
    let act := v.threads d
    let t := lowest act
    let w0 := v.ordered (v.writes d)
    let room := (s.rays.filter fun x => coreOf x.iss.h == v.p.core && !x.done).length +
        (s.walks.filter fun x => coreOf x.iss.h == v.p.core).length + (threadsOf act).length ≤ 1024
    (∀ (i : Instr) a b c (any : Bool), i = (if any then .tracea a b c else .trace a b c) → Runs i s v d →
      (∀ e, objTrap (r.rd2 c t 2) = some e → exec i s = .next (trapAt v e)) ∧
      (objTrap (r.rd2 c t 2) = none → (v.writes d).capOk ((List.range 5).map a.plus) = true →
        (¬room ∨ calm v = false → exec i s = .next v.delayed) ∧
        (room → calm v = true →
          ∃ (w : V) (rs : List Ray), exec i s = .next (v.done d w) ∧ w.s.rays = w0.s.rays ++ rs ∧ rs.map Ray.t = threadsOf act ∧
            (∀ x ∈ rs, x.any = any ∧ x.obj = r.rd2 c t 2 ∧ x.iss = { h := v.l.h, f := v.l.f } ∧ x.g = v.l.g ∧ x.dst = a.code ∧ x.keep = true ∧
              x.done = false ∧ x.query = (List.range 9).map fun k => r.rd (b.plus k) x.t 1) ∧
            w.f.cnt = modAt w0.f.cnt 3 (· + 1) ∧ (∀ n u, u < 16 → w.f.r.vword n u = w0.f.r.vword n u)))) ∧
    (∀ (i : Instr) a b c (kind nq nr : Nat), Runs i s v d →
      (i = .march a b c ∧ kind = 0 ∧ nq = 12 ∧ nr = 8 ∧ meshTrap (r.rd2 c t 2) = none) ∨
      (i = .mloc a b c ∧ kind = 1 ∧ nq = 4 ∧ nr = 8 ∧ meshTrap (r.rd2 c t 2) = none) ∨
      (i = .sample a b c ∧ kind = 2 ∧ nq = 12 ∧ nr = 4 ∧ r.rd2 c t 2 % 128 = 0 ∧ inWindow 0xFE 32 (r.rd2 c t 2) 1 v.p.spsize = true ∧
        (threadsOf act).all (fun u => !r.pois a u && !r.pois (a.plus 3) u) = true) →
      (v.writes d).capOk ((List.range nr).map a.plus) = true →
      (¬room ∨ calm v = false → exec i s = .next v.delayed) ∧
      (room → calm v = true →
        ∃ (w : V) (ws : List Walk), exec i s = .next (v.done d w) ∧ w.s.walks = w0.s.walks ++ ws ∧ ws.map Walk.t = threadsOf act ∧
          (∀ x ∈ ws, x.kind = kind ∧ x.addr = r.rd2 c t 2 ∧ x.iss = { h := v.l.h, f := v.l.f } ∧ x.g = v.l.g ∧ x.dst = a.code ∧ x.keep = true ∧
            x.helper = v.f.r.hmask.getLsbD x.t ∧ x.query = (List.range nq).map fun k => r.rd (b.plus k) x.t 1) ∧
          w.f.cnt = modAt w0.f.cnt 3 (· + 1) ∧ (∀ n u, u < 16 → w.f.r.vword n u = w0.f.r.vword n u))) ∧
    (∀ a b, Runs (.sfence a b) s v d →
      (∀ e, objTrap (r.rd2 a t) = some e → exec (.sfence a b) s = .next (trapAt v e)) ∧
      (objTrap (r.rd2 a t) = none → calm v = false → exec (.sfence a b) s = .next v.delayed) ∧
      (objTrap (r.rd2 a t) = none → calm v = true → ∀ f, r.fenceOf (r.rd2 a t) (r.rd b t 1).toNat = .ok f →
        (field f 0 2 ≠ 0 → exec (.sfence a b) s = .next (v.done d (w0.acquire 5))) ∧
        (field f 0 2 = 0 → exec (.sfence a b) s = .next v.delayed))) ∧
    (∀ p b c, Runs (.sready p b c) s v d → objTrap (r.rd2 b t 1) = none →
      (calm v = false → exec (.sready p b c) s = .next v.delayed) ∧
      (calm v = true → ∀ f, r.fenceOf (r.rd2 b t 1) (r.rd c t 2).toNat = .ok f →
        let ready := field f 0 2 = 1 ∧ field f 16 16 = (r.rd c t 2).toNat / 65536
        (ready → exec (.sready p b c) s = .next (v.done d ((w0.acquire 5).wrP p act fun _ => true))) ∧
        (¬ready → exec (.sready p b c) s = .next (v.done d (w0.wrP p act fun _ => false))))) ∧
    ∀ a n, Runs (.gridset a n) s v d →
      let x := r.rd2 a t
      x % 128 = 0 → inSpace v.p.spsize x 128 = true →
      (calm v = false → exec (.gridset a n) s = .next v.delayed) ∧
      (calm v = true → ∀ b,
        let ends (w : V) : Prop :=
          (gridBad b = false → exec (.gridset a n) s = .next (v.begun d { w with e := { w.e with hold := .gridset n.toNat b } })) ∧
          (gridBad b = true → exec (.gridset a n) s = .next (trapAt v { t := .griddesc }))
        (spaceOf x ≠ 0xFE → ∀ c, s.ctx? v.p.ctx = some c → s.gread c v.p.die 0 6 x 128 = .ok (b, false) →
          ends { w0 with s := w0.s.gfill c v.p.die 0 6 x 128 }) ∧
        (spaceOf x = 0xFE → v.p.spRead (x % 2 ^ 32) 128 = (b, false) → ends w0))

namespace Sys2Proof.Claims
open Sys2Proof.Machine

/-- The CSRs that can be written, with their reserved bits (R385). -/
def writableCsrs : List (Nat × Nat) := [(0x03, 0xFE000000), (0x10, 0xFFFFFFFE), (0x11, 0x7FFF8000), (0x20, 0xFFFFFFF8), (0x21, 0xFFFFFF00)]

/-- The opcodes of R58. -/
def privOps : List Nat := [0x16, 0x17, 0xF2, 0xF3, 0xF4, 0xF5, 0xF6]

end Sys2Proof.Claims

open Sys2Proof Sys2Proof.Machine Sys2Proof.Claims in
/-- CSRW, EVWAIT, ASGEN and reserved-field words have the effects of their rules (spec/15_context.md R385, spec/15_context.md R386, spec/15_context.md R387, spec/16_page.md R398, spec/02_instruction_word.md R59). -/
def Obligations.SystemRegisters : Prop :=
  ∀ (s : State) (v : V) (d : Desc) (c : Ctx), s.ctx? v.p.ctx = some c →
    let r := v.reads d
    let w := v.writes d
    let t := lowest (v.threads d)
    (∀ a i m, (i.toNat, m) ∈ writableCsrs → Runs (.csrw a i) s v d →
      let x := (r.rd a t).toNat
      (x &&& m ≠ 0 → exec (.csrw a i) s = .next (trapAt v { t := .illopnd })) ∧
      (x &&& m = 0 → i = 0x11 → x < 2 ^ 31 → r.s.tableShut v.p.ctx (x % 2 ^ 15) = true → exec (.csrw a i) s = .next v.delayed) ∧
      (x &&& m = 0 → (i = 0x11 → x < 2 ^ 31 → r.s.tableShut v.p.ctx (x % 2 ^ 15) = false) → ∃ u, exec (.csrw a i) s = .next u ∧
        (i = 0x03 → u.ctx? v.p.ctx = some { c with quota := r.rd a t &&& 0x01FFFFFF }) ∧
        (i = 0x10 → u.ctx? v.p.ctx = some { c with hold := x % 2 == 1 }) ∧
        (i = 0x20 → u.ctx? v.p.ctx = some { c with dbg := x }) ∧
        (i = 0x11 → u = State.setQbstat (if x < 2 ^ 31 then (v.done d w).bindQueue v.p.ctx (x % 2 ^ 15)
          else (v.done d w).unbindQueue v.p.ctx (x % 2 ^ 15)) v.p.ctx) ∧
        (i = 0x21 → u = ((v.done d w).haltDies v.p.ctx (x % 16)).resumeDies v.p.ctx (x / 16)))) ∧
    (∀ a (k : BitVec 2), Runs (.evwait a k) s v d →
      let n : Word := if k = 0 then BitVec.ofNat 32 (c.evc.getD 0 0 + c.evc.getD 1 0 + c.evc.getD 2 0) else BitVec.ofNat 32 (c.evc.getD (k.toNat - 1) 0)
      (n = v.f.snaps.getD k.toNat 0 → exec (.evwait a k) s = .next v.delayed) ∧
      (n ≠ v.f.snaps.getD k.toNat 0 → w.capOk [a] = true → ∃ u : V, exec (.evwait a k) s =
          .next (v.done d (u.write a (v.threads d) (fun _ => n) (fun _ => false) 2)) ∧
        u.f.snaps = setAt v.f.snaps k.toNat n ∧ u.f.r = w.f.r ∧ u.f.ops = v.f.ops ∧ u.s.dev = s.dev)) ∧
    (∀ b, Runs (.asgen b) s v d →
      ((r.rd b t 1).toNat ≠ c.asid → exec (.asgen b) s = .next (trapAt v { t := .illopnd })) ∧
      ((r.rd b t 1).toNat = c.asid → v.quiet = false → exec (.asgen b) s = .next v.delayed) ∧
      ((r.rd b t 1).toNat = c.asid → v.quiet = true → SMap.wf 0 s.gens = true → ∃ u : V, exec (.asgen b) s = .next (v.begun d u) ∧
        u.s.gen c.asid = (s.gen c.asid + 1) % 2 ^ 24 ∧ (∀ k, k ≠ c.asid → u.s.gen k = s.gen k) ∧
        u.e.hold = .asgen c.asid ((s.gen c.asid + 1) % 2 ^ 24) ∧ u.f = w.f ∧ u.s.dev = s.dev)) ∧
    ∀ x : Word, s.view = some v → v.blocked {} = false →
      let op := x.toNat / 2 ^ 24
      let lease := destOpcode op = true ∧ v.chkD (Opnd.ofByte (x.extractLsb' 16 8)) = some .lease
      (op ∈ privOps → v.p.sys = false → exec (.reservedFieldWord x) s = .next (trapAt v { t := .priv })) ∧
      (¬(op ∈ privOps ∧ v.p.sys = false) → lease → exec (.reservedFieldWord x) s = .next (trapAt v { t := .lease })) ∧
      (¬(op ∈ privOps ∧ v.p.sys = false) → ¬lease → exec (.reservedFieldWord x) s = .next (trapAt v { t := .illopnd }))

open Sys2Proof Sys2Proof.Machine Sys2Proof.Claims in
/-- TRAPRET ends its target's halt as RACT says, and its fascine's threads exit; the resumed polder goes on with its registers (spec/15_context.md R375, spec/15_context.md R376, spec/02_instruction_word.md R31). -/
def Obligations.TrapReturn : Prop :=
  (∀ (s : State) (v : V) (d : Desc), Runs .trapret s v d →
    (v.p.tself = none → exec .trapret s = .next ((v.done d (v.writes d)).exitFrom v.l.h v.l.f v.l.g v.e.running)) ∧
    (∀ t c, v.p.tself = some t → v.s.ctx? v.p.ctx = some c →
      v.p.hdone = true ∨ (∀ x, v.s.byUid v.p.htgt = some x → x.halt = none ∨ x.ctx ≠ v.p.ctx) →
      exec .trapret s = .next ((v.done d (v.writes d)).leaveFasc v.l.h v.l.f)) ∧
    ∀ t c x, v.p.tself = some t → v.s.ctx? v.p.ctx = some c → v.p.hdone = false → v.s.byUid v.p.htgt = some x → x.ctx = v.p.ctx →
      x.halt ≠ none →
      (v.quiet = false → exec .trapret s = .next v.delayed) ∧
      ∀ b w, v.quiet = true → (v.reads d).engGet (v.writes d) 0 (c.tring + 64 * t) 64 = .ok (b, w) →
        let act := field b 320 2
        let rpc := field b 352 32
        (act = 1 → validSlot rpc = false → exec .trapret s = .next (trapAt v { t := .misalign, addr := rpc })) ∧
        (¬(act = 1 ∧ validSlot rpc = false) → exec .trapret s = .next
          (((v.done d { w with p := { w.p with hdone := true } }).resumePolder x.h (if act = 3 then 0 else act)
            (BitVec.ofNat 32 rpc)).leaveFasc v.l.h v.l.f))) ∧
  ∀ (s : State) (h a : Nat) (rpc : Word) (p : Polder) (x : Halt), s.polder? h = some p → p.halt = some x →
    (a < 2 → ∃ q, (s.resumePolder h a rpc).polder? h = some q ∧ q.life = .running ∧ q.halt = none ∧ q.spad = p.spad ∧
      q.fs.length = p.fs.length ∧ (s.resumePolder h a rpc).dev = s.dev ∧ ∃ m : Nat → Bool, let r := if a = 1 then p.discard x.f x.g m else p
      q.breg = r.breg ∧
      ∀ (i : Nat) (f u g : Fascine), p.fs[i]? = some f → r.fs[i]? = some u → q.fs[i]? = some g →
        g.stop = { dieHalt := f.stop.dieHalt } ∧ g.settle = true ∧
        g.haz = (f.haz.filter fun y => y.op.isSome || y.chain.isSome).map (fun y => if y.op.isSome then y else { y with left := 0 }) ∧
        (∀ e ∈ g.r.ents, e.entry = true) ∧ g.r.s = u.r.s ∧ g.r.preds = u.r.preds ∧ g.r.vb = u.r.vb ∧ g.chains = u.chains ∧
        (a = 0 ∨ i ≠ x.f → u = f ∧ g.r.ents.map SplitEntry.pc = f.r.ents.map SplitEntry.pc) ∧
        (a = 1 → i = x.f → u.chains = f.chains.filter (·.g != x.g) ∧ (∀ e, g.r.ents[x.g]? = some e → e.pc = rpc) ∧
          ((∀ y ∈ f.haz, y.g = x.g → y.chain = none) → u.r = f.r ∧ r.breg = p.breg))) ∧
    (p.live ≠ 0 → ∃ q, (s.resumePolder h 2 rpc).polder? h = some q ∧ q.life = .draining ∧ q.halt = none ∧ ∀ f ∈ q.fs, f.retired = true)

open Sys2Proof Sys2Proof.Machine Sys2Proof.Claims in
/-- DBGLOG selects, discards and writes as its operation says; UNDO takes back steps, each restoring what it saved (spec/15_context.md R389, spec/15_context.md R390, spec/15_context.md R391). -/
def Obligations.DebugInstructions : Prop :=
  (∀ (s : State) (v : V) (d : Desc),
    let r := v.reads d
    let w := v.writes d
    let t := lowest (v.threads d)
    (∀ b, Runs (.dbglogSelect b) s v d →
      exec (.dbglogSelect b) s = .next (v.done d { w with f := { w.f with undoTgt := some ((r.rd b t 1).toNat % 64) } })) ∧
    (∀ b, Runs (.dbglogDiscard b) s v d →
      (r.undoFasc = none → exec (.dbglogDiscard b) s = .next (v.done d w)) ∧
      ∀ p i f, r.undoFasc = some (p, i, f) →
        exec (.dbglogDiscard b) s = .next ((v.done d w).modFasc p.h i fun f => { f with log := [] })) ∧
    (∀ b c, Runs (.dbglogWrite b) s v d → s.ctx? v.p.ctx = some c →
      (c.dlogn = 0 → exec (.dbglogWrite b) s = .next (v.done d w)) ∧
      (c.dlogn ≠ 0 → ∀ s', w.s.gwrite c atHome 0 false 2 (c.dlog + 16 * (c.dlogw % c.dlogn))
          (wordBytes (r.rd b t 1) ++ leBytes 4 v.p.h ++ leBytes 8 (s.beat * 20 / 17)) = .ok s' →
        exec (.dbglogWrite b) s = .next (v.done d { w with s := s'.setCtx { c with dlogw := c.dlogw + 1 } }))) ∧
    ∀ (n : BitVec 8) p i f, Runs (.undo n) s v d → r.undoFasc = some (p, i, f) →
      let busy := ∃ u ∈ f.log.take n.toNat, ∃ o ∈ f.ops, u.op = some o.id
      (busy → exec (.undo n) s = .next v.delayed) ∧
      (¬busy → exec (.undo n) s = .next
        ((v.done d { w with f := { w.f with undoCnt := (r.s.undoSteps p.h i n.toNat).2 } }).undoSteps p.h i n.toNat).1)) ∧
  (∀ (s : State) (h i : Nat) (p : Polder) (f : Fascine) (u : UndoStep) (l : List UndoStep), s.polder? h = some p → p.fs[i]? = some f → f.log = u :: l →
    f.retired = false →
    (u.wall = true → ∀ n, s.undoSteps h i n = (s, 0)) ∧
    (u.wall = false → ∃ (s1 : State) (q : Polder) (y : Fascine), (∀ n, s.undoSteps h i (n + 1) = ((s1.undoSteps h i n).1, (s1.undoSteps h i n).2 + 1)) ∧
      s1.polder? h = some q ∧ q.fs[i]? = some y ∧ y.log = l ∧ y.cnt = f.cnt ∧ y.chains = f.chains.filter (fun c => some c.id != u.chain) ∧
      y.r.s = (u.back f.r).s ∧ y.r.preds = (u.back f.r).preds ∧ y.r.vb = (u.back f.r).vb ∧
      (∀ e e' : SplitEntry, f.r.ents[u.g]? = some e → y.r.ents[u.g]? = some e' → e'.pc = u.pc) ∧
      (∀ a b, u.smem = [(a, b)] → p.spad.wf = true → q.spad.read a = b ∧ ∀ k, k ≠ a → q.spad.read k = p.spad.read k) ∧
      (∀ a b, u.dmem = [(0, a, b)] → s.dev.wf = true → s1.dev.read a = b ∧ ∀ k, k ≠ a → s1.dev.read k = s.dev.read k) ∧
      (u.dmem = [] → s1.dev = s.dev) ∧
      (∀ n x z, u.breg = [(n, x, z)] → n < p.breg.length → (q.breg.getD n []).head? = some x))) ∧
  (∀ (s : State) (h i n : Nat), ((s.fasc? h i).map (·.log) = some [] ∨ s.fasc? h i = none) → s.undoSteps h i n = (s, 0)) ∧
  ∀ (u : UndoStep) (r : Regs), u.whole = false → u.exits = false →
    (∀ n, n < 48 → n < r.s.length → (u.back r).s.getD n 0 = if 160 + n ∈ u.keys then u.regs.s.getD n 0 else r.s.getD n 0) ∧
    (∀ n, n < 160 → (u.back r).bind? n = if n ∈ u.keys then u.regs.bind? n else r.bind? n) ∧
    (∀ n t, n < 7 → t < 16 → (u.back r).pred n t = if 256 + n ∈ u.keys then u.regs.pred n t else r.pred n t)

open Sys2Proof Sys2Proof.Machine Sys2Proof.Claims in
/-- QSIG, LAUNCH, BINFLUSH, GENPIN and GENUNPIN update the queue signal, the child pool, the bin and the pin count (spec/12_structure.md R312, spec/14_queue_kernel.md R354, spec/14_queue_kernel.md R362, spec/14_queue_kernel.md R363). -/
def Obligations.QueueInstructions : Prop :=
  ∀ (s : State) (v : V) (d : Desc),
    let r := v.reads d
    let w := v.writes d
    let w0 := v.ordered w
    let t := lowest (v.threads d)
    (∀ i b (k : Nat), Runs i s v d → (i = .qsigAdd b ∧ k = 0) ∨ (i = .qsigMax b ∧ k = 1) ∨ (i = .qsigNotify b ∧ k = 2) →
      (v.quiet = false ∨ v.s.seqShut v.p.die v.p.queue = true → exec i s = .next v.delayed) ∧
      (v.quiet = true → v.s.seqShut v.p.die v.p.queue = false → ∃ u, exec i s = .next u ∧ ∀ q, s.queue? v.p.queue = some q →
        let x := (r.rd b t 1).toNat
        let n := if k = 0 then (q.sig + x) % 2 ^ 32 else max q.sig x
        (k = 2 → u = (v.done d w.releaseB).notify 3 q.ctx v.p.queue x 0) ∧
        (k < 2 → (u.queue? v.p.queue).map (fun y => (y.sig, y.sts)) = some (n, if k = 0 ∨ n ≠ q.sig then ((v.done d w.releaseB).arrive v.p.queue).time else q.sts)))) ∧
    (∀ p b pk w1, Runs (.launch p b) s v d →
      let x := r.rd2 b t
      x % 64 = 0 → inSpace v.p.spsize x 64 = true → (calm v = false → exec (.launch p b) s = .next v.delayed) ∧ (calm v = true →
      (spaceOf x = 0xFE → s.spadBusy v.l.h s.nextId (x % 2 ^ 32 : Nat) 64 false = false ∧ v.p.spRead (x % 2 ^ 32) 64 = (pk, false) ∧ w1 = w0) →
      (spaceOf x ≠ 0xFE → r.engGet w0 0 x 64 = .ok (pk, w1)) →
      (packetBad pk = true ∨ field pk 0 4 = 4 → exec (.launch p b) s = .next (trapAt v { t := .qpkt })) ∧
      (packetBad pk = false → field pk 0 4 ≠ 4 → v.p.grid.bind s.grid? = none → exec (.launch p b) s = .next (v.done d (w1.wrP p (v.threads d) fun _ => false))) ∧
      (packetBad pk = false → field pk 0 4 ≠ 4 → ∀ g, v.p.grid.bind s.grid? = some g →
        (g.pkt.depth ≠ 64 → g.pool.length < 64 → exec (.launch p b) s =
          .next (v.done d ({ w1 with s := w1.s.setGrid { g with pool := g.pool ++ [pk] } }.wrP p (v.threads d) fun _ => true))) ∧
        (g.pkt.depth = 64 ∨ 64 ≤ g.pool.length → exec (.launch p b) s = .next (v.done d (w1.wrP p (v.threads d) fun _ => false)))))) ∧
    (∀ b e gid g c, Runs (.binflush b) s v d → v.p.node = some e → v.p.grid = some gid → s.grid? gid = some g → s.ctx? v.p.ctx = some c →
      (∀ x, s.bin? v.p.core g.id (r.rd b t 1).toNat = some x → exec (.binflush b) s = .next ((v.done d w).fire c g x)) ∧
      (s.bin? v.p.core g.id (r.rd b t 1).toNat = none → exec (.binflush b) s = .next (v.done d w))) ∧
    ∀ (i : Instr) b c (up : Bool), i = (if up then .genpin b c else .genunpin b c) → Runs i s v d → objTrap (r.rd2 b t 1) = none →
      (calm v = false → exec i s = .next v.delayed) ∧
      ∀ e x ctx, calm v = true → r.findEntry (r.rd2 b t 1) ((r.rd c t 2).toNat % 65536) [2, 3, 4] = .ok (e, x) → s.ctx? v.p.ctx = some ctx →
      let n := field x 96 32
      (n = (if up then 0xFFFFFFFF else 0) → exec i s = .next (trapAt v (structTrap 2))) ∧
      (n ≠ (if up then 0xFFFFFFFF else 0) → ∀ s', w0.s.gwrite ctx (pastFar v.p.die) 16 false 2 (entryAddr (r.rd2 b t 1) e + 12)
          (leBytes 4 (if up then n + 1 else n - 1)) = .ok s' →
        exec i s = .next (v.done d (if up then { w0 with s := s' }.acquire 5 else { w0 with s := s' }.releaseB)))

open Sys2Proof Sys2Proof.Machine Sys2Proof.Claims in
/-- SAVEC stops its target and holds; RESTC checks the image and waits for a core; both end at once with a STAT where there is nothing to do (spec/15_context.md R377, spec/15_context.md R378, spec/15_context.md R384). -/
def Obligations.SaveAndRestore : Prop :=
  ∀ (s : State) (v : V) (d : Desc) (c : Ctx), s.ctx? v.p.ctx = some c →
    let r := v.reads d
    let w0 := v.ordered (v.writes d)
    (∀ a e, Runs (.savec a e) s v d →
      let x := r.rd2 a (lowest (v.threads d))
      (x % 4096 ≠ 0 → exec (.savec a e) s = .next (trapAt v { t := .misalign, addr := x })) ∧
      (x % 4096 = 0 → isGlobal x = false → exec (.savec a e) s = .next (trapAt v { t := .space, addr := x })) ∧
      (x % 4096 = 0 → isGlobal x = true → calm v = false → exec (.savec a e) s = .next v.delayed) ∧
      (x % 4096 = 0 → isGlobal x = true → calm v = true → ∀ hd, r.objGet 0 x 32 = .ok hd →
        let h := field hd 32 32
        let q0 : SaveReq := ⟨v.l.h, v.l.f, v.l.g, x, e == 1⟩
        (∀ p, s.polder? h = some p → p.ctx = v.p.ctx → h ≠ v.l.h → p.life ≠ .draining → p.stopReq ≠ none →
          ∃ w, exec (.savec a e) s = .next (v.begun d w) ∧ w.e.hold = .save x (e == 1) ∧ w.s.saves = s.saves ++ [(h, q0)] ∧ w.s.polder? h = some p) ∧
        (∀ p, s.polder? h = some p → p.ctx = v.p.ctx → h ≠ v.l.h → p.life ≠ .draining → p.stopReq = none →
          ∃ w q, exec (.savec a e) s = .next (v.begun d w) ∧ w.e.hold = .save x (e == 1) ∧ w.s.polder? h = some q ∧
            q.stopReq = some q0 ∧ q.spad = p.spad ∧ q.bars = p.bars) ∧
        ((∀ p, s.polder? h = some p → p.ctx ≠ v.p.ctx ∨ h = v.l.h ∨ p.life = .draining) →
          ∀ s', s.setStat c v.p.die x 2 = .ok s' → exec (.savec a e) s = .next (v.done d ({ w0 with s := s' }.acquire 6))))) ∧
    ∀ a, Runs (.restc a) s v d →
      let x := r.rd2 a (lowest (v.threads d))
      (x % 4096 ≠ 0 → exec (.restc a) s = .next (trapAt v { t := .misalign, addr := x })) ∧
      (x % 4096 = 0 → isGlobal x = false → exec (.restc a) s = .next (trapAt v { t := .space, addr := x })) ∧
      (x % 4096 = 0 → isGlobal x = true → calm v = false → exec (.restc a) s = .next v.delayed) ∧
      (x % 4096 = 0 → isGlobal x = true → calm v = true → ∀ hd q, s.gread c (pastFar v.p.die) 0 10 x 256 = .ok (hd, q) →
        (headerBad hd = true → ∀ s', s.setStat c v.p.die x 3 = .ok s' → exec (.restc a) s = .next (v.done d ({ w0 with s := s' }.acquire 6))) ∧
        (headerBad hd = false → ∀ b q', s.gread c (pastFar v.p.die) 16 (field hd 80 32 / 32 + 2) x (field hd 80 32) = .ok (b, q') →
          let z := s.savedAt v.p.ctx x (field hd 32 32)
          let bad := imageBad b (z.map (·.p))
          (bad = true ∨ (z = none ∧ field hd 72 4 ≠ 4) →
            ∀ s', s.setStat c v.p.die x 3 = .ok s' → exec (.restc a) s = .next (v.done d ({ w0 with s := s' }.acquire 6))) ∧
          (bad = false → field hd 72 4 = 4 → exec (.restc a) s = .next (v.done d (w0.acquire 6))) ∧
          (bad = false → z ≠ none → field hd 72 4 ≠ 4 →
            ∃ w n, exec (.restc a) s = .next (v.begun d w) ∧ w.e.hold = .restore n ∧
              w.s.restores = s.restores ++ [⟨n, v.l.h, v.l.f, v.l.g, v.p.ctx, x, (z.map (·.p.h)).getD 0⟩] ∧ w.s.dev = s.dev)))

namespace Sys2Proof.Claims
open Sys2Proof.Machine

/-- The device step i leads from s to t: the machine goes on with the issue latch empty and the free values of the step used up. -/
def After (i : Instr) (s t : State) : Prop := exec i s = .next t.idle
/-- The entry of a sub-group whose instruction ends: it goes on at the slot that follows (R25). -/
def goesOn (e : SplitEntry) : SplitEntry := { e with hold := .none, pc := nextSlot e.pc, entry := false, arrived := false, passed := false }
/-- What each member i of a round is: its fascine, its entry in use and the entry's number. -/
def Members (p : Polder) (mem : List Nat) (f : Nat → Fascine) (e : Nat → SplitEntry) (g : Nat → Nat) : Prop :=
  mem ≠ [] ∧ ∀ i ∈ mem, p.fs[i]? = some (f i) ∧ (f i).theEntry = some (e i, g i)

end Sys2Proof.Claims

open Sys2Proof Sys2Proof.Machine Sys2Proof.Claims in
/-- Steps that hold, merge, release or stop sub-groups: rejoin, sleep, urgency, rounds, tables, ASGEN and the skid (spec/05_registers.md R148, spec/06_fascine_rank.md R156, spec/06_fascine_rank.md R161, spec/06_fascine_rank.md R164, spec/06_fascine_rank.md R174, spec/06_fascine_rank.md R180, spec/11_operand_slot.md R283, spec/13_march.md R340, spec/15_context.md R372, spec/16_page.md R398). -/
def Obligations.FascineSteps : Prop :=
  (∀ (s : State) (h f g : Nat), After (.rejoinHoldExpiry h f) s (s.modFasc h f fun x => { x with rejoinHold := false }) ∧
    After (.candidateUrgent h f g) s (s.modFasc h f fun x => { x with r := { x.r with ents := modAt x.r.ents g fun e =>
      { e with urgent := e.urgent || (e.val && e.elig && decide (e.since + 1024 ≤ s.beat)) } } }) ∧
    (∀ p, s.polder? h = some p → p.stopReq.isSome = true ∨ p.dieHalt = true → After (.sleepExpiry h f g) s s) ∧
    (∀ p x e, s.polder? h = some p → p.stopReq = none → p.dieHalt = false → p.fs[f]? = some x → x.r.ents[g]? = some e →
      ∃ t y, exec (.sleepExpiry h f g) s = .next t ∧ t.beat = s.beat + e.sleep ∧
      t.fasc? h f = some y ∧ (y.r.ents[g]?).map SplitEntry.sleep = some 0 ∧ y.r.s = x.r.s ∧ y.r.vb = x.r.vb ∧ t.dev = s.dev) ∧
    After (.rejoinMerge h f) s (s.modFasc h f (·.merge s.choose))) ∧
  (∀ (f : Fascine) (free : Nat → Nat → Nat) (pc : Word) (a b : SplitEntry) (i j : Nat), waitingAt f.r.ents pc = [(a, i), (b, j)] →
    (a.rjf && b.rjf) = false → ((f.mergeAt free pc).r.ents[i]?).map SplitEntry.mask = some (a.mask ||| b.mask) ∧
      ((f.mergeAt free pc).r.ents[i]?).map SplitEntry.pc = some pc ∧ ((f.mergeAt free pc).r.ents[j]?).map SplitEntry.val = some false ∧
      (f.mergeAt free pc).r.s = f.r.s ∧ (f.mergeAt free pc).r.vb = f.r.vb ∧ (f.mergeAt free pc).r.preds = f.r.preds) ∧
  (∀ (s : State) (h rank : Nat) (p : Polder) (f : Nat → Fascine) (e : Nat → SplitEntry) (g : Nat → Nat) (a : Nat → Opnd) (act m : Nat → Mask)
    (k : Nat → Nat), s.polder? h = some p → Members p (p.rankLive rank) f e g →
    (∀ i ∈ p.rankLive rank, (e i).hold = .voterk (a i) (act i) (m i) (k i)) → p.rounds = true →
    let mem := p.rankLive rank
    let res (n : Nat) : Word := if n = 0 then (if mem.any fun i => m i != 0 then 1 else 0)
      else if n = 1 then (if mem.all fun i => act i == m i then 1 else 0) else BitVec.ofNat 32 (mem.map fun i => (threadsOf (m i)).length).sum
    ∃ t, exec (.voterkRoundComplete h rank) s = .next t ∧ ∀ i ∈ mem, ∃ y, t.fasc? h i = some y ∧ y.r.ents[g i]? = some (goesOn (e i)) ∧
      (∀ n : Fin 48, a i = .s n → n.val < (f i).r.s.length → y.r.s[n.val]? = some (res (k i))) ∧
      ∀ (n : Fin 160) u, a i = .v n → u < 16 → (act i).getLsbD u = true → y.r.vword n.val u = res (k i)) ∧
  (∀ (s : State) (h rank w : Nat) (p : Polder) (f : Nat → Fascine) (e : Nat → SplitEntry) (g : Nat → Nat) (a : Nat → Opnd) (m : Nat → Mask)
    (k : Nat → Nat) (pc : Nat → Word), s.polder? h = some p →
    let mem := p.scopeLive rank w
    w = (if (p.rankLive rank).any (fun i => k i == 1) then 1 else 0) → (∀ i ∈ p.rankLive rank, i ∈ mem) → Members p mem f e g →
    (∀ i ∈ mem, (e i).hold = .regroup (a i) (m i) (k i) ∧ (e i).pc = pc i) → p.rounds = true →
    ((∃ i ∈ mem, ∃ j ∈ mem, k i ≠ k j ∨ pc i ≠ pc j ∨ a i ≠ a j) → After (.regroupRoundComplete h rank) s (s.trapAll h mem .illopnd)) ∧
    ∀ (a0 : Opnd) (pc0 : Word), (∀ i ∈ mem, k i = w ∧ pc i = pc0 ∧ a i = a0) → (∀ i ∈ mem, (f i).chains = [] ∧ s.settled h i (f i) = true) →
    let sel := mem.flatMap fun i => (threadsOf (m i)).map fun u => (i, u)
    let base := if w = 0 then 8 * rank else 0
    ((∃ j, j < p.fs.length ∧ received sel base j ≠ [] ∧ p.regs < (regroupNames p a0 (received sel base j)).length) →
      After (.regroupRoundComplete h rank) s (s.trapAll h mem .regcap)) ∧
    ((∀ j, j < p.fs.length → received sel base j ≠ [] → (regroupNames p a0 (received sel base j)).length ≤ p.regs) → (∀ x ∈ p.fs, x.r.ents ≠ []) →
      ∃ t, exec (.regroupRoundComplete h rank) s = .next t ∧
        (∀ n i u, sel[n]? = some (i, u) → ∃ y, t.fasc? h (base + n / 16) = some y ∧ y.retired = false ∧
          y.r.preds.getD (n % 16) 0 = (f i).r.preds.getD u 0 ∧ y.r.hmask.getLsbD (n % 16) = (f i).r.hmask.getLsbD u ∧
          y.r.exmask.getLsbD (n % 16) = false ∧
          (∃ x ∈ y.r.ents, x.val = true ∧ x.mask.getLsbD (n % 16) = true ∧ x.pc = nextSlot pc0 ∧ x.hold = .none) ∧
          ∀ x : Fin 160,
            (a0 = .v x → y.r.vword x.val (n % 16) = BitVec.ofNat 32 (16 * i + u) ∧ y.r.vpois x.val (n % 16) = false ∧
              (y.r.bind? x.val).map (fun b => b.live.getLsbD (n % 16)) = some true) ∧
            (a0 ≠ .v x → y.r.vword x.val (n % 16) = (f i).r.vword x.val u ∧ y.r.vpois x.val (n % 16) = (f i).r.vpois x.val u ∧
              ((y.r.bind? x.val).map (fun b => b.live.getLsbD (n % 16))).getD false =
                (((f i).r.bind? x.val).map (fun b => b.live.getLsbD u)).getD false)) ∧
        ∀ i ∈ mem, sel.length ≤ 16 * (i - base) → ∀ y, t.fasc? h i = some y → y.retired = true)) ∧
  ∀ (s : State) (h f g : Nat) (p : Polder) (x : Fascine) (e : SplitEntry), s.polder? h = some p → p.fs[f]? = some x → x.r.ents[g]? = some e →
    (∀ t b n, e.hold = .codebook t b → (p.ranks[f / 8]?).map Prod.fst = some n → After (.codebookTableWritten h f g) s
      ((s.setPolder { p with engines := p.engines.map fun y => if y.part = n then { y with books := setAt y.books t b } else y }).modFasc h f
        fun y => { y with r := { y.r with ents := modAt y.r.ents g goesOn } })) ∧
    (∀ n b, e.hold = .gridset n b → After (.gridLatchWritten h f g) s ((s.setPolder { p with glatch := setAt p.glatch n (some b) }).modFasc h f
      fun y => { y with r := { y.r with ents := modAt y.r.ents g goesOn } })) ∧
    (∀ a n, e.hold = .asgen a n → After (.asgenDrainComplete h f g) s (if s.genDrained a n then s.modFasc h f
      fun y => { y with r := { y.r with ents := modAt y.r.ents g goesOn } } else s)) ∧
    (p.halt.isSome = true → x.stop.stopped = false → x.r.ents.any (·.val) = true → ∃ z ∈ x.r.ents, z.val = true ∧
      After (.skidStop h f) s (s.modFasc h f fun y => { y.abandon with stop := { y.stop with stopped := true, slot := z.pc } }))

open Sys2Proof Sys2Proof.Machine Sys2Proof.Claims in
/-- Steps of accesses: the gather window is sent, a host request times out, culvert stores are accepted, a drained polder leaves (spec/07_polder_ring.md R183, spec/07_polder_ring.md R187, spec/07_polder_ring.md R195, spec/10_sluice.md R264, spec/14_queue_kernel.md R344, spec/14_queue_kernel.md R356, spec/14_queue_kernel.md R358, spec/17_link.md R404). -/
def Obligations.AccessSteps : Prop :=
  (∀ (s : State) (core h : Nat) (p : Polder), s.polder? h = some p → ∃ t, exec (.gatherWindowTimeout core) s = .next t ∧ t.dev = s.dev ∧
    t.polder? h = some (if p.core = core then
      { p with fs := p.fs.map fun f => { f with ops := f.ops.map fun o => { o with sent := true } } } else p)) ∧
  (∀ (s : State) (h i id : Nat) (p : Polder) (f : Fascine) (o : MemOp) (x : Access) (l1 far : Bool) (n : Fin 160) (tgt a home : Nat),
    s.polder? h = some p → p.fs[i]? = some f → s.op? h i id = some o → o.kind = .load l1 far → o.acc = [x] → o.n = 1 → o.uni = false →
    s.ready' p f o false = [(x, 0)] → x.loc = .glob tgt a home → tgt ≠ 0 → o.dst = some (.v n) → o.wmask.getLsbD x.t = true → x.t < 16 →
    ∃ t y, exec (.hostRequestTimeout h i id) s = .next t ∧ t.fasc? h i = some y ∧
      ((f.taken (2 * id) n.val).getLsbD x.t = false → y.r.vword n.val x.t = 0xFFFFFFFF) ∧
      y.ops = f.ops.filter (·.id != id) ∧ y.cnt = modAt f.cnt o.cntr (· - 1) ∧ t.dev = s.dev ∧ t.host = s.host ∧ t.peer = s.peer) ∧
  (∀ (s : State) (h i id u win pos : Nat) (p : Polder) (f : Fascine) (o : MemOp) (ws : List Word) (x : Access), s.polder? h = some p →
    p.fs[i]? = some f → s.op? h i id = some o → x.t = u → x.loc = .culvert win true pos → x.data = ws → o.acc = [x] → s.ready' p f o true = [(x, 0)] →
    let ended (t : State) : Prop := ∃ y, t.fasc? h i = some y ∧ y.ops = f.ops.filter (·.id != id) ∧ y.cnt = modAt f.cnt o.cntr (· - 1)
    (win < 0x8000 → s.seqShut p.die win = false → ∃ t, exec (.culvertFlitAccept h i id) s = .next t ∧ ended t ∧
      t.queues = (s.doorbell win (leNat ((patch (List.replicate 64 0) pos (wordsBytes ws)).take 4))).queues) ∧
    (∀ k n g c, 0x8000 ≤ win → nodeWindow win = some (k, n) → p.grid.bind s.grid? = some g → s.ctx? p.ctx = some c →
      s.culvertOps h i = [id] → g.bins.contains p.core = true → o.ep = f.epoch → f.retired = false → f.r.exmask.getLsbD u = false →
      (∀ r ∈ f.orecs, r.op ≠ some id) →
      let old := ((s.bin? p.core g.id n).map Bin.recs).getD []
      old.length + 1 < nodeCount (g.node n) →
      ∃ t r, exec (.workGraphRecordClose h i u win) s = .next t ∧ ended t ∧ (t.bin? p.core g.id n).map Bin.recs = some (old ++ [r]) ∧
        r.bytes = ((openRec f.orecs win u pos (wordsBytes ws)).bytes.take (nodeRsize (g.node n))) ∧
        r.depth = (if p.node = some n then p.depth + 1 else 0) ∧ r.tag = (if k = 0 then none else some (k - 1, h))) ∧
    ∀ k io, win = 0x400000 + 2 * p.core + k → nodeWindow win = none → (mailboxWindow win).map Prod.snd = some k →
      p.io.find? (·.k == k) = some io → io.ready.length < 16 → s.culvertOps h i = [id] → (∀ j, j ≠ i → s.culvertOps h j = []) →
      ∃ t q, exec (.mailboxPacketClose h k) s = .next t ∧ ended t ∧ t.polder? h = some q ∧
        (q.io.find? (·.k == k)).map (fun z => (z.mopen, z.ready)) = some ([], io.ready ++
          [(patch (io.mopen ++ List.replicate (64 - io.mopen.length) 0) pos (wordsBytes ws)).take 64])) ∧
  ∀ (s : State) (h : Nat) (p : Polder), s.polder? h = some p → s.drained p = true →
    ∃ t, exec (.polderRetire h) s = .next t ∧ t.polder? h = none ∧
      (p.tags = [] → t.dev = s.dev ∧ ∀ k, k ≠ h → t.polder? k = s.polder? k)

open Sys2Proof Sys2Proof.Machine Sys2Proof.Claims in
/-- Steps of the sluices, copies, collectives and matrix engines take, move, match and end their work (spec/10_sluice.md R244, spec/10_sluice.md R245, spec/10_sluice.md R253, spec/10_sluice.md R254, spec/10_sluice.md R257, spec/10_sluice.md R258, spec/11_operand_slot.md R268, spec/11_operand_slot.md R273, spec/11_operand_slot.md R276, spec/11_operand_slot.md R279, spec/11_operand_slot.md R282). -/
def Obligations.EngineSteps : Prop :=
  (∀ (s : State) (i : Instr) (k : Nat) (x : SChain) (c : Ctx) (p : Polder) (r : List Byte) (q : Bool),
    i = .sluiceRecordTake k ∨ i = .sluiceOwnPoll k → s.schain? k = some x → x.now = [] → x.stop = 0 → x.kill = false → s.dieDown x.die = false →
    ((s.onEngine x.die x.eng).take 16).any (·.id == k) = true → s.heldBy (.chain k) = none → x.next % 64 = 0 → inSpace p.spsize x.next 64 = true →
    spaceOf x.next ≠ 0xFE → s.chainCtx x = some c → s.body? x.iss.h = some p → s.eread c p.h x.die 0 x.next 64 = .ok (r, q) →
    (flag r 64 = false → After i s s) ∧
    (flag r 64 = true → recordCode p r = 0 →
      After i s (s.setSchain { x with now := [{ addr := x.next, bytes := r, todo := s.recordPlan p r }] }))) ∧
  (∀ (s : State) (k h a d n : Nat) (x : SChain) (c : Ctx) (p z : Polder) (r : SRec) (b : List Byte) (q : Bool), s.schain? k = some x → x.id = k →
    x.now = [r] → r.st = 0 → s.dieDown x.die = false → s.heldBy (.chain k) = none → s.chainCtx x = some c → s.body? x.iss.h = some p →
    r.todo = [.copy (some h) d a n] → spaceOf r.addr ≠ 0xFE → spaceOf a ≠ 0xFE → s.spadBusy h k d n true = false →
    s.eread c p.h x.die 0 a n = .ok (b, q) → s.polder? h = some z → z.spad.wf = true →
    ∃ t y, exec (.sluiceRecordComplete k) s = .next t ∧ t.polder? h = some y ∧ y.spad.readN d b.length = b ∧
      ∀ u, u < d ∨ d + b.length ≤ u → y.spad.read u = z.spad.read u) ∧
  (∀ (s : State) (k : Nat) (x : SChain) (f : Fascine), s.schain? k = some x → x.id = k → x.now = [] →
    (x.kill = false → After (.sluiceKillStop k) s s) ∧
    (x.kill = true → x.iss.io = none → x.mask = 0 → s.fasc? x.iss.h x.iss.f = some f → ∃ t y, exec (.sluiceKillStop k) s = .next t ∧
      t.schains = s.schains.filter (·.id != k) ∧ t.fasc? x.iss.h x.iss.f = some y ∧ y.tok = f.tok &&& ~~~BitVec.ofNat 8 (2 ^ x.tok) ∧
      y.ts = setAt f.ts x.tok (BitVec.ofNat 32 (0x606 + 65536 * min x.recs 0xFFFF)))) ∧
  (∀ (s : State) (h i id d x n gid a : Nat) (p : Polder) (f : Fascine) (o : MemOp) (z : Access) (ws : List Word), s.polder? h = some p → p.fs[i]? = some f →
    s.op? h i id = some o → o.kind = .copy d x n gid → o.acc = [z] → z.loc = .spad a → z.data = ws → p.spad.wf = true →
    ∃ t q y, exec (.cpysComplete h i id) s = .next t ∧ t.polder? h = some q ∧ q.fs[i]? = some y ∧ y.ops = f.ops.filter (·.id != id) ∧
      y.cnt = modAt f.cnt o.cntr (· - 1) ∧ q.spad.readN a (4 * ws.length) = wordsBytes ws ∧
      ∀ j, j < a ∨ a + 4 * ws.length ≤ j → q.spad.read j = p.spad.read j) ∧
  (∀ (s : State) (gid seq : Nat), let s1 := s.colls.foldl (fun s x => s.collRead x.id) s
    let ps := s1.collOf gid seq 1
    let gone (t : State) : Prop := t.colls.map Coll.id = (s1.colls.filter fun y => !ps.any (·.id == y.id)).map Coll.id
    (∀ n, s1.mism.find? (fun y => y.1 == gid && y.2.1 == seq) = some (gid, seq, n) → ∃ t, exec (.collMatch gid seq) s = .next t ∧ gone t) ∧
    ((∀ y ∈ s1.mism, ¬(y.1 = gid ∧ y.2.1 = seq)) → (∀ y ∈ ps, y.late s1 = false) →
      (anyDiffer ps = true → ∃ t, exec (.collMatch gid seq) s = .next t ∧ gone t) ∧
      (∀ x xs, ps = x :: xs → anyDiffer ps = false → field x.desc 32 16 ≤ ps.length → ∃ t, exec (.collMatch gid seq) s = .next t ∧ t.dev = s1.dev ∧
        t.colls = s1.colls.map fun y => if ps.any (·.id == y.id) then { y with st := 2 } else y))) ∧
  (∀ (s : State) (x : Coll) (code : Nat) (f : Fascine), s.fasc? x.iss.h x.iss.f = some f → ∃ y, (s.endColl x code).fasc? x.iss.h x.iss.f = some y ∧
    y.tok = f.tok &&& ~~~BitVec.ofNat 8 (2 ^ x.tok) ∧
    y.ts = setAt f.ts x.tok (BitVec.ofNat 32 ((if code = 0 then 0 else 2) + (if code = 6 then 4 else 0) + 256 * code))) ∧
  (∀ (s : State) (gid seq : Nat) (l : List (List (Word × Bool))), s.collOf gid seq 3 = [] →
    let ps := (s.collOf gid seq 2).foldl (fun l x => insertKey (fun (y : Coll) => field y.desc 48 16) x l) []
    ps ≠ [] → (∀ x ∈ ps, s.heldBy (.coll x.id) = none) → s.collSends ps = .ok l → After (.collComplete gid seq) s (s.planColls l ps)) ∧
  (∀ (s : State) (l : List (List (Word × Bool))) (x : Coll), s.coll? x.id = some x → ∃ y, (s.planColls l [x]).coll? x.id = some y ∧ y.st = 3 ∧
    y.todo.flatMap (·.2) = wordsBytes (s.recvOf l x)) ∧
  (∀ (s : State) (l : List (List (Word × Bool))) (x : Coll), collOverlaps x.desc = false → (∀ b ∈ l, ∀ y ∈ b, y.2 = false) →
    (∀ b ∈ l, b.length = (collSizes x.desc).1) →
    let c := field x.desc 64 32
    let np := field x.desc 32 16
    let r := field x.desc 48 16
    l.length = np → r < np → field x.desc 16 16 < np →
    let w (j e : Nat) : Word := ((l.getD j []).getD e (0, false)).1
    let out (i : Nat) : Word := (s.recvOf l x).getD i 0
    let sum (e : Nat) : Word := ((List.range np).map fun j => w j e).foldl (· + ·) 0
    ∀ e, e < c →
      (field x.desc 0 8 = 0 → field x.desc 8 8 = 0 → out e = sum e) ∧ (field x.desc 0 8 = 1 → field x.desc 8 8 = 0 → out e = sum (r * c + e)) ∧
      (field x.desc 0 8 = 2 → ∀ j, j < np → out (j * c + e) = w j e) ∧ (field x.desc 0 8 = 3 → out e = w (field x.desc 16 16) e) ∧
      (field x.desc 0 8 = 4 → ∀ j, j < np → out (j * c + e) = w j (r * c + e))) ∧
  (∀ (s t0 : State) (gid seq a : Nat) (b : List Byte) (x : Coll) (c : Ctx), s.collOf gid seq 2 = [] → s.collOf gid seq 3 = [x] →
    (s.colls.filter fun y => y.id == x.id) = [x] → x.todo = [(a, b)] → s.heldBy (.coll x.id) = none → s.ctx? x.ctx = some c →
    s.gwrite c x.die 0 false 3 a b = .ok t0 →
    (s.collSome [x.id] 1).dev = t0.dev ∧ (s.collSome [x.id] 1).host = t0.host ∧ (s.collSome [x.id] 1).peer = t0.peer ∧
    ∃ t, exec (.collComplete gid seq) s = .next t ∧ t.coll? x.id = none ∧ ∀ f, s.fasc? x.iss.h x.iss.f = some f →
      (t.fasc? x.iss.h x.iss.f).map Fascine.tok = some (f.tok &&& ~~~BitVec.ofNat 8 (2 ^ x.tok))) ∧
  (∀ (s : State) (k : Nat) (x : Coll), s.coll? k = some x → x.id = k → x.st ≤ 1 →
    let tmo := field x.desc 416 16
    (tmo = 0 ∨ s.time < x.time + 1000 * tmo → After (.collTimeout k) s s) ∧
    (tmo ≠ 0 → x.time + 1000 * tmo ≤ s.time → ∃ t, exec (.collTimeout k) s = .next t ∧
      t.colls.map Coll.id = (s.colls.filter (·.id != k)).map Coll.id)) ∧
  (∀ (s : State) (h e a : Nat) (p : Polder) (x : Engine), s.engine? h e = some (p, x) →
    let drops (t : State) (o : MOp) : Prop := (t.fasc? h o.f).map Fascine.cnt = (s.fasc? h o.f).map fun f => modAt f.cnt 3 (· - 1)
    let word (z : Engine) (i : Nat) : Word := SMap.get 0 (z.acc a).words i
    (∀ o, x.q.find? (fun o => o.kind == 0 && o.a == a) = some o → x.slotBusy o.id o.slots = false → s.spadBusy h o.id o.src 6144 false e = false →
      a < x.slots.length → ∃ t q y, exec (.slotLoadComplete h e a) s = .next t ∧ t.engine? h e = some (q, y) ∧ drops t o ∧
        y.q = x.q.filter (·.id != o.id) ∧ ∀ i, i < 6144 → (y.slot a).mem.read i = p.spad.read (o.src + i)) ∧
    (∀ o, x.running? a = none → x.q.find? (fun o => o.kind != 0 && o.a == a && o.v == (x.acc a).ver) = some o →
      After (.matrixOpStart h e a) s (s.setEngine h { x with q := x.q.map fun y => if y.id = o.id then { y with running := true } else y })) ∧
    ∀ o, x.running? a = some o →
      (o.finished = true → a < x.accs.length → ∃ t q y, exec (.matrixOpComplete h e a) s = .next t ∧ t.engine? h e = some (q, y) ∧ drops t o ∧
        (p.life ≠ .draining → y.q = x.q.filter (·.id != o.id)) ∧ (y.acc a).ver = ((x.acc a).ver + 1) % 65536 ∧ (y.acc a).opk = o.kind ∧ (y.acc a).err = o.err ∧
        (o.kind = 1 ∨ (o.kind = 5 ∧ o.err = 0 ∧ flag o.desc 96 = true) → ∀ i, word y i = 0 ∧ SMap.get 0 (y.acc a).spec i = 0) ∧
        (¬(o.kind = 1 ∨ (o.kind = 5 ∧ o.err = 0 ∧ flag o.desc 96 = true)) → (y.acc a).words = (x.acc a).words ∧ (y.acc a).spec = (x.acc a).spec)) ∧
      (o.finished = false → s.heldBy (.matrix h e o.id) = none → ∀ c, s.ctx? p.ctx = some c →
        (o.kind = 2 ∨ o.kind = 3 → ∀ y, s.loopBlock p x o = some (y, false) → After (.matrixBlockCommit h e a) s (s.setEngine h y) ∧
          (∃ n, (o.kind = 2 → n = 1) ∧ y.q = x.q.map fun z => if z.id = o.id then { z.commit n with pos := z.pos + 1 } else z) ∧
          (o.kind = 2 → field o.fmt 0 4 = 4 → field o.fmt 4 4 = 4 → flag o.desc 32 = false → flag o.desc 33 = false → 2 ≤ o.desc.length →
            o.a = a → a < x.accs.length → SMap.wf 0 (x.acc a).words = true → SMap.wf 0 (x.acc a).spec = true →
            let i := o.pos / 4
            let sl (at' cnt : Nat) : Memory := (x.slot ((field o.desc at' 4 + i % (if field o.desc cnt 4 = 0 then 16 else field o.desc cnt 4)) % 16)).mem
            ∀ m n, m < 32 → n < 48 → word y (48 * m + n) = word x (48 * m + n) + BitVec.ofInt 32
              ((List.range 32).map fun k => signed 8 ((sl 16 20).read (128 * m + 32 * (o.pos % 4) + k)).toNat *
                signed 8 ((sl 24 28).read (128 * n + 32 * (o.pos % 4) + k)).toNat).sum)) ∧
        (o.kind = 4 → ((gustReads p o.desc o.fmt).any fun z => s.spadBusy h o.id z.1 z.2 false e) = false →
          (s.gustNext c p o 33 (o.pos / 2 ^ 33) (o.pos % 2 ^ 33) o.span = .ok none →
            After (.matrixBlockCommit h e a) s (s.setEngine h (x.modOp o.id fun y => { y with pos := 32 * 2 ^ 33 }))) ∧
          ∀ m k lo hi z r, s.gustNext c p o 33 (o.pos / 2 ^ 33) (o.pos % 2 ^ 33) o.span = .ok (some (m, k, lo, hi)) →
            let y := x.modOp o.id fun y => { y with pos := m * 2 ^ 33 + k, span := some (lo, hi) }
            let s1 := s.setEngine h y
            s1.gustWord c p 2 (0xFE * 2 ^ 56 + (field o.desc 32 32 + 4 * (lo + k))) = .ok z →
            s1.gustRun c p o.desc o.fmt hi (z / fmtBL o.fmt) (hi - lo - k) (lo + k) { rows := o.rows } = .ok r →
            After (.matrixBlockCommit h e a) s (s1.setEngine h ((y.modAcc o.a (·.commitRun o.fmt m r)).modOp o.id fun y =>
              { y.commit r.n with pos := m * 2 ^ 33 + k + r.n, rows := r.rows, err := if r.skipped then max y.err 1 else y.err }))) ∧
        (o.kind = 5 → (∀ z ∈ x.q, z.id = o.id → z = o) → p.spad.wf = true →
          let d := field o.desc 0 64 + o.pos * field o.desc 64 32
          let n := 48 * drainSize o.fmt
          spaceOf d = 0xFE → inSpace p.spsize d n = true → s.spadBusy h o.id (d % 2 ^ 32 : Nat) n true e = false →
          let row := if o.todo = [] then (pieces (n / 16 + 2) d n).map fun y => (y.1, ((drainRow o.fmt (x.acc o.a) o.pos (s.draw (2 ^ 33))).drop (y.1 - d)).take y.2)
            else o.todo
          (∀ y ∈ row, d ≤ y.1 ∧ y.1 + y.2.length ≤ d + n) → row.Pairwise (fun y z => y.1 + y.2.length ≤ z.1) →
          ∃ t q y z, exec (.matrixBlockCommit h e a) s = .next t ∧ t.engine? h e = some (q, y) ∧ (y.q.find? fun u => u.id == o.id) = some z ∧
            (z.todo = [] → z.pos = o.pos + 1 ∧ z.units = o.units + 1) ∧ (∀ u ∈ row, u ∈ z.todo ∨ q.spad.readN (u.1 % 2 ^ 32) u.2.length = u.2) ∧
            ∀ u, u < d % 2 ^ 32 ∨ d % 2 ^ 32 + n ≤ u → q.spad.read u = p.spad.read u))) ∧
  (∀ (b : List Byte) (a : Nat), ((pieces (b.length / 16 + 2) a b.length).map fun y => (b.drop (y.1 - a)).take y.2).flatten = b) ∧
  (∀ (fmt : List Byte) (a : Accum) (m d : Nat), intCode (field fmt 0 4) = true → field fmt 16 3 = 5 →
    drainRow fmt a m d = (List.range 48).flatMap fun n => wordBytes (SMap.get 0 a.words (48 * m + n))) ∧
  ∀ (fmt : List Byte) (a : Accum) (m i n : Nat) (r : Run), intCode (field fmt 0 4) = true → SMap.wf 0 a.words = true → SMap.wf 0 a.spec = true → i < 32 → n < 48 →
    SMap.get 0 (a.commitRun fmt m r).words (48 * i + n) = SMap.get 0 a.words (48 * i + n) + (if i = m then
      BitVec.ofInt 32 ((r.terms.filter (·.1 == n)).map fun t => codeInt (field fmt 0 4) t.2.1 * codeInt (field fmt 4 4) t.2.2).sum else 0)

open Sys2Proof Sys2Proof.Machine Sys2Proof.Claims in
/-- Steps of builder jobs, rays and march-unit threads; a held engine access is tried again (spec/12_structure.md R296, spec/12_structure.md R297, spec/12_structure.md R301 to R305, spec/12_structure.md R306, spec/12_structure.md R308, spec/12_structure.md R309, spec/13_march.md R336, spec/13_march.md R338, spec/16_page.md R400). -/
def Obligations.SceneSteps : Prop :=
  (∀ (s : State) (k : Nat) (j : Job) (c : Ctx), s.freeJob k = some (j, c) → j.id = k →
    (∀ r, s.jobTurn j = true → j.st = 0 → s.recordBusy j 0 64 false = false → s.objRead c (.job k) j.home 0 j.addr 64 = .ok r →
      s.splitTurn c { j with job := r } = true → ({ j with job := r } : Job).obj % 4096 ≠ 0 →
      After (.jobStart k) s (s.setJob { j with job := r, st := 5, code := 1, plan := [] })) ∧
    (∀ s' j', s.jobTurn j = true → j.st = 0 → s.recordBusy j 0 64 false = false → s.runJob c j = .ok (s', j') → j'.id = k → j'.st ≠ 3 → After (.jobStart k) s (s'.setJob j')) ∧
    (∀ e fence fs inner ws s1 s2, j.st = 4 → s.dieDown (j.fenceDie c fence) = false → j.ent = some e → fence ≠ 0 →
      j.plan.find? (fun x => x.1.head? == some fence) = some (fs, inner, ws) →
      (inner.any fun f => j.plan.any fun x => x.1.head? == some f) = false → s.writeNodes c (.job k) (j.fenceDie c fence) ws = .ok s1 →
      s1.writeFences c (.job k) j.obj e (field j.job 160 16) 1 fs = .ok s2 → After (.fenceReady k fence) s
        (s2.setJob { j with plan := j.plan.filter (fun x => x.1.head? != some fence), nodes := j.nodes + ws.length })) ∧
    (∀ es e, j.st = 1 → s.jobTurn j = true → s.entries c (.job k) j.obj = .ok es →
      (List.range 2).find? (fun i => entState (es.getD i []) == 3 || entState (es.getD i []) == 4) = some e → field (es.getD e []) 96 32 ≠ 0 →
      After (.reclaim k) s (s.setJob { j with st := 5, code := 6, plan := [] })) ∧
    (∀ es e m0 s1 s2, j.st = 1 → s.jobTurn j = true → s.entries c (.job k) j.obj = .ok es →
      (List.range 2).find? (fun i => entState (es.getD i []) == 3 || entState (es.getD i []) == 4) = some e → field (es.getD e []) 96 32 = 0 →
      (s.rays.any fun r => r.obj == j.obj && r.held == some e && (s.body? r.iss.h).map (·.ctx) == some j.ctx) = false →
      s.objRead c (.job k) 0 24 (mapAddr j.obj 0) 4096 = .ok m0 →
      s.objWrite c (.job k) 0 (2 ^ 18) (mapAddr j.obj 0) (unown e (m0.take 2048) ++ unown e (m0.drop 2048)) = .ok s1 →
      s1.objWrite c (.job k) 0 (2 ^ 19) (entryAddr j.obj e) (leBytes 4 (8 * field (es.getD e []) 19 1 * 65536)) = .ok s2 →
      After (.reclaim k) s (s2.setJob { j with st := 2 })) ∧
    ∀ s', j.st = 5 → s.dieDown j.die = false → s.recordBusy j 29 7 true = false → j.code = 0 → s.writeJst c j = .ok s' → ∃ t, exec (.jobEnd k) s = .next t ∧
      t.jobs = s'.jobs.filter (·.id != k) ∧ ∀ i f, j.iss = some i → s'.fasc? i.h i.f = some f →
        (t.fasc? i.h i.f).map Fascine.tok = some (f.tok &&& ~~~BitVec.ofNat 8 (2 ^ j.tok))) ∧
  (∀ (e : Nat) (m : List Byte), e < 2 → m.length = 2048 → (unown e m).length = 2048 ∧
    ∀ b, b < 8192 → ownerOf (unown e m) b = if ownerOf m b = e + 1 then 0 else ownerOf m b) ∧
  (∀ (s : State) (k : Nat) (r : Ray) (p : Polder) (c : Ctx), s.ray? k = some r → s.body? r.iss.h = some p → s.ctx? p.ctx = some c → r.done = false →
    (r.parked = true → exec (.rayParkRecheck k) s = exec (.rayComplete k) s) ∧
    (badQuery r.query = true → (s.faults.any fun a => a.owner == .ray k && !a.ended) = false →
      After (.rayComplete k) s (s.endRay r (rayResult r.query none 16384))) ∧
    (badQuery r.query = false → r.looked = true → (s.faults.any fun a => a.owner == .ray k) = false →
      let s0 := s.strayFar c (dieOf (coreOf r.iss.h)) (s.strayAt (s.rayRanges c r))
      (r.held = none → After (.rayComplete k) s (s0.endRay r (rayResult r.query none 4096))) ∧
      ∀ e, r.held = some e → (∀ ws, s.rayRun c r e = .ok (some ws) → After (.rayComplete k) s (s0.endRay r ws)) ∧
        (s.rayRun c r e = .ok none → After (.rayComplete k) s (s0.setRay { r with parked := true })))) ∧
  (∀ (s : State) (r : Ray) (ws : List Word) (f : Fascine) (n : Nat), s.fasc? r.iss.h r.iss.f = some f → s.rays = [r] → r.keep = true →
    ws.length = 5 → r.dst = n → n + 5 ≤ 160 → r.t < 16 → ∃ y, (s.endRay r ws).fasc? r.iss.h r.iss.f = some y ∧ (s.endRay r ws).rays = [] ∧
      y.cnt = modAt f.cnt 3 (· - 1) ∧ ∀ j, j < 5 → (f.taken (2 * r.id + 1) (n + j)).getLsbD r.t = false → y.r.vword (n + j) r.t = ws.getD j 0) ∧
  (∀ (s : State) (k : Nat) (w : Walk) (p : Polder) (c : Ctx), s.walk? k = some w → w.id = k → s.body? w.iss.h = some p → s.ctx? p.ctx = some c →
    (s.faults.any fun a => a.owner == .walk k && !a.ended) = false →
    ((s.faults.any fun a => a.owner == .walk k) = true → After (.marchUnitThreadEnd k) s (s.endWalk w 6)) ∧
    ((s.faults.any fun a => a.owner == .walk k) = false → let s0 := s.strayFar c (dieOf (coreOf w.iss.h)) (s.strayAt w.ranges)
      (∀ s1 w1 w2 code, s0.latchMesh c w = .ok (s1, w1) → s1.beginWalk c w1 = .ok (w2, some code) → After (.marchUnitThreadEnd k) s (s1.endWalk w2 code)) ∧
      (w.begun = true → w.latched = true → w.kind ≠ 2 → ∀ w1 code, s0.pass c w w.theLine = (w1, .ok (some code)) →
        (¬(w.kind = 1 ∧ code = 0) → After (.marchUnitThreadEnd k) s (s0.endWalk w1 code)) ∧
        (w1.kind = 1 → code = 0 → ∀ l, s0.mlocLam c w1 = .ok l → After (.marchUnitThreadEnd k) s (s0.endWalk w1 0 l))) ∧
      (w.begun = true → w.kind = 2 → ∀ s1 w1 code, s0.sampleStep c w = (s1, w1, .ok (some code)) → After (.marchUnitThreadEnd k) s (s1.endWalk w1 code)))) ∧
  (∀ (s : State) (w : Walk) (f : Fascine) (code : Nat) (lam : List Word), s.fasc? w.iss.h w.iss.f = some f → s.walks = [w] → w.keep = true →
    w.t < 16 → let b := w.block code lam
    w.dst + b.length ≤ 160 → ∃ y, (s.endWalk w code lam).fasc? w.iss.h w.iss.f = some y ∧ (s.endWalk w code lam).walks = [] ∧
      y.cnt = modAt f.cnt 3 (· - 1) ∧ ∀ j, j < b.length → (f.taken (2 * w.id + 1) (w.dst + j)).getLsbD w.t = false → y.r.vword (w.dst + j) w.t = b.getD j 0) ∧
  (∀ (w : Walk) (code : Nat) (a b c d : Word), 7 ≤ w.st.length →
    let x := (w.st.getD 6 0).toNat
    let stat (n : Nat) : Word := BitVec.ofNat 32 (code + 16 * bits x 4 4 + 256 * bits x 8 3 + n)
    (w.kind = 0 → code ≠ 7 → (w.block code [a, b, c, d]).getD 6 0 = stat ((if bit x 11 then 2048 else 0) + 4096 * bits x 12 4 + 65536 * bits x 16 9) ∧
      (w.block code [a, b, c, d]).getD 0 0 = w.st.getD 0 0 ∧ ∀ j, 2 ≤ j → j ≠ 6 → (w.block code [a, b, c, d]).getD j 0 = w.st.getD j 0) ∧
    (w.kind = 0 → code = 7 → (w.block 7 [a, b, c, d]).getD 6 0 = stat (4096 * bits x 12 4) ∧
      ∀ j, j ≠ 6 → (w.block 7 [a, b, c, d]).getD j 0 = w.st.getD j 0) ∧
    (w.kind = 1 → w.block code [a, b, c, d] = [w.st.getD 0 0, stat ((if bit x 11 then 2048 else 0) + 4096 * bits x 12 4 + 65536 * bits x 16 9), a, b, c, d, 0, 0]) ∧
    (w.kind = 2 → w.block code [a, b, c, d] = setAt w.st 2 (BitVec.ofNat 32 code))) ∧
  (∀ (s : State) (c : Ctx) (w : Walk) (p : Polder) (u : V3) (row : List Byte),
    let q (i : Nat) : Nat := (w.query.getD i 0).toNat
    let n := (w.st.getD 1 0).toNat
    let ti := sampleAt w.query (w.st.getD 0 0)
    n ≠ bits (q 8) 2 5 + 1 → w.count < 65536 → (fw w.query 7).lt false ti = false →
    gridPoint w.mesh ((⟨V3.of fun i => (fw w.query i).toQ, V3.of fun i => (fw w.query (4 + i)).toQ⟩ : Line).point ti) = some u →
    s.occupied c w u = .ok true → w.helper = false → s.featureRow c w u = .ok row → s.polder? w.iss.h = some p → p.spad.wf = true → w.st.length = 4 →
    let r := q 10 + n
    w.addr % 2 ^ 32 + 128 * r + row.length ≤ q 11 + 4 * r ∨ q 11 + 4 * r + 4 ≤ w.addr % 2 ^ 32 + 128 * r →
    ∃ (t : State) (z : Walk) (y : Polder), s.sampleStep c w = (t, z, .ok none) ∧ t.polder? w.iss.h = some y ∧
      z.st = [w.st.getD 0 0 + 1, BitVec.ofNat 32 (n + 1), w.st.getD 2 0, wf ti] ∧
      y.spad.readN (w.addr % 2 ^ 32 + 128 * r) row.length = row ∧ y.spad.readN (q 11 + 4 * r) 4 = wordBytes (wf ti)) ∧
  ∀ (s : State) (k : Nat) (a : Fault400) (c : Ctx), s.faults[k]? = some a → a.ended = false → s.ctx? a.ctx = some c →
    (∀ e, s.translate c a.va (if a.write then 1 else 0) 0 = .error e → e.cause = a.cause ∨ e.cause = 0 → After (.engineFaultRetry k) s s) ∧
    ∀ die, s.mapped? c a = some die → ∃ u, exec (.engineFaultRetry k) s = .next u ∧ u.dev = s.dev ∧
      u.faults = s.faults.filter (fun b => !(b.ctx == a.ctx && b.va == a.va && !b.ended && ((s.arrive (srcDie die)).mapped? c b).isSome))

open Sys2Proof Sys2Proof.Machine Sys2Proof.Claims in
/-- Steps of the launch sequencers: doorbell, fetch, selection, placement, completion, tail launch, events, bins and spillways (spec/14_queue_kernel.md R344, spec/14_queue_kernel.md R346, spec/14_queue_kernel.md R348, spec/14_queue_kernel.md R350, spec/14_queue_kernel.md R351, spec/14_queue_kernel.md R353, spec/14_queue_kernel.md R355, spec/14_queue_kernel.md R358, spec/14_queue_kernel.md R359, spec/14_queue_kernel.md R364, spec/07_polder_ring.md R182). -/
def Obligations.QueueSteps : Prop :=
  (∀ (s : State) (n : Nat) (w : Word), (s.queue? n = none → After (.doorbell n w) s s) ∧ ∀ q c, s.queue? n = some q → s.ctx? q.ctx = some c →
    let d := (w.toNat + 2 ^ 32 - q.wr % 2 ^ 32) % 2 ^ 32
    let past := 2 ^ q.logn < (w.toNat + 2 ^ 32 - q.rd % 2 ^ 32) % 2 ^ 32
    (q.en = false ∨ q.err = true ∨ d = 0 ∨ 2 ^ 31 ≤ d ∨ s.ready = false ∨ s.heard c.port = false ∨ s.bellWay c.port n = false → After (.doorbell n w) s s) ∧
    (q.en = true → q.err = false → d ≠ 0 → d < 2 ^ 31 → s.ready = true → s.heard c.port = true → s.bellWay c.port n = true →
      (¬past → ∃ t, exec (.doorbell n w) s = .next t ∧ t.queue? n = some { q with wr := q.wr + d }) ∧
      (past → q.st ≠ .placing → (∀ p, q.pkt = some p → p.parent = none) → ∃ t, exec (.doorbell n w) s = .next t ∧
        t.queue? n = some { q with err := true, ecode := 3, pkt := none, tails := q.tails.filter (·.parent.isSome), st := .error }) ∧
      (past → ∀ p, q.pkt = some p → p.parent ≠ none → ∃ t, exec (.doorbell n w) s = .next t ∧
        t.queue? n = some { q with err := true, ecode := 3, tails := q.tails.filter (·.parent.isSome) }))) ∧
  (∀ (s : State) (n k : Nat) (q : Queue) (c : Ctx) (b : List Byte) (p : Pkt), s.queue? n = some q → s.ctx? q.ctx = some c → c.dead = false →
    q.pkt = none → q.st ≠ .placing → (s.faults.any fun a => a.owner == .packet n && !a.ended) = false →
    (q.tails = [] → q.en = true → q.err = false → q.wr ≠ q.rd → s.seqRead c n 0 (q.qbase + 64 * (q.rd % 2 ^ q.logn)) 64 = .ok b →
      s.checkPacket c q { bytes := b, addr := q.qbase + 64 * (q.rd % 2 ^ q.logn), root := q.rd, path := [q.rd] } = .ok (k, p) → p.parent = none →
      ∃ t, exec (.packetFetch n) s = .next t ∧
        (k = 0 → ∃ y m, t.queue? n = some y ∧ y.pkt = some { p with met := m } ∧ (y.st = .waiting ∨ y.st = .ready) ∧ y.rd = q.rd) ∧
        (k ≠ 0 → t.queue? n = some { q with err := true, ecode := k, pkt := none, st := .error })) ∧
    ∀ p0 l, q.tails = p0 :: l → s.checkPacket c q p0 = .ok (0, p) → ∃ t y m, exec (.packetFetch n) s = .next t ∧ t.queue? n = some y ∧
      y.pkt = some { p with met := m } ∧ y.tails = l ∧ y.rd = q.rd ∧ (y.st = .waiting ∨ y.st = .ready)) ∧
  (∀ (s : State) (n : Nat) (q : Queue) (p : Pkt) (c : Ctx), s.queue? n = some q → q.pkt = some p → s.ctx? q.ctx = some c → s.mayPick q = true →
    let k := field p.bytes 0 4
    ∃ t g y, exec (.packetSelect n) s = .next t ∧ t.grid? s.nextId = some g ∧ g.pkt = p ∧ g.ctx = q.ctx ∧ g.q = n ∧
      g.bind = q.bind ∧ g.priv = q.priv ∧ g.hkobj = q.hkobj ∧
      (g.placed = true ↔ ¬(k ≤ 1 ∨ k = 4)) ∧ t.queue? n = some y ∧ y.pkt = none ∧ y.rd = (if p.parent = none then q.rd + 1 else q.rd) ∧
      (k ≤ 1 ∨ k = 4 → y.st = .placing) ∧ t.jobs.length = s.jobs.length + (if k = 2 then 1 else 0)) ∧
  (∀ (s : State) (k : Nat) (g : Grid) (c : Ctx), s.grid? k = some g → s.ctx? g.ctx = some c →
    (g.placed = false → c.dead = false → c.hold = false → After (.ringPlace k) s (s.placeNext c g)) ∧
    (g.placed = true ∨ c.dead = true ∨ c.hold = true → After (.ringPlace k) s s) ∧
    (g.started = false → s.gridQuiet g = true → ∀ q, s.queueOf g = some q → ∃ t, exec (.tailChildStart k) s = .next t ∧
      t.grid? k = some { g with started := true, kids := g.pool.length, pool := [] } ∧ ∃ y, t.queue? g.q = some y ∧ y.rd = q.rd) ∧
    ∀ s1, c.dead = false → s.gridQuiet g = true → g.started = true → g.kids = 0 → (s.faults.any fun a => a.owner == .place k && !a.ended) = false →
      g.pkt.parent = none → (if field g.pkt.bytes 0 4 = 4 ∨ field g.pkt.bytes 384 64 = 0 then s1 = s
        else s.objWrite c (.place k) 0 0 (field g.pkt.bytes 384 64) (leBytes 8 s.time) = .ok s1) →
      ∃ t, exec (.packetComplete k) s = .next t ∧ t.grids = s.grids.filter (·.id != k) ∧
        ∀ q, s.queueOf g = some q → q.comp = [] → q.done = g.pkt.root →
          (t.queue? g.q).map (fun y => (y.done, y.dts)) = some (q.done + 1, (s.arrive g.q).time)) ∧
  (∀ (s : State) (c : Ctx) (g : Grid), let x := g.kernel.1
    let head := g.kernel.2.1
    let kobj := g.kernel.2.2
    let dies := (if field g.pkt.bytes 0 4 = 4 then some c.dies else c.allowed g.pkt.bytes).getD []
    (x.rcores ≠ 0 →
      (s.fresh.2.placeRing c dies x head kobj (fun j => g.role s.nextId (g.ring * x.ppr + j)) = none → s.placeNext c g = s) ∧
      ∀ u, s.fresh.2.placeRing c dies x head kobj (fun j => g.role s.nextId (g.ring * x.ppr + j)) = some u → s.placeNext c g = u.ringPlaced g x.ppr ∧
        u.dev = s.dev ∧ ∀ j, j < x.ppr → ∃ h p, u.polder? h = some p ∧ s.polder? h = none ∧ p.pl = g.ring * x.ppr + j ∧ p.ring = s.nextId ∧
          p.grid = some g.id ∧ dies.contains p.die = true ∧ p.kcores.length = x.rcores ∧ p.kcores.contains p.core = true) ∧
    (x.rcores = 0 →
      let rid := if g.left = [] then s.nextId else g.rid
      let s1 := if g.left = [] then s.fresh.2 else s
      let left := if g.left = [] then List.range x.ppr else g.left
      let cores := (match g.octet with
        | some o => octetCores o
        | none => (octetsOf dies).flatMap octetCores).filter fun k => s.hasRoom k rid x (claims head)
      (cores = [] → s.placeNext c g = s) ∧
      (cores ≠ [] → left ≠ [] → (∀ k ∈ cores, ∀ j ∈ left, (s1.placeOn c k x head kobj (g.role rid (g.ring * x.ppr + j))).isSome = true) →
        let u := s.placeNext c g
        u.dev = s.dev ∧ ∃ k ∈ cores, ∃ j ∈ left, ∃ h p, u.polder? h = some p ∧ s.polder? h = none ∧ p.core = k ∧ p.ring = rid ∧
          p.pl = g.ring * x.ppr + j ∧ p.code = kobj + 256 ∧ p.queue = g.q ∧ p.grid = some g.id ∧ p.sys = g.priv ∧ p.spad = [] ∧
          p.fs = List.replicate (8 * x.ranks) (freshFasc x.hmask x.bars) ∧ (∀ y, y ≠ h → u.polder? y = s.polder? y) ∧
          ((∀ y ∈ left, y = j) → (u.grid? g.id).map (fun z => (z.ring, z.placed)) = some (g.ring + 1, decide (g.count ≤ (g.ring + 1) * x.ppr))) ∧
          ((∃ y ∈ left, y ≠ j) → (u.grid? g.id).map (fun z => (z.ring, z.left)) = some (g.ring, left.filter (· != j)))))) ∧
  (∀ (s : State) (k : Nat) (x : Pending) (c : Ctx), s.grid? k = none → s.pending.find? (·.id == k) = some x → s.ctx? x.ctx = some c → c.dead = false →
    c.hold = false → let sh := tmplShape (x.head.drop 64) (c.tring + 64 * x.tself)
    let r : Role := { queue := x.q, prio := 7, ring := s.nextId, sys := true, tself := some x.tself, target := x.target }
    let cores := ((octetsOf [x.die]).flatMap octetCores).filter fun k => s.hasRoom k s.nextId sh (claims x.head)
    (cores = [] → After (.ringPlace k) s s) ∧
    (cores ≠ [] → (∀ k ∈ cores, (s.fresh.2.placeOn c k sh x.head x.kobj r).isSome = true) → ∃ t h p, exec (.ringPlace k) s = .next t ∧
      t.polder? h = some p ∧ s.polder? h = none ∧ p.core ∈ cores ∧ p.sys = true ∧ p.tself = some x.tself ∧ p.htgt = x.target ∧ p.code = x.kobj + 256 ∧
      t.pending = s.pending.filter (·.id != x.id) ∧ t.dev = s.dev)) ∧
  (∀ (s t : State) (c : Ctx) (core kobj h : Nat) (x : Shape) (head : List Byte) (r : Role), s.placeOn c core x head kobj r = some (h, t) →
    ∃ p, t.polder? h = some p ∧ s.polder? h = none ∧ p.core = core ∧ p.ctx = c.c ∧ p.code = kobj + 256 ∧ p.spad = [] ∧ p.life = .running ∧
      p.halt = none ∧ p.fs = List.replicate (8 * x.ranks) (freshFasc x.hmask x.bars) ∧ p.bars = List.replicate x.bars { exparr := 8 * x.ranks } ∧
      (∀ k, k ≠ h → t.polder? k = s.polder? k) ∧ t.dev = s.dev) ∧
  (∀ (s u : State) (c : Ctx) (g : Grid) (n core : Nat) (recs : List GRec), s.placeNode c g n core recs = some u →
    let rs := nodeRsize (g.node n)
    ∃ h p, u.polder? h = some p ∧ s.polder? h = none ∧ p.core = core ∧ p.node = some n ∧ p.nrec = recs.length ∧ p.rsize = rs ∧
      p.grid = some g.id ∧ p.sys = g.priv ∧ p.depth = recs.foldl (fun d r => max d r.depth) 0 ∧ p.tags = recs.filterMap (·.tag) ∧ u.dev = s.dev ∧
      ((∀ r ∈ recs, r.bytes.length = rs) → p.spad.readN 0 (rs * recs.length) = recs.flatMap (·.bytes))) ∧
  (∀ (s : State) (c : Ctx) (g : Grid) (b : Bin), let v := c.vdie (dieOf b.core)
    (c.hold = false → ∀ u, s.placeNode c g b.node b.core b.recs = some u → s.fire c g b = u.setBin { b with recs := [] }) ∧
    (c.hold = true ∨ s.placeNode c g b.node b.core b.recs = none → ∀ u l, s.spillAll c g b.node v b.recs = (u, l) →
      s.fire c g b = (u.setBin { b with recs := l }).trimBins b.grid b.core ∧ (∃ k, l = b.recs.drop k) ∧
      (l = [] → (u.spill? g.id b.node v).held.map (fun y => (y.1, y.2.2)) =
        ((s.spill? g.id b.node v).held.map fun y => (y.1, y.2.2)) ++ b.recs.map fun r => (r.depth, r.tag))) ∧
    ∀ (r : GRec) (s1 s2 : State) (k : List Byte), let x := s.spill? g.id b.node v
      let o := Owner.spill g.id b.node v
      let base := partBase c (g.node b.node) v
      x.held.length < nodeParts c (g.node b.node) → (s.faults.any fun a => a.owner == o && !a.ended) = false → s.objRead c o 0 0 base 4 = .ok k →
      s.objWrite c o 0 8 (base + 64 + (nodeRsize (g.node b.node) + 16) * (leNat k % max 1 (nodeParts c (g.node b.node)))) (r.bytes ++ s.tagBytes r.tag) = .ok s1 →
      s1.objWrite c o 0 16 base (leBytes 4 ((leNat k + 1) % 2 ^ 32)) = .ok s2 →
      s.spillOne c g b.node v r = (s2.setSpill { x with held := x.held ++ [(r.depth, s2.time, r.tag)] }, true)) ∧
  (∀ (s s1 : State) (c : Nat) (x : Ctx) (q : Queue) (n : Notice) (l : List Notice), s.ctx? c = some x → x.evq = n :: l → x.dead = false →
    s.queues.find? (fun q => q.priv && q.ctx == c && q.st != .unbound) = some q → q.wr - q.rd < 2 ^ q.logn →
    s.gwrite x atHome 0 false 4 (q.qbase + 64 * (q.wr % 2 ^ q.logn)) (eventBytes c n) = .ok s1 → ∃ t, exec (.eventPacketWrite c) s = .next t ∧
      t.ctx? c = some { x with evq := l, evc := modAt x.evc (n.cls - 1) fun k => (k + 1) % 2 ^ 32 } ∧ (t.queue? q.q).map Queue.wr = some (q.wr + 1)) ∧
  (∀ (s : State) (core gid n : Nat) (g : Grid) (b : Bin) (c : Ctx), s.grid? gid = some g → s.bin? core gid n = some b → s.ctx? g.ctx = some c →
    c.dead = false → b.recs ≠ [] → After (.binTimerExpiry core gid n) s (if b.since + nodeTimer (g.node n) ≤ s.time ∨
      nodeCount (g.node n) ≤ b.recs.length then s.fire c g b else s)) ∧
  ∀ (s s1 : State) (i : Instr) (gid n v d : Nat) (g : Grid) (c : Ctx) (recs : List GRec), i = .spillwayPlace gid n v ∨ i = .spillwayTimerExpiry gid n v →
    s.grid? gid = some g → s.ctx? g.ctx = some c → c.dead = false → c.hold = false →
    (s.faults.any fun a => a.owner == .spill gid n v && !a.ended) = false →
    let held := (s.spill? gid n v).held
    (held = [] → After i s s) ∧
    (nodeCount (g.node n) ≤ held.length → s.takeSpill c g n v (nodeCount (g.node n)) = .ok (s1, recs) → c.pdie v = some d →
      (∃ k, dieOf k = d ∧ k / 8 / 8 = d ∧ s.hasRoom k s.nextId (nodeShape (g.node n)) (claims (g.pkt.heads.getD n [])) = true) →
      ∃ k, dieOf k = d ∧ After i s (((s1.placeNode c g n k recs).map (·.reserveBins g.id k)).getD s))

open Sys2Proof Sys2Proof.Machine Sys2Proof.Claims in
/-- Steps of a context and of inlet and outlet cores: trap delivery, save and restore, CSR rows, core instructions and exceptions (spec/15_context.md R372, spec/15_context.md R373, spec/15_context.md R375, spec/15_context.md R377, spec/15_context.md R384, spec/15_context.md R385, spec/15_context.md R388, spec/10_sluice.md R260, spec/10_sluice.md R262, spec/10_sluice.md R263). -/
def Obligations.TrapAndSaveSteps : Prop :=
  (∀ (s s1 : State) (h t : Nat) (p : Polder) (x : Halt) (c : Ctx), s.polder? h = some p → p.halt = some x → x.tself = none → s.ctx? p.ctx = some c →
    (List.range 256).find? (fun i => !c.recs.any (·.1 == i)) = some t → s.heldBy (.trap h) = none →
    s.gwrite c (pastFar p.die) 0 false 4 (c.tring + 64 * t) (trapRecord p x t) = .ok s1 →
    let s2 := (s1.setCtx { c with recs := c.recs ++ [(t, p.uid)] }).setPolder { p with halt := some { x with tself := some t } }
    (x.time = s.time → After (.trapDelivery h) s { s with beat := s.beat + 1 }) ∧
    (x.time ≠ s.time → p.sys = true ∨ c.tvec = 0 → After (.trapDelivery h) s (s2.notify 4 c.c 0 (c.tring + 64 * t) 0)) ∧
    ∀ b b' q q', x.time ≠ s.time → p.sys = false → c.tvec ≠ 0 → s1.gread c (pastFar p.die) 8 2 (c.tvec + 8 * x.code) 8 = .ok (b, q) → leNat b ≠ 0 → leNat b % 256 = 0 →
      isGlobal (leNat b) = true → s2.gread c (pastFar p.die) 16 9 (leNat b) 256 = .ok (b', q') → kernelBad b' = false → ∃ u n, exec (.trapDelivery h) s = .next u ∧
        u.pending = s1.pending ++ [⟨n, c.c, p.uid, t, p.die, p.queue, leNat b, b'⟩]) ∧
  (∀ (s : State) (h : Nat) (r : SaveReq) (p : Polder) (c : Ctx), s.polder? h = some p → p.stopReq = some r → s.ctx? p.ctx = some c → s.saves = [] →
    (p.life = .draining → After (.polderStopComplete h) s ((s.modPolder h fun p => { p with stopReq := none }).noTarget r)) ∧
    (p.life ≠ .draining → s.stopDone p = false → After (.polderStopComplete h) s s) ∧
    (p.life ≠ .draining → s.stopDone p = true → let s0 := s.passTo (s.beat + 1)
      let p' := { p.settle s0 with stopReq := none }
      let x := p'.sampled
      ∀ a q, s0.gread c (pastFar p.die) 0 2 r.img 8 = .ok (a, q) →
      let hd := x.imgHeader (field a 0 32) (field a 32 32) r.evict
      (field a 0 32 < imgNeed hd → ∀ s1 s2, (s0.setPolder p').gwrite c (pastFar p.die) 0 false 2 (r.img + 10) (leBytes 4 (imgNeed hd)) = .ok s1 →
        s1.setStat c p.die r.img 1 = .ok s2 → After (.polderStopComplete h) s (s2.endPriv r.h r.f r.g)) ∧
      (imgNeed hd ≤ field a 0 32 → let late := if r.evict then s0.lateList x else []
        ∀ s1, (s0.setPolder p').putImage c p.die r.img (joinSections hd (s0.sections x late)) (x.imgPoison hd) = .ok s1 →
        (r.evict = true → After (.polderStopComplete h) s ((s1.evict x r.img late).endPriv r.h r.f r.g) ∧ (s1.evict x r.img late).polder? x.h = none ∧
          ∃ z ∈ (s1.evict x r.img late).saved, z.img = r.img ∧ z.was = x.h ∧ z.beat = s1.beat) ∧
        (r.evict = false → ∃ t, exec (.polderStopComplete h) s = .next t ∧ ({ t with sampled := s1.sampled } : State) = (s1.endPriv r.h r.f r.g).idle)))) ∧
  (∀ (s s1 s2 : State) (k core i : Nat) (r : Restore) (c : Ctx) (z : Saved) (ks : List Nat) (ranks : List (Nat × Nat)) (hd b : List Byte) (cw : List Word)
    (q q' : Bool),
    s.restores.find? (·.id == k) = some r → s.ctx? r.ctx = some c → s.saved? r.z = some z → s.restoreCore c z.p = some (core, ks, s1) →
    s.restoreRanks core z.p = some ranks → (List.range 512).find? (fun i => (s.polder? (512 * core + i)).isNone) = some i →
    s.readCw c (dieOf core) z.p.cwin z.p.cwlen = some cw → s.gread c (pastFar (dieOf core)) 0 10 r.img 256 = .ok (hd, q) →
    s.gread c (pastFar (dieOf core)) 16 (field hd 80 32 / 32 + 2) r.img (field hd 80 32) = .ok (b, q') →
    s.gwrite c (pastFar (dieOf core)) 2 false 2 (r.img + 4) (leBytes 4 (512 * core + i)) = .ok s2 → ∃ t, exec (.restorePlace k) s = .next t ∧
      (∀ y ∈ t.restores, y.id ≠ k) ∧ ((t.polder? (512 * core + i)).isSome = true ∨ (t.ctx? r.ctx).map Ctx.dead = some true)) ∧
  (∀ (s : State) (k : Nat) (r : Restore), s.restores.find? (·.id == k) = some r → s.saved? r.z = none →
    After (.restorePlace k) s ({ s with restores := s.restores.filter (·.id != k) }.endPriv r.h r.f r.g)) ∧
  (∀ (s : State) (c q : Nat) (x : Ctx) (w : Word), s.ctx? c = some x → x.c = c →
    (∃ t, exec (.quotaWrite c w) s = .next t ∧ t.ctx? c = some { x with quota := w &&& 0x01FFFFFF }) ∧
    (∃ t, exec (.ctxholdHold c) s = .next t ∧ t.ctx? c = some { x with hold := true }) ∧
    (∃ t, exec (.ctxholdRelease c) s = .next t ∧ t.ctx? c = some { x with hold := false }) ∧
    (∃ t, exec (.dbgctlWrite c w) s = .next t ∧ t.ctx? c = some { x with dbg := w.toNat % 8 }) ∧
    (∀ d p, s.queue? q = none → s.gread x atHome 0 3 (x.qtab + 64 * q) 64 = .ok (d, p) → queueBad c d = false → flag d 72 = false →
      ∃ t y, exec (.csrQbindBind c q) s = .next t ∧ (t.ctx? c).map Ctx.qbstat = some 0 ∧ t.queue? q = some y ∧ y.ctx = c ∧ y.st = .idle ∧
        y.qbase = field d 0 64 ∧ y.logn = field d 64 4 ∧ y.en = flag d 71 ∧ y.wr = 0 ∧ y.rd = 0 ∧ y.done = 0) ∧
    (∀ y, s.queue? q = some y → y.ctx = c → ∃ t, exec (.csrQbindUnbind c q) s = .next t ∧ (t.ctx? c).map Ctx.qbstat = some 0 ∧
      t.queues = s.queues.filter (·.q != q)) ∧
    ∀ m h p, s.polder? h = some p → p.ctx = c → p.die ∈ x.named m →
      (∃ t y, exec (.dbghaltHalt c m) s = .next t ∧ t.polder? h = some y ∧ y.dieHalt = true ∧ y.spad = p.spad) ∧
      ∃ t y, exec (.dbghaltResume c m) s = .next t ∧ t.polder? h = some y ∧ y.dieHalt = false ∧ y.spad = p.spad) ∧
  ∀ (s : State) (h k : Nat) (p : Polder) (c : IoCore) (v : Word), s.polder? h = some p → p.core? k = some c → c.k = k →
    let core (t : State) : Option IoCore := (t.polder? h).bind (·.core? k)
    (∀ x b q, c.run = 0 → s.ctx? p.ctx = some x → s.heldBy (.io h k) = none → s.gread x p.die 0 (c.len / 32 + 2) c.img c.len = .ok (b, q) →
      ∃ t, exec (.inletCoreStart h k) s = .next t ∧
        core t = some { c with imem := Memory.writeN [] 0 b, run := 1, mcycle := c.mcycle - BitVec.ofNat 64 s.beat }) ∧
    (c.run = 1 → s.dieDown p.die = false → c.pc.toNat + 4 ≤ 0x8000 → leNat (c.imem.readN c.pc.toNat 2) % 4 = 3 →
      let w := leNat (c.imem.readN c.pc.toNat 4)
      (∀ s' c', s.rvExec p c w 4 = .go s' c' → After (.inletCoreInstruction h k) s (s'.setCore h c')) ∧
      (w = 0x73 → ∃ t, exec (.inletCoreInstruction h k) s = .next t ∧ core t = some { c with run := 2 })) ∧
    (∀ cause tval, c.run = 1 → (c.mtvec ≠ 0 → ∃ t, exec (.inletCoreException h k cause tval) s = .next t ∧ core t = some { c with
        mepc := c.pc, mcause := cause, mtval := tval, pc := c.mtvec,
        mstatus := (c.mstatus &&& ~~~0x1888) ||| (if c.mstatus.getLsbD 3 then 0x1880 else 0x1800) }) ∧
      (c.mtvec = 0 → p.halt = none → p.life = .running → ∃ t y z, exec (.inletCoreException h k cause tval) s = .next t ∧
        core t = some { c with run := 2 } ∧ t.polder? h = some y ∧ y.life = .halted ∧ y.halt = some z ∧ z.code = 21)) ∧
    (∀ s' c', s.slgo p c v = some (s', c') → After (.slgoWrite h k v) s (s'.setCore h c')) ∧
    (∃ t, exec (.slklWrite h k v) s = .next t ∧ t.schains = s.schains.map fun y =>
      if y.iss.h = h ∧ y.iss.io = some k ∧ y.tok = v.toNat % 8 then { y with kill := true } else y) ∧
    (∃ t, exec (.mbpopWrite h k) s = .next t ∧ core t = some { c with ready := c.ready.drop 1 }) ∧
    ∃ t, exec (.timeloRead h k) s = .next t ∧ core t = some { c with timehi := BitVec.ofNat 32 (s.beat * 20 / 17 / 2 ^ 32) }

namespace Sys2Proof.Claims
open Sys2Proof.Machine

/-- The host commands: port, code and arguments (R405). -/
def commandOf : Instr → Option (Nat × Nat × List Nat)
  | .ctxact p c => some (p, 1, [c])
  | .ctxfree p c => some (p, 2, [c])
  | .qbindBind p c q => some (p, 3, [c, q])
  | .qbindUnbind p c q => some (p, 3, [c, q + 2 ^ 31])
  | .asgenCommand p a => some (p, 4, [a])
  | .faultend p c a => some (p, 5, [c, a])
  | .haltend p c t a => some (p, 6, [c, t, a])
  | .diereset p d => some (p, 7, [d])
  | _ => none

end Sys2Proof.Claims

open Sys2Proof Sys2Proof.Machine Sys2Proof.Claims in
/-- Steps of the host ports: memory reads and writes, commands and their completion, registers and notifications (spec/17_link.md R403, spec/17_link.md R404, spec/17_link.md R405, spec/17_link.md R406, spec/08_ordering.md R217, spec/08_ordering.md R220, spec/08_ordering.md R221, spec/15_context.md R366, spec/15_context.md R367, spec/18_start_trust.md R413). -/
def Obligations.HostPortSteps : Prop :=
  (∀ (s : State) (k x n : Nat) (rl : Bool) (b : List Byte) (p : Port), s.ports[k]? = some p → p.writes = [] →
    let new := sectorParts s.nextId rl (b.length / 32 + 2) x (b.take (deviceSize - x))
    (s.ready = false ∨ p.up = false ∨ new = [] → ∃ t, exec (.hostWrite ⟨k, x, rl⟩ b) s = .next t ∧ t.dev = s.dev ∧ t.polders = s.polders ∧
      (t.ports[k]?).map Port.writes = some []) ∧
    (s.ready = true → p.up = true → (∀ w ∈ new, s.portWay k (hostDie w.x) = true) → new ≠ [] → ∃ t, ∃ w ∈ new, exec (.hostWrite ⟨k, x, rl⟩ b) s = .next t ∧
      t.dev = Memory.writeN s.dev w.x w.bytes ∧ t.polders = s.polders ∧ (t.ports[k]?).map Port.writes = some (new.erase w)) ∧
    (s.ready = true → p.up = true → s.portWay k (hostDie x) = true → p.rd = none → n ≤ 32 - x % 32 → ∃ t, exec (.hostRead ⟨k, 1, x⟩ n) s = .next t ∧
      t.lastRead = s.dev.readN x n ∧ t.lastPois = s.poisoned x ∧ t.dev = s.dev) ∧
    (s.ready = false → p.up = true →
      ∃ t, exec (.hostRead ⟨k, 1, x⟩ n) s = .next t ∧ t.lastRead = List.replicate n 0 ∧ t.lastPois = false ∧ t.dev = s.dev) ∧
    (p.up = true → ∃ t, exec (.hostRead ⟨k, 0, 0x120⟩ 8) s = .next t ∧ t.dev = s.dev ∧
      t.lastRead = leBytes 4 0 ++ leBytes 4 ((if p.busy then 1 else 0) + 256 * p.result))) ∧
  (∀ (s : State) (i : Instr) (k code : Nat) (args : List Nat) (p : Port), commandOf i = some (k, code, args) → s.ports[k]? = some p →
    (p.busy = true ∨ p.up = false ∨ p.writes ≠ [] → After i s s) ∧
    (p.busy = false → p.up = true → p.writes = [] → ∃ t y z, exec i s = .next t ∧ t.ports[k]? = some y ∧ y.busy = true ∧ y.cmd = some z ∧ z.code = code ∧
      y.args = (List.range 4).map (fun j => BitVec.ofNat 64 (args.getD j 0)) ∧ (s.ready = false → z.res = 2 ∧ t.ctxs = s.ctxs ∧ t.queues = s.queues ∧ t.gens = s.gens ∧ t.faults = s.faults))) ∧
  (∀ (s : State) (k c : Nat) (p : Port) (b : List Byte), s.ports[k]? = some p → p.busy = false → p.up = true → p.writes = [] → s.ready = true →
    c < 4096 → s.ctxbase ≠ 0 → s.dev.readN (s.ctxbase.toNat + 128 * c) 128 = b → ((ctxOf c 0 b).dies.any s.dieDown) = false →
    (s.ctx? c = none → descriptorBad b = false → ∃ t, exec (.ctxact k c) s = .next t ∧ t.ctx? c = some (ctxOf c k b) ∧
      ((t.ports[k]?).bind Port.cmd).map Cmd.res = some 0) ∧
    (s.ctx? c = none → descriptorBad b = true → ∃ t, exec (.ctxact k c) s = .next t ∧ t.ctxs = s.ctxs ∧
      ((t.ports[k]?).bind Port.cmd).map Cmd.res = some 1) ∧
    ∀ x, s.ctx? c = some x → x.port = k → (x.dies.any s.dieDown) = false → ∃ t, exec (.ctxfree k c) s = .next t ∧ t.ctx? c = none ∧
      (∀ q ∈ t.polders, q.ctx ≠ c) ∧ (∀ h p, s.polder? h = some p → p.ctx = c → ∃ q, t.polder? h = some q ∧ q.life = .draining ∧ q.ctx = noCtx) ∧
      t.queues = s.queues.filter (·.ctx != c) ∧ ((t.ports[k]?).bind Port.cmd).map Cmd.res = some 0) ∧
  (∀ (s : State) (i : Instr) (k code : Nat) (args : List Nat) (p : Port), commandOf i = some (k, code, args) → s.ports[k]? = some p → p.busy = false →
    p.up = true → p.writes = [] → s.ready = true →
    let s1 := (s.modPort k fun p => { p with args := (List.range 4).map fun j => BitVec.ofNat 64 (args.getD j 0) }).arrive (srcPort k)
    let ok (t : State) : Prop := exec i s = .next t ∧ ((t.ports[k]?).bind Port.cmd).map Cmd.res = some 0
    (∀ c q x d b, i = .qbindBind k c q → c < 4096 → q < 2 ^ 15 → s.ctx? c = some x → x.port = k → x.dead = false → (x.dies.any s.dieDown) = false →
      s.queue? q = none → s1.gread x atHome 0 3 (x.qtab + 64 * q) 64 = .ok (d, b) → queueBad c d = false →
      (flag d 72 = true → ∀ y ∈ s.queues, y.priv = true → y.ctx ≠ c) → ∃ t y, ok t ∧ t.queue? q = some y ∧ y.ctx = c ∧ y.st = .idle ∧
        y.qbase = field d 0 64 ∧ y.logn = field d 64 4 ∧ y.pmax = field d 68 3 ∧ y.en = flag d 71 ∧ y.priv = flag d 72 ∧ y.hkobj = field d 384 64 ∧
        y.wr = 0 ∧ y.rd = 0 ∧ y.done = 0 ∧ (t.ctx? c).map Ctx.qbstat = some 0) ∧
    (∀ c q x y, i = .qbindUnbind k c q → c < 4096 → q < 2 ^ 15 → s.ctx? c = some x → x.port = k → (x.dies.any s.dieDown) = false →
      s.queue? q = some y → y.ctx = c → ∃ t, ok t ∧ t.queues = s.queues.filter (·.q != q) ∧ (t.ctx? c).map Ctx.qbstat = some 0) ∧
    (∀ a, i = .asgenCommand k a → a < 2 ^ 32 → (s.ctxs.any (·.asid == a)) = true → (∀ x ∈ s.ctxs, x.asid = a → (x.dies.any s.dieDown) = false) →
      SMap.wf 0 s.gens = true → ∃ t, ok t ∧ t.gen a = (s.gen a + 1) % 2 ^ 24 ∧ (∀ j, j ≠ a → t.gen j = s.gen j) ∧
        ((t.ports[k]?).bind Port.cmd).map (fun z => (z.obj, z.gen)) = some (a, t.gen a)) ∧
    (∀ c va x, i = .faultend k c va → c < 4096 → va < 2 ^ 64 → va % 2 ^ 16 = 0 → s.ctx? c = some x → x.port = k → (x.dies.any s.dieDown) = false →
      ∃ t, ok t ∧ t.faults = s.faults.map fun f => if f.ctx = c ∧ f.va = va then { f with ended := true } else f) ∧
    (∀ c t act x u y, i = .haltend k c t act → c < 4096 → t < 256 → act < 4 → act ≠ 1 → s.ctx? c = some x → x.c = c → x.port = k →
      x.recs.find? (·.1 == t) = some (t, u) → s.byUid u = some y → s.polder? y.h = some y → y.halt.isSome = true → s.dieDown y.die = false →
      ∃ z q, ok z ∧ (z.ctx? c).map Ctx.recs = some (x.recs.filter (·.1 != t)) ∧ z.polder? y.h = some q ∧ q.halt = none ∧
        (act ≠ 2 → q.life = .running ∧ q.spad = y.spad) ∧ (act = 2 → y.live ≠ 0 → q.life = .draining)) ∧
    ∀ d, i = .diereset k d → d < 4 → s.dies.length = 4 → s.dieDown d = false → ∃ t, ok t ∧ t.dieDown d = true ∧ ∀ q ∈ t.polders, q.die ≠ d) ∧
  (∀ (s : State) (k : Nat) (p : Port), s.ports[k]? = some p →
    (∀ z, p.cmd = some z → (s.cmdDone z = true → ∃ t, exec (.commandComplete k) s = .next t ∧
        t.ports[k]? = some { p with busy := false, result := z.res, cmd := none }) ∧ (s.cmdDone z = false → After (.commandComplete k) s s)) ∧
    (p.up = true → p.writes = [] →
      (∃ t, exec (.tsloRead k) s = .next t ∧ t.lastRead = leBytes 4 (s.beat * 20 / 17 % 2 ^ 32) ∧
        t.ports[k]? = some { p with tshi := BitVec.ofNat 32 (s.beat * 20 / 17 / 2 ^ 32) }) ∧
      (∀ v, ∃ t, exec (.nrheadWrite k v) s = .next t ∧ t.ports[k]? = some { p with nrhead := v }) ∧
      (∀ v : DWord, ∃ t, exec (.registerWrite k 0x200 v) s = .next t ∧ t.ports[k]? = some { p with nrbase := v }) ∧
      (∀ v : DWord, ∃ t, exec (.registerWrite k 0x204 v) s = .next t ∧
        t.ports[k]? = some { p with nrbase := BitVec.ofNat 64 (v.toNat % 2 ^ 32 * 2 ^ 32 + p.nrbase.toNat % 2 ^ 32) }) ∧
      (∀ (v : DWord) j, j < 4 → ∃ t, exec (.registerWrite k (0x100 + 8 * j) v) s = .next t ∧ t.ports[k]? = some { p with args := setAt p.args j v }) ∧
      (∀ v : DWord, ∃ t, exec (.ctxbaseWrite ⟨k, v⟩) s = .next t ∧ t.ctxbase = (if s.ctxs = [] ∧ v.toNat % 2 ^ 19 = 0 then v else s.ctxbase)) ∧
      ∀ w : Word, ∃ t, exec (.pwrcapWrite ⟨k, w⟩) s = .next t ∧ t.pwrcap = (if 400 ≤ w.toNat ∧ w.toNat ≤ 700 then w.toNat else s.pwrcap)) ∧
    (∀ r l, p.wait = r :: l → p.nrlog ≠ 0 → p.up = true → (p.nrtail - p.nrhead).toNat < 2 ^ p.nrlog → ∃ t, exec (.notificationWrite k) s = .next t ∧
      t.host = Memory.writeN s.host (p.nrbase.toNat + 64 * (p.nrtail.toNat % 2 ^ p.nrlog)) (r.bytes p.lost) ∧ t.dev = s.dev ∧
      t.ports[k]? = some { p with nrtail := p.nrtail + 1, wait := l, lost := 0, msix := p.msix + 1 }) ∧
    (∃ t, exec (.hostPortDown k) s = .next t ∧ t.ports[k]? = some { p with up := false }) ∧
    ∃ t, exec (.hostPortTrained k) s = .next t ∧ t.ports[k]? = some { p with up := true })

open Sys2Proof Sys2Proof.Machine Sys2Proof.Claims in
/-- Steps of the package: die links, die and package resets, the side-band port, power and temperature, soft errors (spec/00_scope.md R22, spec/05_registers.md R128, spec/05_registers.md R130, spec/15_context.md R368, spec/17_link.md R407, spec/17_link.md R408, spec/17_link.md R409, spec/17_link.md R411, spec/18_start_trust.md R412, spec/18_start_trust.md R414 to R417). -/
def Obligations.PackageSteps : Prop :=
  (∀ (s : State) (l : Nat) (x : Link), s.links[l]? = some x →
    (∃ t, exec (.linkFlitRetry l) s = .next t ∧ t.links[l]? = some { x with retries := x.retries + 1 }) ∧
    (∃ t, exec (.linkRetrainStart l) s = .next t ∧ t.links[l]? = some { x with training := true }) ∧
    (x.training = true → ∃ t, exec (.linkRetrainEnd l) s = .next t ∧ t.links[l]? = some { x with training := false, fails := 0 } ∧
      ((s.ctxs.map Ctx.c).Nodup → ∀ c ∈ s.ctxs, s.ctx? c.c = some c →
        let told := c.dead = false ∧ c.hold = false ∧ (c.dies.contains (linkEnds l).1 = true ∨ c.dies.contains (linkEnds l).2 = true)
        (¬told → t.ctx? c.c = some c) ∧
        (told → c.evq.length < 64 → ∃ n, t.ctx? c.c = some { c with evq := c.evq ++ [n] } ∧ n.cls = 2 ∧ n.die = (linkEnds l).1 ∧ n.det = l ∧
          n.ts = (s.arrive (srcLink l)).time))) ∧
    (x.training = true → (x.fails < 2 → ∃ t, exec (.linkTrainFailure l) s = .next t ∧ t.links[l]? = some { x with fails := x.fails + 1 } ∧
      t.dies = s.dies) ∧ (2 ≤ x.fails → s.dies.length = 4 → ∃ t, exec (.linkTrainFailure l) s = .next t ∧ t.dieDown (linkEnds l).2 = true))) ∧
  (∀ (s : State) (d : Nat), d < s.dies.length →
    (∀ i, i = .dieReset d ∨ i = .thermalDieReset d ∨ (i = .sidebandDieReset d ∧ s.recov = false) → s.dieDown d = false →
      ∃ t, exec i s = .next t ∧ t.dieDown d = true ∧ (∀ p ∈ t.polders, p.die ≠ d)) ∧
    (s.dieDown d = true → s.recov = false → ∃ t, exec (.dieResetDone d) s = .next t ∧ t.dieDown d = false ∧
      t.ports = s.ports.map fun p => p.notify ⟨7, 0, 0, s.time, d, 0⟩)) ∧
  (∀ (s : State), s.reeve.writing = none →
    let ok := s.reeve.flash = none ∨ imageOk s.reeve.minVersion (imageBytes s.reeve.flash) = true
    ∀ i, i = .packageReset ∨ i = .sidebandPackageReset ∨ i = .powerLoss → ∃ t, exec i s = .next t ∧ (t.ready = true ↔ ok) ∧ (t.recov = true ↔ ¬ok) ∧
      t.beat = 0 ∧ t.dev = [] ∧ t.pois = [] ∧ t.ctxs = [] ∧ t.queues = [] ∧ t.polders = [] ∧ t.schains = [] ∧ t.jobs = [] ∧ t.ctxbase = 0 ∧
      t.pwrcap = 700 ∧ t.host = s.host ∧ t.peer = s.peer ∧ t.reeve.flash = s.reeve.flash ∧ t.reeve.minVersion = s.reeve.minVersion) ∧
  (∀ (s : State) (msg : List Byte) (n : Nat) (w : Word),
    let failed (t : State) : Option Bool := match s.path with
      | none => some t.reeve.replyErr
      | some k => (t.ports[k]?).map Port.doeErr
    (∃ t, exec (.mctpControl msg) s = .next t ∧ t.reeve.replyErr = false ∧ t.dev = s.dev ∧ t.ctxs = s.ctxs ∧ t.queues = s.queues) ∧
    (∃ t, exec (.spdmMessage msg) s = .next t ∧ failed t = some false ∧ t.dev = s.dev ∧ t.ctxs = s.ctxs ∧ t.queues = s.queues) ∧
    (∃ t, exec .telemetryRead s = .next t ∧ t.reeve.replyErr = false ∧ t.dev = s.dev ∧ t.ctxs = s.ctxs ∧ t.queues = s.queues) ∧
    (∃ t, exec (.spdmGetMeasurements n) s = .next t ∧ failed t = some (!decide (s.recov = false ∧ 1 ≤ n ∧ n ≤ 3)) ∧ t.dev = s.dev) ∧
    (∃ t, exec (.setPowerCap w) s = .next t ∧ (t.reeve.replyErr = false ↔ s.recov = false ∧ 400 ≤ w.toNat ∧ w.toNat ≤ 700) ∧
      t.pwrcap = (if s.recov = false ∧ 400 ≤ w.toNat ∧ w.toNat ≤ 700 then w.toNat else s.pwrcap)) ∧
    (∃ t, exec (.recoveryImageLoad msg) s = .next t ∧ (t.reeve.replyErr = false ↔ imageOk s.reeve.minVersion msg = true) ∧
      t.reeve.writing = (if imageOk s.reeve.minVersion msg = true then some msg else s.reeve.writing) ∧ t.dev = s.dev) ∧
    (∃ t, exec (.raiseMinVersion w) s = .next t ∧ s.reeve.minVersion ≤ t.reeve.minVersion ∧
      (t.reeve.replyErr = false ↔ s.recov = false ∧ w.toNat ≤ imageVersion (imageBytes s.reeve.running)) ∧
      (t.reeve.replyErr = false → t.reeve.minVersion = max s.reeve.minVersion w.toNat)) ∧
    After .powerWindow s s) ∧
  (∀ (s : State) (d : Nat) (x : Die), s.dies[d]? = some x →
    (∃ t, exec (.thermalThrottle d) s = .next t ∧ t.dies[d]? = some { x with throttled := true } ∧ t.dev = s.dev) ∧
    (∃ t, exec (.thermalThrottleEnd d) s = .next t ∧ t.dies[d]? = some { x with throttled := false } ∧ t.dev = s.dev) ∧
    ∃ t, exec (.softErrorCorrected d) s = .next t ∧ t.dies[d]? = some { x with corrected := x.corrected + 1 } ∧ t.dev = s.dev) ∧
  ∀ (s : State) (h i : Nat) (p : Polder) (f : Fascine), s.polder? h = some p → p.fs[i]? = some f →
    (∀ (n : Fin 160) (u : Fin 16) b, f.r.bind? n = some b → ∃ t y, exec (.softErrorUncorrectable (.vword h i n u)) s = .next t ∧
      t.fasc? h i = some y ∧ y.r.vpois n u = true ∧ ∀ k v, k ≠ n.val ∨ v ≠ u.val → y.r.vword k v = f.r.vword k v) ∧
    (∀ n : Fin 48, n.val < f.r.spois.length → ∃ t y, exec (.softErrorUncorrectable (.sreg h i n)) s = .next t ∧ t.fasc? h i = some y ∧
      y.r.spois[n.val]? = some true ∧ ∀ k, k ≠ n.val → y.r.s[k]? = f.r.s[k]?) ∧
    (∀ u : Fin 16, u.val < f.r.preds.length → ∃ t y, exec (.softErrorUncorrectable (.preds h i u)) s = .next t ∧ t.fasc? h i = some y ∧
      y.r.ppois.getLsbD u = true ∧ (∀ v, v ≠ u.val → y.r.preds.getD v 0 = f.r.preds.getD v 0) ∧ y.r.s = f.r.s ∧ y.r.vb = f.r.vb) ∧
    (∀ n : Fin 16, n.val < p.bpois.length → ∃ t q, exec (.softErrorUncorrectable (.breg h n)) s = .next t ∧ t.polder? h = some q ∧
      q.bpois[n.val]? = some true ∧ (∀ m, m ≠ n.val → q.bpois[m]? = p.bpois[m]?) ∧ q.breg = p.breg) ∧
    (∀ k, p.spad.wf = true → ∃ t q, exec (.softErrorUncorrectable (.scratch h k)) s = .next t ∧ t.polder? h = some q ∧
      (q.spRead (32 * k) 32).2 = true ∧ ∀ a, a < 32 * k ∨ 32 * k + 32 ≤ a → q.spad.read a = p.spad.read a) ∧
    (∀ e n k x, s.engine? h e = some (p, x) → n < x.slots.length → (x.slot n).mem.wf = true → ∃ t q y,
      exec (.softErrorUncorrectable (.slot h e n k)) s = .next t ∧ t.engine? h e = some (q, y) ∧ (y.slot n).poisonedAt (32 * k) 32 = true ∧
      ∀ a, a < 32 * k ∨ 32 * k + 32 ≤ a → (y.slot n).mem.read a = (x.slot n).mem.read a) ∧
    (∀ core k, ∃ t, exec (.softErrorUncorrectable (.l1 core k)) s = .next t ∧ (∀ c ∈ t.l1, ¬(c.owner = core ∧ c.x = 32 * k ∧ c.tgt < 3)) ∧
      t.dev = s.dev ∧ t.polders = s.polders) ∧
    (∀ d k, ∃ t, exec (.softErrorUncorrectable (.far d k)) s = .next t ∧ (∀ c ∈ t.far, c.owner = d → c.x = 32 * k → c.pois = true) ∧
      t.dev = s.dev ∧ t.polders = s.polders) ∧
    (∀ k, ∃ t, exec (.softErrorUncorrectable (.device k)) s = .next t ∧ t.poisoned (32 * k) = true ∧ t.polders = s.polders)

namespace Sys2Proof.Claims
open Sys2Proof.Machine

/-- The memories that a polder holds, its scratchpad and its operand slots, are in canonical form (R192, R268). -/
def polderCanonical (p : Polder) : Prop := p.spad.wf = true ∧ ∀ e ∈ p.engines, ∀ x ∈ e.slots, x.mem.wf = true

end Sys2Proof.Claims

namespace Sys2Proof.Claims
open Sys2Proof.Machine

/-- Every memory of the package is in canonical form, addresses strictly rising and no cell equal to what an unlisted one reads as: the three of the package, and those of every polder, placed or saved. -/
def memoriesCanonical (s : State) : Prop :=
  s.dev.wf = true ∧ s.host.wf = true ∧ s.peer.wf = true ∧ (∀ p ∈ s.polders, polderCanonical p) ∧ ∀ z ∈ s.saved, polderCanonical z.p

end Sys2Proof.Claims

open Sys2Proof Sys2Proof.Machine Sys2Proof.Claims in
/-- Every step keeps device, host and peer memory, the scratchpads and the operand slots in canonical form (spec/00_scope.md R3, spec/16_page.md R394, spec/17_link.md R404, spec/07_polder_ring.md R192, spec/11_operand_slot.md R268). -/
def Obligations.MemoriesStayCanonical : Prop :=
  (∀ (i : Instr) (s t : State), memoriesCanonical s → exec i s = .next t → memoriesCanonical t) ∧
  ∀ (s t : State), memoriesCanonical s → step s = .next t → memoriesCanonical t

open Sys2Proof Sys2Proof.Machine Sys2Proof.Claims in
/-- After reset nothing is bound or placed, memory reads 0, READY is 1, and the memories are canonical (spec/00_scope.md R22, spec/16_page.md R394, spec/18_start_trust.md R412, spec/18_start_trust.md R413, spec/17_link.md R405). -/
def Obligations.ResetState : Prop :=
  State.reset.beat = 0 ∧ State.reset.ready = true ∧ State.reset.recov = false ∧ State.reset.ctxbase = 0 ∧ State.reset.pwrcap = 700 ∧
    State.reset.ctxs = [] ∧ State.reset.queues = [] ∧ State.reset.polders = [] ∧ State.reset.schains = [] ∧ State.reset.jobs = [] ∧
    State.reset.rays = [] ∧ State.reset.walks = [] ∧ (∀ a, State.reset.dev.read a = 0) ∧ State.reset.pois = [] ∧
    (∀ d, State.reset.dieDown d = false) ∧ State.reset.dies.length = 4 ∧
    (∀ p ∈ State.reset.ports, p.up = true ∧ p.busy = false) ∧ memoriesCanonical State.reset
end

