-- ==== Sys2Proof/Laws/Codec.lean ====
section
/-! SUPPORT. Laws of the encodings: fields of a word, operand, predicate and compare bytes, and the pieces of immediates. -/
namespace Sys2Proof.Laws

/-- An operand's byte decodes to it (R39). -/
@[simp] theorem opnd_ofByte_toByte (o : Opnd) : Opnd.ofByte o.toByte = o := by
  cases o with
  | v n => revert n; decide +kernel
  | s n => revert n; decide +kernel
  | b n => revert n; decide +kernel
  | c n => revert n; decide +kernel
  | rsv n => revert n; decide +kernel
  | _ => decide +kernel

/-- A predicate byte decodes to its predicate (R37). -/
@[simp] theorem pred_ofByte_toByte (p : Pred) : Pred.ofByte p.toByte = p := by
  obtain ⟨n, i⟩ := p
  revert n i; decide
/-- A predicate byte is below 16 (R37). -/
@[simp] theorem pred_toByte_lt (p : Pred) : p.toByte.toNat < 16 := by
  obtain ⟨n, i⟩ := p
  revert n i; decide
/-- A predicate destination's byte decodes to it (R144). -/
@[simp] theorem predOf_predByte (p : Fin 8) : predOf (predByte p) = p := by revert p; decide
/-- A predicate destination's byte is below 8. -/
@[simp] theorem predByte_lt (p : Fin 8) : (predByte p).toNat < 8 := by revert p; decide
/-- A compare destination's byte decodes to it (R37, R38). -/
@[simp] theorem pcc_ofByte_toByte (k : Pcc) : Pcc.ofByte k.toByte = k := by
  obtain ⟨k, c, p⟩ := k
  revert p
  cases k <;> cases c <;> decide

/-- The three bytes of a 24-bit immediate are the immediate (R36). -/
@[simp] theorem bytes24 (i : BitVec 24) : top8 i ++ mid8 i ++ low8 i = i := by
  apply BitVec.eq_of_getLsbD_eq
  intro k hk
  simp only [top8, mid8, low8, BitVec.getLsbD_append, BitVec.getLsbD_extractLsb']
  split
  · simp [*]
  · split
    · rename_i h1 h2
      simp only [h2, decide_true, Bool.true_and]; congr 1; omega
    · rename_i h1 h2
      have : k - 8 - 8 < 8 := by omega
      simp only [this, decide_true, Bool.true_and]; congr 1; omega
/-- The two bytes of a 16-bit immediate are the immediate (R36). -/
@[simp] theorem bytes16 (i : BitVec 16) : hi8 i ++ lo8 i = i := by
  apply BitVec.eq_of_getLsbD_eq
  intro k hk
  simp only [hi8, lo8, BitVec.getLsbD_append, BitVec.getLsbD_extractLsb']
  split
  · simp [*]
  · have : k - 8 < 8 := by omega
    simp only [this, decide_true, Bool.true_and]; congr 1; omega

/-- A literal of n ≤ 8 bits fits its byte, and comes back from it. -/
theorem fits_lt {n : Nat} (x : BitVec n) (k : Nat) (h : 2 ^ n ≤ k) : (x.setWidth 8).toNat < k := by
  rw [BitVec.toNat_setWidth]
  exact Nat.lt_of_le_of_lt (Nat.mod_le _ _) (Nat.lt_of_lt_of_le x.isLt h)
@[simp] theorem fits_back {n : Nat} (x : BitVec n) (h : n ≤ 8) : (x.setWidth 8).setWidth n = x := by
  rw [BitVec.setWidth_setWidth_of_le _ h]; simp

/-- A literal of n bits is below every bound that 2^n does not pass, in a wider field too. -/
theorem bit_mod_le (x : BitVec 1) (m : Nat) : x.toNat % m ≤ 1 := Nat.le_trans (Nat.mod_le _ _) (by have := x.isLt; omega)
theorem lit_mod_lt {n : Nat} (x : BitVec n) (m k : Nat) (h : 2 ^ n ≤ k) : x.toNat % m < k :=
  Nat.lt_of_le_of_lt (Nat.mod_le _ _) (Nat.lt_of_lt_of_le x.isLt h)

/-- The four counts of WAITC (R175). -/
@[simp] theorem waitc_fields (l s c t : BitVec 6) :
    (t ++ c ++ s ++ l).extractLsb' 0 6 = l ∧ (t ++ c ++ s ++ l).extractLsb' 6 6 = s ∧
      (t ++ c ++ s ++ l).extractLsb' 12 6 = c ∧ (t ++ c ++ s ++ l).extractLsb' 18 6 = t := by
  refine ⟨?_, ?_, ?_, ?_⟩ <;>
  · apply BitVec.eq_of_getLsbD_eq
    intro k hk
    simp only [BitVec.getLsbD_append, BitVec.getLsbD_extractLsb', hk, decide_true, Bool.true_and]
    repeat' split
    all_goals first | omega | (congr 1; omega) | rfl

/-- The kind and the scope of FENCE. -/
@[simp] theorem fence_fields (k : BitVec 2) (s : BitVec 3) :
    ((k ++ s).setWidth 24).extractLsb' 3 2 = k ∧ ((k ++ s).setWidth 24).extractLsb' 0 3 = s := by
  refine ⟨?_, ?_⟩ <;>
  · apply BitVec.eq_of_getLsbD_eq
    intro i hi
    simp only [BitVec.getLsbD_append, BitVec.getLsbD_extractLsb', BitVec.getLsbD_setWidth, hi, decide_true, Bool.true_and]
    repeat' split
    all_goals first | omega | (simp; omega) | (simp [show i < 24 by omega, show i + 3 < 24 by omega, Nat.add_comm 3 i]) | simp [show i < 24 by omega]

/-- The fields of a word that is put together from them (R36). -/
theorem fields_append (op a b c : Byte) :
    opcodeOf (op ++ a ++ b ++ c) = op ∧ fieldA (op ++ a ++ b ++ c) = a ∧ fieldB (op ++ a ++ b ++ c) = b ∧ fieldC (op ++ a ++ b ++ c) = c := by
  refine ⟨?_, ?_, ?_, ?_⟩ <;>
  · apply BitVec.eq_of_getLsbD_eq
    intro k hk
    simp only [opcodeOf, fieldA, fieldB, fieldC, BitVec.getLsbD_append, BitVec.getLsbD_extractLsb', hk, decide_true, Bool.true_and]
    repeat' split
    all_goals first | omega | (congr 1; omega) | rfl
/-- A word is put together from its fields. -/
theorem word_of_fields (w : Word) : opcodeOf w ++ fieldA w ++ fieldB w ++ fieldC w = w := by
  apply BitVec.eq_of_getLsbD_eq
  intro k hk
  simp only [opcodeOf, fieldA, fieldB, fieldC, BitVec.getLsbD_append, BitVec.getLsbD_extractLsb']
  repeat' split
  all_goals first
    | (simp only [*, decide_true, Bool.true_and]; congr 1; omega)
    | (have : k - 8 - 8 - 8 < 8 := by omega
       simp only [this, decide_true, Bool.true_and]; congr 1; omega)

/-- What the fields decode to, the word decodes to (R36). -/
theorem decode_fields {op a b c : Byte} {i : Instr} (h : decodeFields op a b c = some i) : decode (op ++ a ++ b ++ c) = i := by
  obtain ⟨h1, h2, h3, h4⟩ := fields_append op a b c
  simp only [decode, h1, h2, h3, h4, h]

end Sys2Proof.Laws
end

