-- ==== Sys2Proof/Laws/Issue.lean ====
section
/-! SUPPORT. Laws of issue: every instruction word issues with the fields of its form, and what `issue` answers in each
case of R59. -/
namespace Sys2Proof.Laws
open Sys2Proof.Machine

/-- Every instruction word issues with the fields of its form. -/
theorem form_issue {i : Instr} {d : V → Desc} (h : i.form = some d) :
    ∃ body : V → V → Mask → Res, ∀ s, exec i s = issue (i.turn s) d body := by
  cases i
  case cvt a b t =>
    cases h
    by_cases ht : 12 ≤ t.toNat
    · exact ⟨fun _ _ _ => .wait, fun s => by simp [exec, execCvt, ht, issue, Instr.turn]⟩
    · exact ⟨fun v => MIns.body { op := .cvt, a := a, b := some b, src := t.toNat }
        (MIns.desc { op := .cvt, a := a, b := some b, src := t.toNat } v) v, fun s => by simp [exec, execCvt, ht, member, issue, Instr.turn]⟩
  all_goals first
    | (cases h; done)
    | (cases h; exact ⟨_, fun s => rfl⟩)

/-- `issue` for a view that the latch names. -/
theorem issue_view {s : State} {v : V} {d : V → Desc} {body : V → V → Mask → Res} (hv : s.view = some v) :
    issue s d body = .next (v.issue (d v) body) := by simp [issue, hv]

/-- An earlier chain that must drain first holds the instruction back (R104). -/
theorem issue_blocked {v : V} {d : Desc} {body : V → V → Mask → Res} (hb : v.blocked d = true) :
    v.issue d body = v.endChain.delayed := by simp [V.issue, hb]

/-- Checks 3 to 5 of R59: the first that fails is the trap. -/
theorem issue_decodeTrap {v : V} {d : Desc} {body : V → V → Mask → Res} {t : Trap} (hb : v.blocked d = false)
    (h : (v.reads d).decodeTrap d = some t) : v.issue d body = v.trapsAs { t := t } := by
  simp only [V.reads] at h
  simp [V.issue, hb, h, V.trapsAs]

/-- An instruction that breaks the sequence of an open chain traps (R95). -/
theorem issue_breaks {v : V} {d : Desc} {body : V → V → Mask → Res} (h : v.decoded d = true) (hx : (v.reads d).breaks d = true) :
    v.issue d body = v.trapsAs { t := .chseq } := by
  simp only [V.decoded, V.reads, Bool.and_eq_true, Bool.not_eq_true', Option.isNone_iff_eq_none] at h hx
  simp [V.issue, h.1, h.2, hx, V.trapsAs]

/-- An instruction whose checks pass and that acts for no thread does nothing but issue (R42). -/
theorem issue_noThread {v : V} {d : Desc} {body : V → V → Mask → Res} (h : v.clean d = true) (ha : v.threads d = 0)
    (hm : d.member = false) : v.issue d body = ((v.reads d).finish (v.writes d) { d with log := false, wall := false } true).put := by
  simp only [V.clean, V.decoded, V.threads, V.reads, Bool.and_eq_true, Bool.not_eq_true', Option.isNone_iff_eq_none] at h ha
  obtain ⟨⟨⟨⟨h1, h2⟩, h3⟩, h4⟩, h5⟩ := h
  rw [ha] at h5
  simp only [V.issue, h1, h2, h3, h4, h5, ha, hm, V.reads, V.writes]
  rfl

/-- Where nothing of the issuer's threads is still to be performed and no SLSTAT of theirs is in flight, no fence and no acquire load
asks an access to wait. -/
theorem mustWait_of_quiet {v : V} (h : v.quiet = true) (ha : v.asking = false) : v.mustWait = false := by
  have no (l : List MemOp) (f : MemOp → Bool) (hl : l.all (fun o => !o.accesses) = true) : l.any (fun o => f o && o.accesses) = false := by
    simp only [List.any_eq_false, List.all_eq_true, Bool.not_eq_true', Bool.and_eq_true, not_and, Bool.not_eq_true] at *
    exact fun o ho _ => hl o ho
  have no' (l : List (Prior × MemOp)) (f : Prior × MemOp → Bool) (hl : l.all (fun x => !x.2.accesses) = true) :
      l.any (fun x => f x && x.2.accesses) = false := by
    simp only [List.any_eq_false, List.all_eq_true, Bool.not_eq_true', Bool.and_eq_true, not_and, Bool.not_eq_true] at *
    exact fun o ho _ => hl o ho
  simp only [V.quiet, Bool.and_eq_true] at h
  simp only [V.mustWait]
  rw [no _ _ h.1, no' _ _ h.2, ha]
  split
  · rfl
  · rw [no _ (fun o => decide (o.id < _) && o.reads) h.1, no' _ (fun x => (decide (0 < _) || decide (x.2.id < x.1.acq)) && x.2.reads) h.2]
    rfl

/-- An instruction that is ready: its body runs, and its answer decides the state. -/
theorem issue_ready {v : V} {d : Desc} {body : V → V → Mask → Res} (h : v.ready d = true) :
    v.issue d body =
      match body (v.reads d) (v.writes d) (v.threads d) with
      | .next w => v.done d w
      | .jump w => v.doneAt d w
      | .nextThen w k => k (v.done d w)
      | .hold w => v.begun d w
      | .trap t => if t.waits then v.delayed else v.trapped t
      | .trapAfter t => v.trappedAfter ((v.reads d).finish (v.writes d) d true) t
      | .again w => { w with f := { w.f with haz := v.f.haz, active := true } }.delayed
      | .wait => v.delayed
      | .busy => v.endChain.put := by
  simp only [V.ready, V.clean, V.decoded, V.threads, V.reads, Bool.and_eq_true, Bool.not_eq_true', Option.isNone_iff_eq_none,
    Bool.or_eq_true, bne_iff_ne, ne_eq] at h
  obtain ⟨⟨⟨⟨⟨h1, h2⟩, h3⟩, h4⟩, h5⟩, h6⟩ := h
  have h7 : ¬((v.elapse d (v.joins d)).acts d = 0 ∧ d.member = false) := by
    rintro ⟨a, b⟩
    rcases h6 with h | h
    · exact h a
    · simp [b] at h
  simp only [V.issue, h1, h2, h3, h4, h5, V.reads, V.writes, V.threads, V.done, V.doneAt, V.begun, Bool.and_eq_true, decide_eq_true_eq,
    Bool.not_eq_true', h7, Bool.false_eq_true, if_false]
  try rfl

/-- The body of an instruction that issues and is ready. -/
theorem exec_ready {i : Instr} {s : State} {v : V} {d : V → Desc} {body : V → V → Mask → Res} (hi : ∀ s, exec i s = issue s d body)
    (hv : s.view = some v) : exec i s = .next (v.issue (d v) body) := by rw [hi, issue_view hv]

end Sys2Proof.Laws
end

