-- ==== Sys2Proof/Laws/Memory.lean ====
section
/-! SUPPORT. Laws of the sparse maps and of memory: a read after a write, every other place unchanged, and the canonical
form, which every memory operation keeps. -/
namespace Sys2Proof.Laws
open Sys2Proof.Machine

/-! ## Sparse maps -/

theorem SMap.wfFrom_mono {α : Type} [DecidableEq α] {d : α} {m : SMap α} {a b : Nat} (h : a ≤ b) (hw : SMap.wfFrom d b m = true) :
    SMap.wfFrom d a m = true := by
  cases m with
  | nil => rfl
  | cons x m =>
    obtain ⟨k, v⟩ := x
    simp only [SMap.wfFrom, Bool.and_eq_true, decide_eq_true_eq] at hw ⊢
    exact ⟨⟨by omega, hw.1.2⟩, hw.2⟩

/-- A key below every listed one reads the default. -/
theorem SMap.get_low {α : Type} [DecidableEq α] {d : α} {m : SMap α} {lo a : Nat} (hw : SMap.wfFrom d lo m = true) (h : a < lo) :
    SMap.get d m a = d := by
  cases m with
  | nil => rfl
  | cons x m =>
    obtain ⟨k, v⟩ := x
    simp only [SMap.wfFrom, Bool.and_eq_true, decide_eq_true_eq] at hw
    have : ¬k = a := by omega
    have : a < k := by omega
    simp [SMap.get, *]

/-- A store keeps the canonical form. -/
theorem SMap.set_wfFrom {α : Type} [DecidableEq α] {d : α} {m : SMap α} {lo a : Nat} (x : α) (hw : SMap.wfFrom d lo m = true)
    (h : lo ≤ a) : SMap.wfFrom d lo (SMap.set d m a x) = true := by
  induction m generalizing lo with
  | nil =>
    by_cases hx : x = d <;> simp [SMap.set, SMap.wfFrom, hx, h]
  | cons y m ih =>
    obtain ⟨k, v⟩ := y
    simp only [SMap.wfFrom, Bool.and_eq_true, decide_eq_true_eq, Bool.not_eq_true', decide_eq_false_iff_not] at hw
    obtain ⟨⟨hk, hv⟩, hm⟩ := hw
    simp only [SMap.set]
    split
    · rename_i hka
      split
      · exact SMap.wfFrom_mono (by omega) hm
      · rename_i hx
        subst hka
        simp [SMap.wfFrom, hk, hx, hm]
    · split
      · rename_i hlt
        split
        · simp [SMap.wfFrom, hk, hv, hm]
        · rename_i hx
          simp [SMap.wfFrom, h, hx, hv, hm, show a + 1 ≤ k by omega]
      · simp [SMap.wfFrom, hk, hv, ih hm (by omega : k + 1 ≤ a)]

/-- A read of the key that was stored. -/
theorem SMap.get_set_same {α : Type} [DecidableEq α] {d : α} {m : SMap α} {lo a : Nat} (x : α) (hw : SMap.wfFrom d lo m = true) :
    SMap.get d (SMap.set d m a x) a = x := by
  induction m generalizing lo with
  | nil => by_cases hx : x = d <;> simp [SMap.set, SMap.get, hx]
  | cons y m ih =>
    obtain ⟨k, v⟩ := y
    simp only [SMap.wfFrom, Bool.and_eq_true, decide_eq_true_eq] at hw
    obtain ⟨_, hm⟩ := hw
    simp only [SMap.set]
    split
    · rename_i hka
      split
      · rename_i hx
        rw [SMap.get_low hm (by omega), hx]
      · simp [SMap.get]
    · rename_i hka
      split
      · rename_i hlt
        split
        · rename_i hx
          simp [SMap.get, hka, hlt, hx]
        · simp [SMap.get]
      · rename_i hlt
        simp [SMap.get, hka, hlt, ih hm]

/-- A read of another key. -/
theorem SMap.get_set_other {α : Type} [DecidableEq α] {d : α} {m : SMap α} {lo a b : Nat} (x : α) (hw : SMap.wfFrom d lo m = true)
    (h : b ≠ a) : SMap.get d (SMap.set d m a x) b = SMap.get d m b := by
  induction m generalizing lo with
  | nil =>
    have : ¬a = b := fun e => h e.symm
    by_cases hx : x = d <;> simp [SMap.set, SMap.get, hx, this]
  | cons y m ih =>
    obtain ⟨k, v⟩ := y
    simp only [SMap.wfFrom, Bool.and_eq_true, decide_eq_true_eq] at hw
    obtain ⟨_, hm⟩ := hw
    have hab : ¬a = b := fun e => h e.symm
    simp only [SMap.set]
    split
    · rename_i hka
      subst hka
      split
      · by_cases hb : b < k
        · simp [SMap.get, hab, hb, SMap.get_low hm (by omega : b < k + 1)]
        · simp [SMap.get, hab, hb]
      · simp [SMap.get, hab]
    · rename_i hka
      split
      · rename_i hlt
        split
        · rfl
        · by_cases hb : b < a
          · have : ¬k = b := by omega
            have : b < k := by omega
            simp [SMap.get, *]
          · simp [SMap.get, hab, hb]
      · simp only [SMap.get, ih hm]

/-! ## Memory -/

/-- A store keeps the canonical form (R3). -/
theorem Memory.write_wf {m : Memory} (a : Nat) (b : Byte) (h : m.wf = true) : (m.write a b).wf = true :=
  SMap.set_wfFrom b h (Nat.zero_le a)
/-- A byte reads back. -/
theorem Memory.read_write_same {m : Memory} (a : Nat) (b : Byte) (h : m.wf = true) : (m.write a b).read a = b :=
  SMap.get_set_same b h
/-- Every other byte is unchanged. -/
theorem Memory.read_write_other {m : Memory} {a c : Nat} (b : Byte) (h : m.wf = true) (hc : c ≠ a) : (m.write a b).read c = m.read c :=
  SMap.get_set_other b h hc

/-- Stores of several bytes keep the canonical form. -/
theorem Memory.writeN_wf {m : Memory} (a : Nat) (bs : List Byte) (h : m.wf = true) : (Memory.writeN m a bs).wf = true := by
  induction bs generalizing m a with
  | nil => exact h
  | cons b bs ih => exact ih (a + 1) (Memory.write_wf a b h)

/-- Bytes outside the stored ones are unchanged. -/
theorem Memory.read_writeN_outside {m : Memory} {a c : Nat} (bs : List Byte) (h : m.wf = true) (hc : c < a ∨ a + bs.length ≤ c) :
    (Memory.writeN m a bs).read c = m.read c := by
  induction bs generalizing m a with
  | nil => rfl
  | cons b bs ih =>
    simp only [List.length_cons] at hc
    simp only [Memory.writeN]
    rw [ih (Memory.write_wf a b h) (by omega), Memory.read_write_other b h (by omega)]

/-- Each stored byte reads back. -/
theorem Memory.read_writeN_inside {m : Memory} {a i : Nat} (bs : List Byte) (h : m.wf = true) (hi : i < bs.length) :
    (Memory.writeN m a bs).read (a + i) = bs[i] := by
  induction bs generalizing m a i with
  | nil => simp at hi
  | cons b bs ih =>
    simp only [Memory.writeN]
    cases i with
    | zero =>
      rw [Memory.read_writeN_outside bs (Memory.write_wf a b h) (by omega)]
      exact Memory.read_write_same a b h
    | succ i =>
      have := ih (a := a + 1) (i := i) (Memory.write_wf a b h) (by simpa using hi)
      rw [show a + (i + 1) = a + 1 + i by omega, this]
      rfl

/-! ## Memory in the package -/

/-- The three memories behind the targets of a page are canonical. -/
def MemWf (s : State) : Prop := s.dev.wf = true ∧ s.host.wf = true ∧ s.peer.wf = true

theorem memOf_wf {s : State} (t : Nat) (h : MemWf s) : (s.memOf t).wf = true := by
  unfold State.memOf; split
  · exact h.1
  · exact h.2.1
  · exact h.2.2
theorem setMem_wf {s : State} (t : Nat) {m : Memory} (h : MemWf s) (hm : m.wf = true) : MemWf (s.setMem t m) := by
  unfold State.setMem; split
  · exact ⟨hm, h.2.1, h.2.2⟩
  · exact ⟨h.1, hm, h.2.2⟩
  · exact ⟨h.1, h.2.1, hm⟩
/-- A state with other objects and the same memories. -/
theorem MemWf.same {s t : State} (h : MemWf s) (hd : t.dev = s.dev) (hh : t.host = s.host) (hp : t.peer = s.peer) : MemWf t := by
  unfold MemWf; rw [hd, hh, hp]; exact h

/-- A write at home keeps the memories canonical. -/
theorem writeHome_wf {s : State} (t x : Nat) (bs : List Byte) (d : Option Nat) (p : Bool) (h : MemWf s) : MemWf (s.writeHome t x bs d p) := by
  have := setMem_wf t h (Memory.writeN_wf x bs (memOf_wf t h))
  unfold State.writeHome
  dsimp only
  split <;> exact this.same rfl rfl rfl
/-- So does a polder's store. -/
theorem writeGlob_wf {s : State} (p : Polder) (t x : Nat) (bs : List Byte) (h : MemWf s) : MemWf (s.writeGlob p t x bs) :=
  (writeHome_wf t x bs (some p.die) false h).same rfl rfl rfl
/-- So does a write of the host that lands (R220). -/
theorem landHost_wf {s : State} (port : Nat) (h : MemWf s) : MemWf (s.landHost port) := by
  unfold State.landHost
  dsimp only
  split
  · exact h
  · split
    · exact (writeHome_wf 0 _ _ none false h).same rfl rfl rfl
    · exact h
/-- So does an engine's write to the global space. -/
theorem gwrite_wf (n : Nat) {s t : State} {c : Ctx} {d tag : Nat} {p : Bool} {va : Nat} {bs : List Byte} (h : MemWf s)
    (hw : s.gwrite c d tag p n va bs = .ok t) : MemWf t := by
  induction n generalizing s va bs with
  | zero => simp only [State.gwrite, Except.ok.injEq] at hw; exact hw ▸ h
  | succ n ih =>
    unfold State.gwrite at hw
    split at hw
    · simp only [Except.ok.injEq] at hw; exact hw ▸ h
    · split at hw
      · simp at hw
      · split at hw
        · simp at hw
        · exact ih (writeHome_wf _ _ _ _ _ h) hw
      · simp only [Except.ok.injEq] at hw; exact hw ▸ h

/-- A write at home changes the memories, the poison of device memory, the far copies and what the collective engines have
seen, and nothing else. -/
theorem writeHome_only (s : State) (t x : Nat) (bs : List Byte) (d : Option Nat) (p : Bool) :
    ∃ a b c q f k i, s.writeHome t x bs d p =
      { s with dev := a, host := b, peer := c, pois := q, far := f, colls := k, codes := i } := by
  unfold State.writeHome State.setMem
  dsimp only
  split <;> split <;> exact ⟨_, _, _, _, _, _, _, rfl⟩
/-- So does an engine's write to the global space. -/
theorem gwrite_only (n : Nat) {s t : State} {c : Ctx} {d tag : Nat} {p : Bool} {va : Nat} {bs : List Byte}
    (hw : s.gwrite c d tag p n va bs = .ok t) :
    ∃ a b e q f k i, t = { s with dev := a, host := b, peer := e, pois := q, far := f, colls := k, codes := i } := by
  induction n generalizing s va bs with
  | zero => simp only [State.gwrite, Except.ok.injEq] at hw; exact ⟨_, _, _, _, _, _, _, hw.symm⟩
  | succ n ih =>
    unfold State.gwrite at hw
    split at hw
    · simp only [Except.ok.injEq] at hw; exact ⟨_, _, _, _, _, _, _, hw.symm⟩
    · split at hw
      · simp at hw
      · split at hw
        · simp at hw
        · obtain ⟨_, _, _, _, _, _, _, h⟩ := ih hw
          obtain ⟨_, _, _, _, _, _, _, h'⟩ := writeHome_only s _ _ _ _ _
          rw [h'] at h
          exact ⟨_, _, _, _, _, _, _, h⟩
      · simp only [Except.ok.injEq] at hw; exact ⟨_, _, _, _, _, _, _, hw.symm⟩

/-- The write of a queue's descriptor changes those and what the queues hold of a write that is still owed, and nothing else. -/
theorem writeQueue_only (s : State) (q : Queue) :
    ∃ a b c p f k l i, s.writeQueue q =
      { s with dev := a, host := b, peer := c, pois := p, far := f, colls := k, codes := i, queues := l } := by
  have put (s : State) (x : Ctx) (q o : Nat) (bs : List Byte) : ∃ a b c p f k l i,
      s.queueBytes x q o bs = { s with dev := a, host := b, peer := c, pois := p, far := f, colls := k, codes := i, queues := l } := by
    unfold State.queueBytes
    split
    · rename_i h
      obtain ⟨_, _, _, _, _, _, _, h⟩ := gwrite_only _ h
      exact ⟨_, _, _, _, _, _, _, _, h⟩
    · split <;> exact ⟨_, _, _, _, _, _, _, _, rfl⟩
  unfold State.writeQueue
  split
  · exact ⟨_, _, _, _, _, _, _, _, rfl⟩
  · dsimp only
    obtain ⟨_, _, _, _, _, _, _, _, h1⟩ := put (s.owesQueue q.q false) _ q.q 9 _
    rw [h1]
    obtain ⟨_, _, _, _, _, _, _, _, h2⟩ := put _ _ q.q 12 _
    rw [h2]
    obtain ⟨_, _, _, _, _, _, _, _, h3⟩ := put _ _ q.q 32 _
    rw [h3]
    exact ⟨_, _, _, _, _, _, _, _, rfl⟩
/-- And the write of several. -/
theorem writeQueues_only (qs : List Queue) (s : State) :
    ∃ a b c p f k l i, qs.foldl State.writeQueue s =
      { s with dev := a, host := b, peer := c, pois := p, far := f, colls := k, codes := i, queues := l } := by
  induction qs generalizing s with
  | nil => exact ⟨_, _, _, _, _, _, _, _, rfl⟩
  | cons q qs ih =>
    obtain ⟨_, _, _, _, _, _, _, _, h⟩ := writeQueue_only s q
    obtain ⟨_, _, _, _, _, _, _, _, h'⟩ := ih (s.writeQueue q)
    rw [List.foldl_cons, h] at *
    exact ⟨_, _, _, _, _, _, _, _, h'⟩

/-- A polder's scratchpad stays canonical (R182). -/
theorem spWrite_wf {p : Polder} (o : Nat) (bs : List Byte) (q : Bool) (h : p.spad.wf = true) : (p.spWrite o bs q).spad.wf = true :=
  Memory.writeN_wf o bs h

/-- Memory at reset is canonical (R412). -/
theorem reset_memWf : MemWf State.reset := ⟨rfl, rfl, rfl⟩

end Sys2Proof.Laws
end

