-- ==== Sys2Proof/Laws/PerInstr.lean ====
section
/-! SUPPORT. The round trip of the encoding (R36), one lemma per constructor of Instr. -/
namespace Sys2Proof.Laws

/-- A well-formed step that has an instruction word is what its word decodes to. -/
def Roundtrip.Statement (i : Instr) : Prop := i.wellFormed = true → ∀ w : Word, encode i = some w → decode w = i

/-- From the fields of an encoding. -/
theorem roundtrip_fields {i : Instr} {op a b c : Byte} (he : encodeFields i = some (op, a, b, c)) (hd : decodeFields op a b c = some i) :
    Roundtrip.Statement i := by
  intro _ w hw
  simp only [encode, he, Option.map_some, Option.some.injEq] at hw
  exact hw ▸ decode_fields hd
/-- A step without a word. -/
theorem roundtrip_none {i : Instr} (he : encodeFields i = none) : Roundtrip.Statement i := by
  intro _ w hw
  simp [encode, he] at hw

theorem Roundtrip.nop : Roundtrip.Statement (.nop) := roundtrip_fields rfl (by simp [decodeFields, decode0])
theorem Roundtrip.bra (i : BitVec 24) : Roundtrip.Statement (.bra i) := roundtrip_fields rfl (by simp [decodeFields, decode0])
theorem Roundtrip.brc (p : Pred) (i : BitVec 16) : Roundtrip.Statement (.brc p i) := roundtrip_fields rfl (by simp [decodeFields, decode0])
theorem Roundtrip.dbnz (a : Opnd) (i : BitVec 16) : Roundtrip.Statement (.dbnz a i) := roundtrip_fields rfl (by simp [decodeFields, decode1])
theorem Roundtrip.brx (b : Opnd) : Roundtrip.Statement (.brx b) := roundtrip_fields rfl (by simp [decodeFields, decode0])
theorem Roundtrip.call (i : BitVec 24) : Roundtrip.Statement (.call i) := roundtrip_fields rfl (by simp [decodeFields, decode0])
theorem Roundtrip.callx (b : Opnd) : Roundtrip.Statement (.callx b) := roundtrip_fields rfl (by simp [decodeFields, decode0])
theorem Roundtrip.ret : Roundtrip.Statement (.ret) := roundtrip_fields rfl (by simp [decodeFields, decode0])
theorem Roundtrip.exit : Roundtrip.Statement (.exit) := roundtrip_fields rfl (by simp [decodeFields, decode0])
theorem Roundtrip.yield : Roundtrip.Statement (.yield) := roundtrip_fields rfl (by simp [decodeFields, decode0])
theorem Roundtrip.mode (i : BitVec 24) : Roundtrip.Statement (.mode i) := roundtrip_fields rfl (by simp [decodeFields, decode0])
theorem Roundtrip.modex (a : Opnd) (b : Opnd) (m : BitVec 8) : Roundtrip.Statement (.modex a b m) := roundtrip_fields rfl (by simp [decodeFields, decode0])
theorem Roundtrip.lit (a : Opnd) (i : BitVec 16) : Roundtrip.Statement (.lit a i) := roundtrip_fields rfl (by simp [decodeFields, decode0])
theorem Roundtrip.lith (a : Opnd) (i : BitVec 16) : Roundtrip.Statement (.lith a i) := roundtrip_fields rfl (by simp [decodeFields, decode0])
theorem Roundtrip.waitc (l : BitVec 6) (s : BitVec 6) (c : BitVec 6) (t : BitVec 6) : Roundtrip.Statement (.waitc l s c t) := roundtrip_fields rfl (by simp [decodeFields, decode0])
theorem Roundtrip.waitf (f : BitVec 12) : Roundtrip.Statement (.waitf f) := roundtrip_fields rfl (by simp [decodeFields, decode0, lit_mod_lt])
theorem Roundtrip.trap (i : BitVec 24) : Roundtrip.Statement (.trap i) := roundtrip_fields rfl (by simp [decodeFields, decode0])
theorem Roundtrip.bkpt (i : BitVec 24) : Roundtrip.Statement (.bkpt i) := roundtrip_fields rfl (by simp [decodeFields, decode1])
theorem Roundtrip.regroup (a : Opnd) (p : Pred) (k : BitVec 1) : Roundtrip.Statement (.regroup a p k) := roundtrip_fields rfl (by simp [decodeFields, decode1, lit_mod_lt, bit_mod_le])
theorem Roundtrip.qfill : Roundtrip.Statement (.qfill) := roundtrip_fields rfl (by simp [decodeFields, decode1])
theorem Roundtrip.demote : Roundtrip.Statement (.demote) := roundtrip_fields rfl (by simp [decodeFields, decode1])
theorem Roundtrip.sleep (n : BitVec 24) : Roundtrip.Statement (.sleep n) := roundtrip_fields rfl (by simp [decodeFields, decode1])
theorem Roundtrip.trapret : Roundtrip.Statement (.trapret) := roundtrip_fields rfl (by simp [decodeFields, decode1])
theorem Roundtrip.halt : Roundtrip.Statement (.halt) := roundtrip_fields rfl (by simp [decodeFields, decode1])
theorem Roundtrip.add (a : Opnd) (b : Opnd) (c : Opnd) : Roundtrip.Statement (.add a b c) := roundtrip_fields rfl (by simp [decodeFields, decode2])
theorem Roundtrip.sub (a : Opnd) (b : Opnd) (c : Opnd) : Roundtrip.Statement (.sub a b c) := roundtrip_fields rfl (by simp [decodeFields, decode2])
theorem Roundtrip.mul (a : Opnd) (b : Opnd) (c : Opnd) : Roundtrip.Statement (.mul a b c) := roundtrip_fields rfl (by simp [decodeFields, decode2])
theorem Roundtrip.mad (a : Opnd) (b : Opnd) (c : Opnd) : Roundtrip.Statement (.mad a b c) := roundtrip_fields rfl (by simp [decodeFields, decode2])
theorem Roundtrip.msb (a : Opnd) (b : Opnd) (c : Opnd) : Roundtrip.Statement (.msb a b c) := roundtrip_fields rfl (by simp [decodeFields, decode2])
theorem Roundtrip.nmad (a : Opnd) (b : Opnd) (c : Opnd) : Roundtrip.Statement (.nmad a b c) := roundtrip_fields rfl (by simp [decodeFields, decode2])
theorem Roundtrip.nmsb (a : Opnd) (b : Opnd) (c : Opnd) : Roundtrip.Statement (.nmsb a b c) := roundtrip_fields rfl (by simp [decodeFields, decode2])
theorem Roundtrip.min (a : Opnd) (b : Opnd) (c : Opnd) : Roundtrip.Statement (.min a b c) := roundtrip_fields rfl (by simp [decodeFields, decode2])
theorem Roundtrip.max (a : Opnd) (b : Opnd) (c : Opnd) : Roundtrip.Statement (.max a b c) := roundtrip_fields rfl (by simp [decodeFields, decode2])
theorem Roundtrip.abs (a : Opnd) (b : Opnd) : Roundtrip.Statement (.abs a b) := roundtrip_fields rfl (by simp [decodeFields, decode2])
theorem Roundtrip.neg (a : Opnd) (b : Opnd) : Roundtrip.Statement (.neg a b) := roundtrip_fields rfl (by simp [decodeFields, decode2])
theorem Roundtrip.div (a : Opnd) (b : Opnd) (c : Opnd) : Roundtrip.Statement (.div a b c) := roundtrip_fields rfl (by simp [decodeFields, decode2])
theorem Roundtrip.sqrt (a : Opnd) (b : Opnd) : Roundtrip.Statement (.sqrt a b) := roundtrip_fields rfl (by simp [decodeFields, decode2])
theorem Roundtrip.rcp (a : Opnd) (b : Opnd) : Roundtrip.Statement (.rcp a b) := roundtrip_fields rfl (by simp [decodeFields, decode2])
theorem Roundtrip.rsq (a : Opnd) (b : Opnd) : Roundtrip.Statement (.rsq a b) := roundtrip_fields rfl (by simp [decodeFields, decode2])
theorem Roundtrip.exp2 (a : Opnd) (b : Opnd) : Roundtrip.Statement (.exp2 a b) := roundtrip_fields rfl (by simp [decodeFields, decode2])
theorem Roundtrip.log2 (a : Opnd) (b : Opnd) : Roundtrip.Statement (.log2 a b) := roundtrip_fields rfl (by simp [decodeFields, decode3])
theorem Roundtrip.sin (a : Opnd) (b : Opnd) : Roundtrip.Statement (.sin a b) := roundtrip_fields rfl (by simp [decodeFields, decode3])
theorem Roundtrip.cos (a : Opnd) (b : Opnd) : Roundtrip.Statement (.cos a b) := roundtrip_fields rfl (by simp [decodeFields, decode3])
theorem Roundtrip.dot2 (a : Opnd) (b : Opnd) (c : Opnd) : Roundtrip.Statement (.dot2 a b c) := roundtrip_fields rfl (by simp [decodeFields, decode3])
theorem Roundtrip.dot4 (a : Opnd) (b : Opnd) (c : Opnd) : Roundtrip.Statement (.dot4 a b c) := roundtrip_fields rfl (by simp [decodeFields, decode3])
theorem Roundtrip.lerp (a : Opnd) (b : Opnd) (c : Opnd) : Roundtrip.Statement (.lerp a b c) := roundtrip_fields rfl (by simp [decodeFields, decode3])
theorem Roundtrip.clamp (a : Opnd) (b : Opnd) (c : Opnd) : Roundtrip.Statement (.clamp a b c) := roundtrip_fields rfl (by simp [decodeFields, decode3])
theorem Roundtrip.frac (a : Opnd) (b : Opnd) : Roundtrip.Statement (.frac a b) := roundtrip_fields rfl (by simp [decodeFields, decode3])
theorem Roundtrip.roundi (a : Opnd) (b : Opnd) : Roundtrip.Statement (.roundi a b) := roundtrip_fields rfl (by simp [decodeFields, decode3])
theorem Roundtrip.cvt (a : Opnd) (b : Opnd) (t : BitVec 4) : Roundtrip.Statement (.cvt a b t) := roundtrip_fields rfl (by simp [decodeFields, decode3, lit_mod_lt])
theorem Roundtrip.sat (a : Opnd) (b : Opnd) : Roundtrip.Statement (.sat a b) := roundtrip_fields rfl (by simp [decodeFields, decode3])
theorem Roundtrip.scale (a : Opnd) (b : Opnd) (c : Opnd) : Roundtrip.Statement (.scale a b c) := roundtrip_fields rfl (by simp [decodeFields, decode3])
theorem Roundtrip.cmp (k : Pcc) (b : Opnd) (c : Opnd) : Roundtrip.Statement (.cmp k b c) := roundtrip_fields rfl (by simp [decodeFields, decode3])
theorem Roundtrip.cmps (a : Opnd) (b : Opnd) (c : Opnd) : Roundtrip.Statement (.cmps a b c) := roundtrip_fields rfl (by simp [decodeFields, decode3])
theorem Roundtrip.sel (a : Opnd) (b : Opnd) (c : Opnd) : Roundtrip.Statement (.sel a b c) := roundtrip_fields rfl (by simp [decodeFields, decode3])
theorem Roundtrip.classT (a : Opnd) (b : Opnd) : Roundtrip.Statement (.classT a b) := roundtrip_fields rfl (by simp [decodeFields, decode3])
theorem Roundtrip.chopen (n : BitVec 3) : Roundtrip.Statement (.chopen n) := roundtrip_fields rfl (by simp [decodeFields, decode4, lit_mod_lt])
theorem Roundtrip.chdec (k : Pcc) (b : Opnd) (c : Opnd) : Roundtrip.Statement (.chdec k b c) := roundtrip_fields rfl (by simp [decodeFields, decode4])
theorem Roundtrip.chclose (a : Opnd) : Roundtrip.Statement (.chclose a) := roundtrip_fields rfl (by simp [decodeFields, decode4])
theorem Roundtrip.chcancel (p : Pred) : Roundtrip.Statement (.chcancel p) := roundtrip_fields rfl (by simp [decodeFields, decode4])
theorem Roundtrip.chstat (a : Opnd) (n : BitVec 2) : Roundtrip.Statement (.chstat a n) := roundtrip_fields rfl (by simp [decodeFields, decode4, lit_mod_lt])
theorem Roundtrip.and (a : Opnd) (b : Opnd) (c : Opnd) : Roundtrip.Statement (.and a b c) := roundtrip_fields rfl (by simp [decodeFields, decode5])
theorem Roundtrip.or (a : Opnd) (b : Opnd) (c : Opnd) : Roundtrip.Statement (.or a b c) := roundtrip_fields rfl (by simp [decodeFields, decode5])
theorem Roundtrip.xor (a : Opnd) (b : Opnd) (c : Opnd) : Roundtrip.Statement (.xor a b c) := roundtrip_fields rfl (by simp [decodeFields, decode5])
theorem Roundtrip.not (a : Opnd) (b : Opnd) : Roundtrip.Statement (.not a b) := roundtrip_fields rfl (by simp [decodeFields, decode5])
theorem Roundtrip.andn (a : Opnd) (b : Opnd) (c : Opnd) : Roundtrip.Statement (.andn a b c) := roundtrip_fields rfl (by simp [decodeFields, decode5])
theorem Roundtrip.shl (a : Opnd) (b : Opnd) (c : Opnd) : Roundtrip.Statement (.shl a b c) := roundtrip_fields rfl (by simp [decodeFields, decode5])
theorem Roundtrip.shr (a : Opnd) (b : Opnd) (c : Opnd) : Roundtrip.Statement (.shr a b c) := roundtrip_fields rfl (by simp [decodeFields, decode5])
theorem Roundtrip.sar (a : Opnd) (b : Opnd) (c : Opnd) : Roundtrip.Statement (.sar a b c) := roundtrip_fields rfl (by simp [decodeFields, decode5])
theorem Roundtrip.rol (a : Opnd) (b : Opnd) (c : Opnd) : Roundtrip.Statement (.rol a b c) := roundtrip_fields rfl (by simp [decodeFields, decode5])
theorem Roundtrip.popc (a : Opnd) (b : Opnd) : Roundtrip.Statement (.popc a b) := roundtrip_fields rfl (by simp [decodeFields, decode5])
theorem Roundtrip.clz (a : Opnd) (b : Opnd) : Roundtrip.Statement (.clz a b) := roundtrip_fields rfl (by simp [decodeFields, decode5])
theorem Roundtrip.ctz (a : Opnd) (b : Opnd) : Roundtrip.Statement (.ctz a b) := roundtrip_fields rfl (by simp [decodeFields, decode5])
theorem Roundtrip.brev (a : Opnd) (b : Opnd) : Roundtrip.Statement (.brev a b) := roundtrip_fields rfl (by simp [decodeFields, decode5])
theorem Roundtrip.bfe (a : Opnd) (b : Opnd) (c : Opnd) : Roundtrip.Statement (.bfe a b c) := roundtrip_fields rfl (by simp [decodeFields, decode5])
theorem Roundtrip.bfi (a : Opnd) (b : Opnd) (c : Opnd) : Roundtrip.Statement (.bfi a b c) := roundtrip_fields rfl (by simp [decodeFields, decode5])
theorem Roundtrip.prmt (a : Opnd) (b : Opnd) (s : BitVec 8) : Roundtrip.Statement (.prmt a b s) := roundtrip_fields rfl (by simp [decodeFields, decode5])
theorem Roundtrip.imulh (a : Opnd) (b : Opnd) (c : Opnd) : Roundtrip.Statement (.imulh a b c) := roundtrip_fields rfl (by simp [decodeFields, decode6])
theorem Roundtrip.lea (a : Opnd) (b : Opnd) (s : BitVec 5) : Roundtrip.Statement (.lea a b s) := roundtrip_fields rfl (by simp [decodeFields, decode6, lit_mod_lt])
theorem Roundtrip.addc (a : Opnd) (b : Opnd) (c : Opnd) : Roundtrip.Statement (.addc a b c) := roundtrip_fields rfl (by simp [decodeFields, decode6])
theorem Roundtrip.subb (a : Opnd) (b : Opnd) (c : Opnd) : Roundtrip.Statement (.subb a b c) := roundtrip_fields rfl (by simp [decodeFields, decode6])
theorem Roundtrip.movpPack (a : Opnd) : Roundtrip.Statement (.movpPack a) := roundtrip_fields rfl (by simp [decodeFields, decode6])
theorem Roundtrip.movpUnpack (b : Opnd) : Roundtrip.Statement (.movpUnpack b) := roundtrip_fields rfl (by simp [decodeFields, decode6])
theorem Roundtrip.pand (p : Fin 8) (q : Pred) (r : Pred) : Roundtrip.Statement (.pand p q r) := roundtrip_fields rfl (by simp [decodeFields, decode6])
theorem Roundtrip.por (p : Fin 8) (q : Pred) (r : Pred) : Roundtrip.Statement (.por p q r) := roundtrip_fields rfl (by simp [decodeFields, decode6])
theorem Roundtrip.pxor (p : Fin 8) (q : Pred) (r : Pred) : Roundtrip.Statement (.pxor p q r) := roundtrip_fields rfl (by simp [decodeFields, decode6])
theorem Roundtrip.pnot (p : Fin 8) (q : Pred) : Roundtrip.Statement (.pnot p q) := roundtrip_fields rfl (by simp [decodeFields, decode6])
theorem Roundtrip.pset (p : Fin 8) (v : BitVec 1) : Roundtrip.Statement (.pset p v) := roundtrip_fields rfl (by simp [decodeFields, decode6, lit_mod_lt, bit_mod_le])
theorem Roundtrip.isetp (k : Pcc) (b : Opnd) (c : Opnd) : Roundtrip.Statement (.isetp k b c) := roundtrip_fields rfl (by simp [decodeFields, decode6])
theorem Roundtrip.bmin (a : Opnd) (b : Opnd) (c : Opnd) : Roundtrip.Statement (.bmin a b c) := roundtrip_fields rfl (by simp [decodeFields, decode6])
theorem Roundtrip.mov (a : Opnd) (b : Opnd) : Roundtrip.Statement (.mov a b) := roundtrip_fields rfl (by simp [decodeFields, decode7])
theorem Roundtrip.movs (a : Opnd) (b : Opnd) (t : BitVec 4) : Roundtrip.Statement (.movs a b t) := roundtrip_fields rfl (by simp [decodeFields, decode7, lit_mod_lt])
theorem Roundtrip.movb (a : Opnd) (b : Opnd) : Roundtrip.Statement (.movb a b) := roundtrip_fields rfl (by simp [decodeFields, decode7])
theorem Roundtrip.blease (f : BitVec 6) : Roundtrip.Statement (.blease f) := roundtrip_fields rfl (by simp [decodeFields, decode7, lit_mod_lt])
theorem Roundtrip.shfl (a : Opnd) (b : Opnd) (c : Opnd) : Roundtrip.Statement (.shfl a b c) := roundtrip_fields rfl (by simp [decodeFields, decode7])
theorem Roundtrip.shflx (a : Opnd) (b : Opnd) (m : BitVec 4) : Roundtrip.Statement (.shflx a b m) := roundtrip_fields rfl (by simp [decodeFields, decode7, lit_mod_lt])
theorem Roundtrip.shflup (a : Opnd) (b : Opnd) (m : BitVec 4) : Roundtrip.Statement (.shflup a b m) := roundtrip_fields rfl (by simp [decodeFields, decode7, lit_mod_lt])
theorem Roundtrip.shfldn (a : Opnd) (b : Opnd) (m : BitVec 4) : Roundtrip.Statement (.shfldn a b m) := roundtrip_fields rfl (by simp [decodeFields, decode7, lit_mod_lt])
theorem Roundtrip.qswx (a : Opnd) (b : Opnd) : Roundtrip.Statement (.qswx a b) := roundtrip_fields rfl (by simp [decodeFields, decode7])
theorem Roundtrip.qswy (a : Opnd) (b : Opnd) : Roundtrip.Statement (.qswy a b) := roundtrip_fields rfl (by simp [decodeFields, decode7])
theorem Roundtrip.qswd (a : Opnd) (b : Opnd) : Roundtrip.Statement (.qswd a b) := roundtrip_fields rfl (by simp [decodeFields, decode7])
theorem Roundtrip.qbcast (a : Opnd) (b : Opnd) (q : BitVec 2) : Roundtrip.Statement (.qbcast a b q) := roundtrip_fields rfl (by simp [decodeFields, decode7, lit_mod_lt])
theorem Roundtrip.ddx (a : Opnd) (b : Opnd) : Roundtrip.Statement (.ddx a b) := roundtrip_fields rfl (by simp [decodeFields, decode7])
theorem Roundtrip.ddy (a : Opnd) (b : Opnd) : Roundtrip.Statement (.ddy a b) := roundtrip_fields rfl (by simp [decodeFields, decode7])
theorem Roundtrip.vote (a : Opnd) (p : Pred) (k : BitVec 2) : Roundtrip.Statement (.vote a p k) := roundtrip_fields rfl (by simp [decodeFields, decode7, lit_mod_lt])
theorem Roundtrip.matchT (a : Opnd) (b : Opnd) : Roundtrip.Statement (.matchT a b) := roundtrip_fields rfl (by simp [decodeFields, decode7])
theorem Roundtrip.scanf (a : Opnd) (b : Opnd) (o : BitVec 3) : Roundtrip.Statement (.scanf a b o) := roundtrip_fields rfl (by simp [decodeFields, decode8, lit_mod_lt])
theorem Roundtrip.redf (a : Opnd) (b : Opnd) (o : BitVec 3) : Roundtrip.Statement (.redf a b o) := roundtrip_fields rfl (by simp [decodeFields, decode8, lit_mod_lt])
theorem Roundtrip.voterk (a : Opnd) (p : Pred) (k : BitVec 2) : Roundtrip.Statement (.voterk a p k) := roundtrip_fields rfl (by simp [decodeFields, decode8, lit_mod_lt])
theorem Roundtrip.getsr (a : Opnd) (i : BitVec 16) : Roundtrip.Statement (.getsr a i) := roundtrip_fields rfl (by simp [decodeFields, decode8])
theorem Roundtrip.setsr (a : Opnd) (i : BitVec 16) : Roundtrip.Statement (.setsr a i) := roundtrip_fields rfl (by simp [decodeFields, decode8])
theorem Roundtrip.time (a : Opnd) (b : Opnd) : Roundtrip.Statement (.time a b) := roundtrip_fields rfl (by simp [decodeFields, decode8])
theorem Roundtrip.dieq (a : Opnd) (b : Opnd) (c : Opnd) : Roundtrip.Statement (.dieq a b c) := roundtrip_fields rfl (by simp [decodeFields, decode8])
theorem Roundtrip.capq (a : Opnd) (q : BitVec 8) : Roundtrip.Statement (.capq a q) := roundtrip_fields rfl (by simp [decodeFields, decode8])
theorem Roundtrip.ld (a : Opnd) (b : Opnd) (o : BitVec 8) : Roundtrip.Statement (.ld a b o) := roundtrip_fields rfl (by simp [decodeFields, decode9])
theorem Roundtrip.ld2 (a : Opnd) (b : Opnd) (o : BitVec 8) : Roundtrip.Statement (.ld2 a b o) := roundtrip_fields rfl (by simp [decodeFields, decode9])
theorem Roundtrip.ld4 (a : Opnd) (b : Opnd) (o : BitVec 8) : Roundtrip.Statement (.ld4 a b o) := roundtrip_fields rfl (by simp [decodeFields, decode9])
theorem Roundtrip.ldb (a : Opnd) (b : Opnd) (o : BitVec 8) : Roundtrip.Statement (.ldb a b o) := roundtrip_fields rfl (by simp [decodeFields, decode9])
theorem Roundtrip.ldb4 (a : Opnd) (b : Opnd) (o : BitVec 8) : Roundtrip.Statement (.ldb4 a b o) := roundtrip_fields rfl (by simp [decodeFields, decode9])
theorem Roundtrip.lda (a : Opnd) (b : Opnd) (o : BitVec 8) : Roundtrip.Statement (.lda a b o) := roundtrip_fields rfl (by simp [decodeFields, decode9])
theorem Roundtrip.st (a : Opnd) (b : Opnd) (o : BitVec 8) : Roundtrip.Statement (.st a b o) := roundtrip_fields rfl (by simp [decodeFields, decode9])
theorem Roundtrip.st2 (a : Opnd) (b : Opnd) (o : BitVec 8) : Roundtrip.Statement (.st2 a b o) := roundtrip_fields rfl (by simp [decodeFields, decode9])
theorem Roundtrip.st4 (a : Opnd) (b : Opnd) (o : BitVec 8) : Roundtrip.Statement (.st4 a b o) := roundtrip_fields rfl (by simp [decodeFields, decode9])
theorem Roundtrip.stl (a : Opnd) (b : Opnd) (o : BitVec 8) : Roundtrip.Statement (.stl a b o) := roundtrip_fields rfl (by simp [decodeFields, decode9])
theorem Roundtrip.lds (a : Opnd) (b : Opnd) (o : BitVec 8) : Roundtrip.Statement (.lds a b o) := roundtrip_fields rfl (by simp [decodeFields, decode9])
theorem Roundtrip.lds4 (a : Opnd) (b : Opnd) (o : BitVec 8) : Roundtrip.Statement (.lds4 a b o) := roundtrip_fields rfl (by simp [decodeFields, decode9])
theorem Roundtrip.sts (a : Opnd) (b : Opnd) (o : BitVec 8) : Roundtrip.Statement (.sts a b o) := roundtrip_fields rfl (by simp [decodeFields, decode9])
theorem Roundtrip.sts4 (a : Opnd) (b : Opnd) (o : BitVec 8) : Roundtrip.Statement (.sts4 a b o) := roundtrip_fields rfl (by simp [decodeFields, decode9])
theorem Roundtrip.ldc (a : Opnd) (b : Opnd) (o : BitVec 8) : Roundtrip.Statement (.ldc a b o) := roundtrip_fields rfl (by simp [decodeFields, decode9])
theorem Roundtrip.pref (b : Opnd) (o : BitVec 8) : Roundtrip.Statement (.pref b o) := roundtrip_fields rfl (by simp [decodeFields, decode9])
theorem Roundtrip.aadd (a : Opnd) (b : Opnd) (c : Opnd) : Roundtrip.Statement (.aadd a b c) := roundtrip_fields rfl (by simp [decodeFields, decodeA])
theorem Roundtrip.amin (a : Opnd) (b : Opnd) (c : Opnd) : Roundtrip.Statement (.amin a b c) := roundtrip_fields rfl (by simp [decodeFields, decodeA])
theorem Roundtrip.amax (a : Opnd) (b : Opnd) (c : Opnd) : Roundtrip.Statement (.amax a b c) := roundtrip_fields rfl (by simp [decodeFields, decodeA])
theorem Roundtrip.aand (a : Opnd) (b : Opnd) (c : Opnd) : Roundtrip.Statement (.aand a b c) := roundtrip_fields rfl (by simp [decodeFields, decodeA])
theorem Roundtrip.aor (a : Opnd) (b : Opnd) (c : Opnd) : Roundtrip.Statement (.aor a b c) := roundtrip_fields rfl (by simp [decodeFields, decodeA])
theorem Roundtrip.axor (a : Opnd) (b : Opnd) (c : Opnd) : Roundtrip.Statement (.axor a b c) := roundtrip_fields rfl (by simp [decodeFields, decodeA])
theorem Roundtrip.axch (a : Opnd) (b : Opnd) (c : Opnd) : Roundtrip.Statement (.axch a b c) := roundtrip_fields rfl (by simp [decodeFields, decodeA])
theorem Roundtrip.acas (a : Opnd) (b : Opnd) (c : Opnd) : Roundtrip.Statement (.acas a b c) := roundtrip_fields rfl (by simp [decodeFields, decodeA])
theorem Roundtrip.ainc (a : Opnd) (b : Opnd) (c : Opnd) : Roundtrip.Statement (.ainc a b c) := roundtrip_fields rfl (by simp [decodeFields, decodeA])
theorem Roundtrip.afadd (a : Opnd) (b : Opnd) (c : Opnd) : Roundtrip.Statement (.afadd a b c) := roundtrip_fields rfl (by simp [decodeFields, decodeA])
theorem Roundtrip.fence (k : BitVec 2) (s : BitVec 3) : Roundtrip.Statement (.fence k s) := roundtrip_fields rfl (by simp [decodeFields, decodeA, lit_mod_lt])
theorem Roundtrip.gather (a : Opnd) (b : Opnd) (c : Opnd) : Roundtrip.Statement (.gather a b c) := roundtrip_fields rfl (by simp [decodeFields, decodeA])
theorem Roundtrip.gather4 (a : Opnd) (b : Opnd) (c : Opnd) : Roundtrip.Statement (.gather4 a b c) := roundtrip_fields rfl (by simp [decodeFields, decodeA])
theorem Roundtrip.scatter (a : Opnd) (b : Opnd) (c : Opnd) : Roundtrip.Statement (.scatter a b c) := roundtrip_fields rfl (by simp [decodeFields, decodeA])
theorem Roundtrip.scatadd (a : Opnd) (b : Opnd) (c : Opnd) : Roundtrip.Statement (.scatadd a b c) := roundtrip_fields rfl (by simp [decodeFields, decodeA])
theorem Roundtrip.binit (a : Opnd) (b : Opnd) (n : BitVec 8) : Roundtrip.Statement (.binit a b n) := roundtrip_fields rfl (by simp [decodeFields, decodeB])
theorem Roundtrip.barr (n : BitVec 8) : Roundtrip.Statement (.barr n) := roundtrip_fields rfl (by simp [decodeFields, decodeB])
theorem Roundtrip.bexp (a : Opnd) (n : BitVec 8) : Roundtrip.Statement (.bexp a n) := roundtrip_fields rfl (by simp [decodeFields, decodeB])
theorem Roundtrip.bwait (n : BitVec 8) : Roundtrip.Statement (.bwait n) := roundtrip_fields rfl (by simp [decodeFields, decodeB])
theorem Roundtrip.btry (p : Fin 8) (n : BitVec 8) : Roundtrip.Statement (.btry p n) := roundtrip_fields rfl (by simp [decodeFields, decodeB])
theorem Roundtrip.bsync (n : BitVec 8) : Roundtrip.Statement (.bsync n) := roundtrip_fields rfl (by simp [decodeFields, decodeB])
theorem Roundtrip.bring (n : BitVec 8) : Roundtrip.Statement (.bring n) := roundtrip_fields rfl (by simp [decodeFields, decodeB])
theorem Roundtrip.sluice (a : Opnd) (b : Opnd) (k : BitVec 3) : Roundtrip.Statement (.sluice a b k) := roundtrip_fields rfl (by simp [decodeFields, decodeB, lit_mod_lt])
theorem Roundtrip.slstat (a : Opnd) (k : BitVec 3) : Roundtrip.Statement (.slstat a k) := roundtrip_fields rfl (by simp [decodeFields, decodeB, lit_mod_lt])
theorem Roundtrip.slkill (k : BitVec 3) : Roundtrip.Statement (.slkill k) := roundtrip_fields rfl (by simp [decodeFields, decodeB, lit_mod_lt])
theorem Roundtrip.coll (a : Opnd) (k : BitVec 3) : Roundtrip.Statement (.coll a k) := roundtrip_fields rfl (by simp [decodeFields, decodeB, lit_mod_lt])
theorem Roundtrip.cpys (a : Opnd) (b : Opnd) (c : Opnd) : Roundtrip.Statement (.cpys a b c) := roundtrip_fields rfl (by simp [decodeFields, decodeB])
theorem Roundtrip.osclaim (p : Fin 8) (n : BitVec 4) : Roundtrip.Statement (.osclaim p n) := roundtrip_fields rfl (by simp [decodeFields, decodeC, lit_mod_lt])
theorem Roundtrip.osrel (n : BitVec 4) : Roundtrip.Statement (.osrel n) := roundtrip_fields rfl (by simp [decodeFields, decodeC, lit_mod_lt])
theorem Roundtrip.osload (a : Opnd) (n : BitVec 4) : Roundtrip.Statement (.osload a n) := roundtrip_fields rfl (by simp [decodeFields, decodeC, lit_mod_lt])
theorem Roundtrip.mfmt (a : Opnd) (n : BitVec 2) : Roundtrip.Statement (.mfmt a n) := roundtrip_fields rfl (by simp [decodeFields, decodeC, lit_mod_lt])
theorem Roundtrip.mloop (a : Opnd) (b : Opnd) (n : BitVec 2) : Roundtrip.Statement (.mloop a b n) := roundtrip_fields rfl (by simp [decodeFields, decodeC, lit_mod_lt])
theorem Roundtrip.msparse (a : Opnd) (b : Opnd) (n : BitVec 2) : Roundtrip.Statement (.msparse a b n) := roundtrip_fields rfl (by simp [decodeFields, decodeC, lit_mod_lt])
theorem Roundtrip.mgust (a : Opnd) (b : Opnd) (n : BitVec 2) : Roundtrip.Statement (.mgust a b n) := roundtrip_fields rfl (by simp [decodeFields, decodeC, lit_mod_lt])
theorem Roundtrip.mdrain (a : Opnd) (b : Opnd) (n : BitVec 2) : Roundtrip.Statement (.mdrain a b n) := roundtrip_fields rfl (by simp [decodeFields, decodeC, lit_mod_lt])
theorem Roundtrip.mzero (b : Opnd) (n : BitVec 2) : Roundtrip.Statement (.mzero b n) := roundtrip_fields rfl (by simp [decodeFields, decodeC, lit_mod_lt])
theorem Roundtrip.mver (a : Opnd) (n : BitVec 2) : Roundtrip.Statement (.mver a n) := roundtrip_fields rfl (by simp [decodeFields, decodeC, lit_mod_lt])
theorem Roundtrip.mwait (b : Opnd) (n : BitVec 2) : Roundtrip.Statement (.mwait b n) := roundtrip_fields rfl (by simp [decodeFields, decodeC, lit_mod_lt])
theorem Roundtrip.mstep (a : Opnd) (n : BitVec 2) : Roundtrip.Statement (.mstep a n) := roundtrip_fields rfl (by simp [decodeFields, decodeC, lit_mod_lt])
theorem Roundtrip.mcbook (a : Opnd) (t : BitVec 1) : Roundtrip.Statement (.mcbook a t) := roundtrip_fields rfl (by simp [decodeFields, decodeC, lit_mod_lt, bit_mod_le])
theorem Roundtrip.trace (a : Opnd) (b : Opnd) (c : Opnd) : Roundtrip.Statement (.trace a b c) := roundtrip_fields rfl (by simp [decodeFields, decodeD])
theorem Roundtrip.tracea (a : Opnd) (b : Opnd) (c : Opnd) : Roundtrip.Statement (.tracea a b c) := roundtrip_fields rfl (by simp [decodeFields, decodeD])
theorem Roundtrip.build (a : Opnd) (k : BitVec 3) : Roundtrip.Statement (.build a k) := roundtrip_fields rfl (by simp [decodeFields, decodeD, lit_mod_lt])
theorem Roundtrip.refit (a : Opnd) (k : BitVec 3) : Roundtrip.Statement (.refit a k) := roundtrip_fields rfl (by simp [decodeFields, decodeD, lit_mod_lt])
theorem Roundtrip.sfence (a : Opnd) (b : Opnd) : Roundtrip.Statement (.sfence a b) := roundtrip_fields rfl (by simp [decodeFields, decodeD])
theorem Roundtrip.sready (p : Fin 8) (b : Opnd) (c : Opnd) : Roundtrip.Statement (.sready p b c) := roundtrip_fields rfl (by simp [decodeFields, decodeD])
theorem Roundtrip.genpin (b : Opnd) (c : Opnd) : Roundtrip.Statement (.genpin b c) := roundtrip_fields rfl (by simp [decodeFields, decodeD])
theorem Roundtrip.genunpin (b : Opnd) (c : Opnd) : Roundtrip.Statement (.genunpin b c) := roundtrip_fields rfl (by simp [decodeFields, decodeD])
theorem Roundtrip.march (a : Opnd) (b : Opnd) (c : Opnd) : Roundtrip.Statement (.march a b c) := roundtrip_fields rfl (by simp [decodeFields, decodeD])
theorem Roundtrip.mloc (a : Opnd) (b : Opnd) (c : Opnd) : Roundtrip.Statement (.mloc a b c) := roundtrip_fields rfl (by simp [decodeFields, decodeD])
theorem Roundtrip.sample (a : Opnd) (b : Opnd) (c : Opnd) : Roundtrip.Statement (.sample a b c) := roundtrip_fields rfl (by simp [decodeFields, decodeD])
theorem Roundtrip.gridset (a : Opnd) (n : BitVec 2) : Roundtrip.Statement (.gridset a n) := roundtrip_fields rfl (by simp [decodeFields, decodeD, lit_mod_lt])
theorem Roundtrip.compact (a : Opnd) (k : BitVec 3) : Roundtrip.Statement (.compact a k) := roundtrip_fields rfl (by simp [decodeFields, decodeD, lit_mod_lt])
theorem Roundtrip.launch (p : Fin 8) (b : Opnd) : Roundtrip.Statement (.launch p b) := roundtrip_fields rfl (by simp [decodeFields, decodeE])
theorem Roundtrip.nodeq (a : Opnd) (b : Opnd) (q : BitVec 8) : Roundtrip.Statement (.nodeq a b q) := roundtrip_fields rfl (by simp [decodeFields, decodeE])
theorem Roundtrip.binflush (b : Opnd) : Roundtrip.Statement (.binflush b) := roundtrip_fields rfl (by simp [decodeFields, decodeE])
theorem Roundtrip.qsigAdd (b : Opnd) : Roundtrip.Statement (.qsigAdd b) := roundtrip_fields rfl (by simp [decodeFields, decodeE])
theorem Roundtrip.qsigMax (b : Opnd) : Roundtrip.Statement (.qsigMax b) := roundtrip_fields rfl (by simp [decodeFields, decodeE])
theorem Roundtrip.qsigNotify (b : Opnd) : Roundtrip.Statement (.qsigNotify b) := roundtrip_fields rfl (by simp [decodeFields, decodeE])
theorem Roundtrip.csrr (a : Opnd) (i : BitVec 16) : Roundtrip.Statement (.csrr a i) := roundtrip_fields rfl (by simp [decodeFields, decodeF])
theorem Roundtrip.csrw (a : Opnd) (i : BitVec 16) : Roundtrip.Statement (.csrw a i) := roundtrip_fields rfl (by simp [decodeFields, decodeF])
theorem Roundtrip.savec (a : Opnd) (e : BitVec 1) : Roundtrip.Statement (.savec a e) := roundtrip_fields rfl (by simp [decodeFields, decodeF, lit_mod_lt, bit_mod_le])
theorem Roundtrip.restc (a : Opnd) : Roundtrip.Statement (.restc a) := roundtrip_fields rfl (by simp [decodeFields, decodeF])
theorem Roundtrip.dbglogSelect (b : Opnd) : Roundtrip.Statement (.dbglogSelect b) := roundtrip_fields rfl (by simp [decodeFields, decodeF])
theorem Roundtrip.dbglogDiscard (b : Opnd) : Roundtrip.Statement (.dbglogDiscard b) := roundtrip_fields rfl (by simp [decodeFields, decodeF])
theorem Roundtrip.dbglogWrite (b : Opnd) : Roundtrip.Statement (.dbglogWrite b) := roundtrip_fields rfl (by simp [decodeFields, decodeF])
theorem Roundtrip.undo (n : BitVec 8) : Roundtrip.Statement (.undo n) := roundtrip_fields rfl (by simp [decodeFields, decodeF])
theorem Roundtrip.asgen (b : Opnd) : Roundtrip.Statement (.asgen b) := roundtrip_fields rfl (by simp [decodeFields, decodeF])
theorem Roundtrip.evwait (a : Opnd) (k : BitVec 2) : Roundtrip.Statement (.evwait a k) := roundtrip_fields rfl (by simp [decodeFields, decodeF, lit_mod_lt])
theorem Roundtrip.unassignedOpcode (w : Word) : Roundtrip.Statement (.unassignedOpcode w) := by
  intro h x hx
  simp only [encode, encodeFields, Option.map_some, Option.some.injEq] at hx
  rw [← hx]
  exact (congrArg decode (word_of_fields w)).trans (of_decide_eq_true h)
theorem Roundtrip.reservedFieldWord (w : Word) : Roundtrip.Statement (.reservedFieldWord w) := by
  intro h x hx
  simp only [encode, encodeFields, Option.map_some, Option.some.injEq] at hx
  rw [← hx]
  exact (congrArg decode (word_of_fields w)).trans (of_decide_eq_true h)
theorem Roundtrip.rejoinMerge (h f : Nat) : Roundtrip.Statement (.rejoinMerge h f) := roundtrip_none rfl
theorem Roundtrip.sleepExpiry (h f g : Nat) : Roundtrip.Statement (.sleepExpiry h f g) := roundtrip_none rfl
theorem Roundtrip.voterkRoundComplete (h rank : Nat) : Roundtrip.Statement (.voterkRoundComplete h rank) := roundtrip_none rfl
theorem Roundtrip.regroupRoundComplete (h rank : Nat) : Roundtrip.Statement (.regroupRoundComplete h rank) := roundtrip_none rfl
theorem Roundtrip.chdecDecide (h f chain t : Nat) : Roundtrip.Statement (.chdecDecide h f chain t) := roundtrip_none rfl
theorem Roundtrip.chainDrainComplete (h f chain : Nat) : Roundtrip.Statement (.chainDrainComplete h f chain) := roundtrip_none rfl
theorem Roundtrip.loadDataReturn (h f op : Nat) : Roundtrip.Statement (.loadDataReturn h f op) := roundtrip_none rfl
theorem Roundtrip.storeAccept (h f op : Nat) : Roundtrip.Statement (.storeAccept h f op) := roundtrip_none rfl
theorem Roundtrip.atomicPerform (h f op : Nat) : Roundtrip.Statement (.atomicPerform h f op) := roundtrip_none rfl
theorem Roundtrip.culvertFlitAccept (h f op : Nat) : Roundtrip.Statement (.culvertFlitAccept h f op) := roundtrip_none rfl
theorem Roundtrip.gatherWindowTimeout (core : Nat) : Roundtrip.Statement (.gatherWindowTimeout core) := roundtrip_none rfl
theorem Roundtrip.polderRetire (h : Nat) : Roundtrip.Statement (.polderRetire h) := roundtrip_none rfl
theorem Roundtrip.sluiceRecordTake (k : Nat) : Roundtrip.Statement (.sluiceRecordTake k) := roundtrip_none rfl
theorem Roundtrip.sluiceRecordComplete (k : Nat) : Roundtrip.Statement (.sluiceRecordComplete k) := roundtrip_none rfl
theorem Roundtrip.sluiceKillStop (k : Nat) : Roundtrip.Statement (.sluiceKillStop k) := roundtrip_none rfl
theorem Roundtrip.cpysComplete (h f op : Nat) : Roundtrip.Statement (.cpysComplete h f op) := roundtrip_none rfl
theorem Roundtrip.collMatch (gid seq : Nat) : Roundtrip.Statement (.collMatch gid seq) := roundtrip_none rfl
theorem Roundtrip.collComplete (gid seq : Nat) : Roundtrip.Statement (.collComplete gid seq) := roundtrip_none rfl
theorem Roundtrip.slotLoadComplete (h e slot : Nat) : Roundtrip.Statement (.slotLoadComplete h e slot) := roundtrip_none rfl
theorem Roundtrip.matrixOpStart (h e a : Nat) : Roundtrip.Statement (.matrixOpStart h e a) := roundtrip_none rfl
theorem Roundtrip.matrixBlockCommit (h e a : Nat) : Roundtrip.Statement (.matrixBlockCommit h e a) := roundtrip_none rfl
theorem Roundtrip.matrixOpComplete (h e a : Nat) : Roundtrip.Statement (.matrixOpComplete h e a) := roundtrip_none rfl
theorem Roundtrip.jobStart (k : Nat) : Roundtrip.Statement (.jobStart k) := roundtrip_none rfl
theorem Roundtrip.fenceReady (k fence : Nat) : Roundtrip.Statement (.fenceReady k fence) := roundtrip_none rfl
theorem Roundtrip.jobEnd (k : Nat) : Roundtrip.Statement (.jobEnd k) := roundtrip_none rfl
theorem Roundtrip.reclaim (k : Nat) : Roundtrip.Statement (.reclaim k) := roundtrip_none rfl
theorem Roundtrip.rayComplete (k : Nat) : Roundtrip.Statement (.rayComplete k) := roundtrip_none rfl
theorem Roundtrip.marchUnitThreadEnd (k : Nat) : Roundtrip.Statement (.marchUnitThreadEnd k) := roundtrip_none rfl
theorem Roundtrip.asgenDrainComplete (h f g : Nat) : Roundtrip.Statement (.asgenDrainComplete h f g) := roundtrip_none rfl
theorem Roundtrip.skidStop (h f : Nat) : Roundtrip.Statement (.skidStop h f) := roundtrip_none rfl
theorem Roundtrip.trapDelivery (h : Nat) : Roundtrip.Statement (.trapDelivery h) := roundtrip_none rfl
theorem Roundtrip.polderStopComplete (h : Nat) : Roundtrip.Statement (.polderStopComplete h) := roundtrip_none rfl
theorem Roundtrip.restorePlace (k : Nat) : Roundtrip.Statement (.restorePlace k) := roundtrip_none rfl
theorem Roundtrip.packetFetch (q : Nat) : Roundtrip.Statement (.packetFetch q) := roundtrip_none rfl
theorem Roundtrip.packetSelect (q : Nat) : Roundtrip.Statement (.packetSelect q) := roundtrip_none rfl
theorem Roundtrip.ringPlace (k : Nat) : Roundtrip.Statement (.ringPlace k) := roundtrip_none rfl
theorem Roundtrip.inletCoreStart (h k : Nat) : Roundtrip.Statement (.inletCoreStart h k) := roundtrip_none rfl
theorem Roundtrip.packetComplete (k : Nat) : Roundtrip.Statement (.packetComplete k) := roundtrip_none rfl
theorem Roundtrip.tailChildStart (k : Nat) : Roundtrip.Statement (.tailChildStart k) := roundtrip_none rfl
theorem Roundtrip.eventPacketWrite (c : Nat) : Roundtrip.Statement (.eventPacketWrite c) := roundtrip_none rfl
theorem Roundtrip.inletCoreInstruction (h k : Nat) : Roundtrip.Statement (.inletCoreInstruction h k) := roundtrip_none rfl
theorem Roundtrip.codebookTableWritten (h f g : Nat) : Roundtrip.Statement (.codebookTableWritten h f g) := roundtrip_none rfl
theorem Roundtrip.gridLatchWritten (h f g : Nat) : Roundtrip.Statement (.gridLatchWritten h f g) := roundtrip_none rfl
theorem Roundtrip.rejoinHoldExpiry (h f : Nat) : Roundtrip.Statement (.rejoinHoldExpiry h f) := roundtrip_none rfl
theorem Roundtrip.candidateUrgent (h f g : Nat) : Roundtrip.Statement (.candidateUrgent h f g) := roundtrip_none rfl
theorem Roundtrip.softErrorCorrected (die : Nat) : Roundtrip.Statement (.softErrorCorrected die) := roundtrip_none rfl
theorem Roundtrip.softErrorUncorrectable (l : ErrLoc) : Roundtrip.Statement (.softErrorUncorrectable l) := roundtrip_none rfl
theorem Roundtrip.sluiceOwnPoll (k : Nat) : Roundtrip.Statement (.sluiceOwnPoll k) := roundtrip_none rfl
theorem Roundtrip.collTimeout (k : Nat) : Roundtrip.Statement (.collTimeout k) := roundtrip_none rfl
theorem Roundtrip.rayParkRecheck (k : Nat) : Roundtrip.Statement (.rayParkRecheck k) := roundtrip_none rfl
theorem Roundtrip.engineFaultRetry (k : Nat) : Roundtrip.Statement (.engineFaultRetry k) := roundtrip_none rfl
theorem Roundtrip.doorbell (q : Nat) (w : Word) : Roundtrip.Statement (.doorbell q w) := roundtrip_none rfl
theorem Roundtrip.workGraphRecordClose (h f t window : Nat) : Roundtrip.Statement (.workGraphRecordClose h f t window) := roundtrip_none rfl
theorem Roundtrip.binTimerExpiry (core grid node : Nat) : Roundtrip.Statement (.binTimerExpiry core grid node) := roundtrip_none rfl
theorem Roundtrip.spillwayPlace (grid node part : Nat) : Roundtrip.Statement (.spillwayPlace grid node part) := roundtrip_none rfl
theorem Roundtrip.spillwayTimerExpiry (grid node part : Nat) : Roundtrip.Statement (.spillwayTimerExpiry grid node part) := roundtrip_none rfl
theorem Roundtrip.mailboxPacketClose (h k : Nat) : Roundtrip.Statement (.mailboxPacketClose h k) := roundtrip_none rfl
theorem Roundtrip.inletCoreException (h k : Nat) (cause tval : Word) : Roundtrip.Statement (.inletCoreException h k cause tval) := roundtrip_none rfl
theorem Roundtrip.slgoWrite (h k : Nat) (v : Word) : Roundtrip.Statement (.slgoWrite h k v) := roundtrip_none rfl
theorem Roundtrip.slklWrite (h k : Nat) (v : Word) : Roundtrip.Statement (.slklWrite h k v) := roundtrip_none rfl
theorem Roundtrip.mbpopWrite (h k : Nat) : Roundtrip.Statement (.mbpopWrite h k) := roundtrip_none rfl
theorem Roundtrip.timeloRead (h k : Nat) : Roundtrip.Statement (.timeloRead h k) := roundtrip_none rfl
theorem Roundtrip.hostWrite (w : HostTo) (bytes : List Byte) : Roundtrip.Statement (.hostWrite w bytes) := roundtrip_none rfl
theorem Roundtrip.hostRead (r : HostFrom) (n : Nat) : Roundtrip.Statement (.hostRead r n) := roundtrip_none rfl
theorem Roundtrip.hostRequestTimeout (h f op : Nat) : Roundtrip.Statement (.hostRequestTimeout h f op) := roundtrip_none rfl
theorem Roundtrip.ctxact (port c : Nat) : Roundtrip.Statement (.ctxact port c) := roundtrip_none rfl
theorem Roundtrip.ctxfree (port c : Nat) : Roundtrip.Statement (.ctxfree port c) := roundtrip_none rfl
theorem Roundtrip.qbindBind (port c q : Nat) : Roundtrip.Statement (.qbindBind port c q) := roundtrip_none rfl
theorem Roundtrip.qbindUnbind (port c q : Nat) : Roundtrip.Statement (.qbindUnbind port c q) := roundtrip_none rfl
theorem Roundtrip.asgenCommand (port asid : Nat) : Roundtrip.Statement (.asgenCommand port asid) := roundtrip_none rfl
theorem Roundtrip.faultend (port c va : Nat) : Roundtrip.Statement (.faultend port c va) := roundtrip_none rfl
theorem Roundtrip.haltend (port c tself act : Nat) : Roundtrip.Statement (.haltend port c tself act) := roundtrip_none rfl
theorem Roundtrip.diereset (port die : Nat) : Roundtrip.Statement (.diereset port die) := roundtrip_none rfl
theorem Roundtrip.commandComplete (port : Nat) : Roundtrip.Statement (.commandComplete port) := roundtrip_none rfl
theorem Roundtrip.tsloRead (port : Nat) : Roundtrip.Statement (.tsloRead port) := roundtrip_none rfl
theorem Roundtrip.nrheadWrite (port : Nat) (v : Word) : Roundtrip.Statement (.nrheadWrite port v) := roundtrip_none rfl
theorem Roundtrip.ctxbaseWrite (w : PortDWord) : Roundtrip.Statement (.ctxbaseWrite w) := roundtrip_none rfl
theorem Roundtrip.pwrcapWrite (w : PortWord) : Roundtrip.Statement (.pwrcapWrite w) := roundtrip_none rfl
theorem Roundtrip.registerWrite (port off : Nat) (v : DWord) : Roundtrip.Statement (.registerWrite port off v) := roundtrip_none rfl
theorem Roundtrip.notificationWrite (port : Nat) : Roundtrip.Statement (.notificationWrite port) := roundtrip_none rfl
theorem Roundtrip.quotaWrite (c : Nat) (v : Word) : Roundtrip.Statement (.quotaWrite c v) := roundtrip_none rfl
theorem Roundtrip.ctxholdHold (c : Nat) : Roundtrip.Statement (.ctxholdHold c) := roundtrip_none rfl
theorem Roundtrip.ctxholdRelease (c : Nat) : Roundtrip.Statement (.ctxholdRelease c) := roundtrip_none rfl
theorem Roundtrip.csrQbindBind (c q : Nat) : Roundtrip.Statement (.csrQbindBind c q) := roundtrip_none rfl
theorem Roundtrip.csrQbindUnbind (c q : Nat) : Roundtrip.Statement (.csrQbindUnbind c q) := roundtrip_none rfl
theorem Roundtrip.dbgctlWrite (c : Nat) (v : Word) : Roundtrip.Statement (.dbgctlWrite c v) := roundtrip_none rfl
theorem Roundtrip.dbghaltHalt (c mask : Nat) : Roundtrip.Statement (.dbghaltHalt c mask) := roundtrip_none rfl
theorem Roundtrip.dbghaltResume (c mask : Nat) : Roundtrip.Statement (.dbghaltResume c mask) := roundtrip_none rfl
theorem Roundtrip.linkFlitRetry (l : Nat) : Roundtrip.Statement (.linkFlitRetry l) := roundtrip_none rfl
theorem Roundtrip.linkRetrainStart (l : Nat) : Roundtrip.Statement (.linkRetrainStart l) := roundtrip_none rfl
theorem Roundtrip.linkRetrainEnd (l : Nat) : Roundtrip.Statement (.linkRetrainEnd l) := roundtrip_none rfl
theorem Roundtrip.linkTrainFailure (l : Nat) : Roundtrip.Statement (.linkTrainFailure l) := roundtrip_none rfl
theorem Roundtrip.dieReset (d : Nat) : Roundtrip.Statement (.dieReset d) := roundtrip_none rfl
theorem Roundtrip.dieResetDone (d : Nat) : Roundtrip.Statement (.dieResetDone d) := roundtrip_none rfl
theorem Roundtrip.packageReset : Roundtrip.Statement (.packageReset) := roundtrip_none rfl
theorem Roundtrip.mctpControl (msg : List Byte) : Roundtrip.Statement (.mctpControl msg) := roundtrip_none rfl
theorem Roundtrip.spdmGetMeasurements (index : Nat) : Roundtrip.Statement (.spdmGetMeasurements index) := roundtrip_none rfl
theorem Roundtrip.spdmMessage (msg : List Byte) : Roundtrip.Statement (.spdmMessage msg) := roundtrip_none rfl
theorem Roundtrip.telemetryRead : Roundtrip.Statement (.telemetryRead) := roundtrip_none rfl
theorem Roundtrip.setPowerCap (w : Word) : Roundtrip.Statement (.setPowerCap w) := roundtrip_none rfl
theorem Roundtrip.sidebandDieReset (d : Nat) : Roundtrip.Statement (.sidebandDieReset d) := roundtrip_none rfl
theorem Roundtrip.sidebandPackageReset : Roundtrip.Statement (.sidebandPackageReset) := roundtrip_none rfl
theorem Roundtrip.recoveryImageLoad (image : List Byte) : Roundtrip.Statement (.recoveryImageLoad image) := roundtrip_none rfl
theorem Roundtrip.raiseMinVersion (v : Word) : Roundtrip.Statement (.raiseMinVersion v) := roundtrip_none rfl
theorem Roundtrip.powerWindow : Roundtrip.Statement (.powerWindow) := roundtrip_none rfl
theorem Roundtrip.thermalThrottle (d : Nat) : Roundtrip.Statement (.thermalThrottle d) := roundtrip_none rfl
theorem Roundtrip.thermalDieReset (d : Nat) : Roundtrip.Statement (.thermalDieReset d) := roundtrip_none rfl
theorem Roundtrip.hostPortDown (port : Nat) : Roundtrip.Statement (.hostPortDown port) := roundtrip_none rfl
theorem Roundtrip.hostPortTrained (port : Nat) : Roundtrip.Statement (.hostPortTrained port) := roundtrip_none rfl
theorem Roundtrip.thermalThrottleEnd (d : Nat) : Roundtrip.Statement (.thermalThrottleEnd d) := roundtrip_none rfl
theorem Roundtrip.powerLoss : Roundtrip.Statement (.powerLoss) := roundtrip_none rfl

end Sys2Proof.Laws
end

