-- ==== Sys2Proof/Laws/State.lean ====
section
/-! SUPPORT. What each update of the state leaves and what it sets, one lemma a field (by rfl), and the lookups of keyed objects. -/
namespace Sys2Proof.Laws
open Sys2Proof.Machine

/-! ## Keyed lists -/

/-- An object put back is found under its key. -/
theorem findKey_insertKey_same {α : Type} (key : α → Nat) (x : α) (l : List α) : findKey key (key x) (insertKey key x l) = some x := by
  induction l with
  | nil => simp [insertKey, findKey]
  | cons y ys ih =>
    simp only [insertKey]
    split
    · simp [findKey]
    · split
      · simp [findKey]
      · rename_i h1 _; simp [findKey, h1, ih]
/-- Objects under other keys are as before. -/
theorem findKey_insertKey_other {α : Type} (key : α → Nat) (x : α) (l : List α) {k : Nat} (h : k ≠ key x) :
    findKey key k (insertKey key x l) = findKey key k l := by
  induction l with
  | nil => simp [insertKey, findKey, Ne.symm h]
  | cons y ys ih =>
    simp only [insertKey]
    split
    · rename_i h1; simp [findKey, h1, Ne.symm h]
    · split
      · simp [findKey, Ne.symm h]
      · simp [findKey, ih]
/-- What is found has the key. -/
theorem findKey_key {α : Type} {key : α → Nat} {k : Nat} {l : List α} {x : α} (h : findKey key k l = some x) : key x = k := by
  induction l with
  | nil => simp [findKey] at h
  | cons y ys ih =>
    simp only [findKey] at h
    split at h
    · rename_i hk; simp only [Option.some.injEq] at h; exact h ▸ hk
    · exact ih h
/-- An element put at a place that exists is found there. -/
theorem getElem?_setAt_same {α : Type} (l : List α) (i : Nat) (x : α) (h : i < l.length) : (setAt l i x)[i]? = some x := by
  induction l generalizing i with
  | nil => simp at h
  | cons y ys ih =>
    cases i with
    | zero => rfl
    | succ i => exact ih i (by simpa using h)
/-- Other places are as before. -/
theorem getElem?_setAt_other {α : Type} (l : List α) (i j : Nat) (x : α) (h : j ≠ i) : (setAt l i x)[j]? = l[j]? := by
  induction l generalizing i j with
  | nil => rfl
  | cons y ys ih =>
    cases i with
    | zero => cases j with
      | zero => exact absurd rfl h
      | succ j => rfl
    | succ i => cases j with
      | zero => rfl
      | succ j => exact ih i j (by omega)
/-- The list keeps its length. -/
@[simp] theorem length_setAt {α : Type} (l : List α) (i : Nat) (x : α) : (setAt l i x).length = l.length := by
  induction l generalizing i with
  | nil => rfl
  | cons y ys ih => cases i with
    | zero => rfl
    | succ i => exact congrArg (· + 1) (ih i)

@[simp] theorem polder?_setPolder_same (s : State) (p : Polder) : (s.setPolder p).polder? p.h = some p := findKey_insertKey_same Polder.h p s.polders
theorem polder?_setPolder_other (s : State) (p : Polder) {h : Nat} (hh : h ≠ p.h) : (s.setPolder p).polder? h = s.polder? h :=
  findKey_insertKey_other Polder.h p s.polders hh
@[simp] theorem ctx?_setCtx_same (s : State) (c : Ctx) : (s.setCtx c).ctx? c.c = some c := findKey_insertKey_same Ctx.c c s.ctxs
theorem ctx?_setCtx_other (s : State) (c : Ctx) {k : Nat} (hk : k ≠ c.c) : (s.setCtx c).ctx? k = s.ctx? k :=
  findKey_insertKey_other Ctx.c c s.ctxs hk
@[simp] theorem queue?_setQueue_same (s : State) (q : Queue) : (s.setQueue q).queue? q.q = some q := findKey_insertKey_same Queue.q q s.queues
theorem queue?_setQueue_other (s : State) (q : Queue) {k : Nat} (hk : k ≠ q.q) : (s.setQueue q).queue? k = s.queue? k :=
  findKey_insertKey_other Queue.q q s.queues hk
@[simp] theorem grid?_setGrid_same (s : State) (g : Grid) : (s.setGrid g).grid? g.id = some g := findKey_insertKey_same Grid.id g s.grids
theorem grid?_setGrid_other (s : State) (g : Grid) {k : Nat} (hk : k ≠ g.id) : (s.setGrid g).grid? k = s.grid? k :=
  findKey_insertKey_other Grid.id g s.grids hk

/-! ## Fields under updates -/

@[simp] theorem setPolder_beat (s : State) (p : Polder) : (s.setPolder p).beat = s.beat := rfl
@[simp] theorem setPolder_free (s : State) (p : Polder) : (s.setPolder p).free = s.free := rfl
@[simp] theorem setPolder_sched (s : State) (p : Polder) : (s.setPolder p).sched = s.sched := rfl
@[simp] theorem setPolder_turn (s : State) (p : Polder) : (s.setPolder p).turn = s.turn := rfl
@[simp] theorem setPolder_cur (s : State) (p : Polder) : (s.setPolder p).cur = s.cur := rfl
@[simp] theorem setPolder_nextId (s : State) (p : Polder) : (s.setPolder p).nextId = s.nextId := rfl
@[simp] theorem setPolder_last (s : State) (p : Polder) : (s.setPolder p).last = s.last := rfl
@[simp] theorem setPolder_dev (s : State) (p : Polder) : (s.setPolder p).dev = s.dev := rfl
@[simp] theorem setPolder_host (s : State) (p : Polder) : (s.setPolder p).host = s.host := rfl
@[simp] theorem setPolder_peer (s : State) (p : Polder) : (s.setPolder p).peer = s.peer := rfl
@[simp] theorem setPolder_pois (s : State) (p : Polder) : (s.setPolder p).pois = s.pois := rfl
@[simp] theorem setPolder_l1 (s : State) (p : Polder) : (s.setPolder p).l1 = s.l1 := rfl
@[simp] theorem setPolder_far (s : State) (p : Polder) : (s.setPolder p).far = s.far := rfl
@[simp] theorem setPolder_tlb (s : State) (p : Polder) : (s.setPolder p).tlb = s.tlb := rfl
@[simp] theorem setPolder_gens (s : State) (p : Polder) : (s.setPolder p).gens = s.gens := rfl
@[simp] theorem setPolder_dies (s : State) (p : Polder) : (s.setPolder p).dies = s.dies := rfl
@[simp] theorem setPolder_links (s : State) (p : Polder) : (s.setPolder p).links = s.links := rfl
@[simp] theorem setPolder_ports (s : State) (p : Polder) : (s.setPolder p).ports = s.ports := rfl
@[simp] theorem setPolder_reeve (s : State) (p : Polder) : (s.setPolder p).reeve = s.reeve := rfl
@[simp] theorem setPolder_ready (s : State) (p : Polder) : (s.setPolder p).ready = s.ready := rfl
@[simp] theorem setPolder_recov (s : State) (p : Polder) : (s.setPolder p).recov = s.recov := rfl
@[simp] theorem setPolder_ctxbase (s : State) (p : Polder) : (s.setPolder p).ctxbase = s.ctxbase := rfl
@[simp] theorem setPolder_pwrcap (s : State) (p : Polder) : (s.setPolder p).pwrcap = s.pwrcap := rfl
@[simp] theorem setPolder_ctxs (s : State) (p : Polder) : (s.setPolder p).ctxs = s.ctxs := rfl
@[simp] theorem setPolder_queues (s : State) (p : Polder) : (s.setPolder p).queues = s.queues := rfl
@[simp] theorem setPolder_grids (s : State) (p : Polder) : (s.setPolder p).grids = s.grids := rfl
@[simp] theorem setPolder_bins (s : State) (p : Polder) : (s.setPolder p).bins = s.bins := rfl
@[simp] theorem setPolder_spills (s : State) (p : Polder) : (s.setPolder p).spills = s.spills := rfl
@[simp] theorem setPolder_chosen (s : State) (p : Polder) : (s.setPolder p).chosen = s.chosen := rfl
@[simp] theorem setPolder_saved (s : State) (p : Polder) : (s.setPolder p).saved = s.saved := rfl
@[simp] theorem setPolder_sampled (s : State) (p : Polder) : (s.setPolder p).sampled = s.sampled := rfl
@[simp] theorem setPolder_saves (s : State) (p : Polder) : (s.setPolder p).saves = s.saves := rfl
@[simp] theorem setPolder_barAt (s : State) (p : Polder) : (s.setPolder p).barAt = s.barAt := rfl
@[simp] theorem setPolder_restores (s : State) (p : Polder) : (s.setPolder p).restores = s.restores := rfl
@[simp] theorem setPolder_pending (s : State) (p : Polder) : (s.setPolder p).pending = s.pending := rfl
@[simp] theorem setPolder_reserved (s : State) (p : Polder) : (s.setPolder p).reserved = s.reserved := rfl
@[simp] theorem setPolder_schains (s : State) (p : Polder) : (s.setPolder p).schains = s.schains := rfl
@[simp] theorem setPolder_colls (s : State) (p : Polder) : (s.setPolder p).colls = s.colls := rfl
@[simp] theorem setPolder_mism (s : State) (p : Polder) : (s.setPolder p).mism = s.mism := rfl
@[simp] theorem setPolder_jobs (s : State) (p : Polder) : (s.setPolder p).jobs = s.jobs := rfl
@[simp] theorem setPolder_rays (s : State) (p : Polder) : (s.setPolder p).rays = s.rays := rfl
@[simp] theorem setPolder_walks (s : State) (p : Polder) : (s.setPolder p).walks = s.walks := rfl
@[simp] theorem setPolder_faults (s : State) (p : Polder) : (s.setPolder p).faults = s.faults := rfl
@[simp] theorem setPolder_lastRead (s : State) (p : Polder) : (s.setPolder p).lastRead = s.lastRead := rfl
@[simp] theorem setPolder_lastPois (s : State) (p : Polder) : (s.setPolder p).lastPois = s.lastPois := rfl
@[simp] theorem setPolder_timed (s : State) (p : Polder) : (s.setPolder p).timed = s.timed := rfl
@[simp] theorem setPolder_owedW (s : State) (p : Polder) : (s.setPolder p).owedW = s.owedW := rfl
@[simp] theorem setPolder_codes (s : State) (p : Polder) : (s.setPolder p).codes = s.codes := rfl
@[simp] theorem setPolder_prefs (s : State) (p : Polder) : (s.setPolder p).prefs = s.prefs := rfl
@[simp] theorem setCtx_beat (s : State) (c : Ctx) : (s.setCtx c).beat = s.beat := rfl
@[simp] theorem setCtx_free (s : State) (c : Ctx) : (s.setCtx c).free = s.free := rfl
@[simp] theorem setCtx_sched (s : State) (c : Ctx) : (s.setCtx c).sched = s.sched := rfl
@[simp] theorem setCtx_turn (s : State) (c : Ctx) : (s.setCtx c).turn = s.turn := rfl
@[simp] theorem setCtx_cur (s : State) (c : Ctx) : (s.setCtx c).cur = s.cur := rfl
@[simp] theorem setCtx_nextId (s : State) (c : Ctx) : (s.setCtx c).nextId = s.nextId := rfl
@[simp] theorem setCtx_last (s : State) (c : Ctx) : (s.setCtx c).last = s.last := rfl
@[simp] theorem setCtx_dev (s : State) (c : Ctx) : (s.setCtx c).dev = s.dev := rfl
@[simp] theorem setCtx_host (s : State) (c : Ctx) : (s.setCtx c).host = s.host := rfl
@[simp] theorem setCtx_peer (s : State) (c : Ctx) : (s.setCtx c).peer = s.peer := rfl
@[simp] theorem setCtx_pois (s : State) (c : Ctx) : (s.setCtx c).pois = s.pois := rfl
@[simp] theorem setCtx_l1 (s : State) (c : Ctx) : (s.setCtx c).l1 = s.l1 := rfl
@[simp] theorem setCtx_far (s : State) (c : Ctx) : (s.setCtx c).far = s.far := rfl
@[simp] theorem setCtx_tlb (s : State) (c : Ctx) : (s.setCtx c).tlb = s.tlb := rfl
@[simp] theorem setCtx_gens (s : State) (c : Ctx) : (s.setCtx c).gens = s.gens := rfl
@[simp] theorem setCtx_dies (s : State) (c : Ctx) : (s.setCtx c).dies = s.dies := rfl
@[simp] theorem setCtx_links (s : State) (c : Ctx) : (s.setCtx c).links = s.links := rfl
@[simp] theorem setCtx_ports (s : State) (c : Ctx) : (s.setCtx c).ports = s.ports := rfl
@[simp] theorem setCtx_reeve (s : State) (c : Ctx) : (s.setCtx c).reeve = s.reeve := rfl
@[simp] theorem setCtx_ready (s : State) (c : Ctx) : (s.setCtx c).ready = s.ready := rfl
@[simp] theorem setCtx_recov (s : State) (c : Ctx) : (s.setCtx c).recov = s.recov := rfl
@[simp] theorem setCtx_ctxbase (s : State) (c : Ctx) : (s.setCtx c).ctxbase = s.ctxbase := rfl
@[simp] theorem setCtx_pwrcap (s : State) (c : Ctx) : (s.setCtx c).pwrcap = s.pwrcap := rfl
@[simp] theorem setCtx_queues (s : State) (c : Ctx) : (s.setCtx c).queues = s.queues := rfl
@[simp] theorem setCtx_grids (s : State) (c : Ctx) : (s.setCtx c).grids = s.grids := rfl
@[simp] theorem setCtx_bins (s : State) (c : Ctx) : (s.setCtx c).bins = s.bins := rfl
@[simp] theorem setCtx_spills (s : State) (c : Ctx) : (s.setCtx c).spills = s.spills := rfl
@[simp] theorem setCtx_chosen (s : State) (c : Ctx) : (s.setCtx c).chosen = s.chosen := rfl
@[simp] theorem setCtx_polders (s : State) (c : Ctx) : (s.setCtx c).polders = s.polders := rfl
@[simp] theorem setCtx_saved (s : State) (c : Ctx) : (s.setCtx c).saved = s.saved := rfl
@[simp] theorem setCtx_sampled (s : State) (c : Ctx) : (s.setCtx c).sampled = s.sampled := rfl
@[simp] theorem setCtx_saves (s : State) (c : Ctx) : (s.setCtx c).saves = s.saves := rfl
@[simp] theorem setCtx_barAt (s : State) (c : Ctx) : (s.setCtx c).barAt = s.barAt := rfl
@[simp] theorem setCtx_restores (s : State) (c : Ctx) : (s.setCtx c).restores = s.restores := rfl
@[simp] theorem setCtx_pending (s : State) (c : Ctx) : (s.setCtx c).pending = s.pending := rfl
@[simp] theorem setCtx_reserved (s : State) (c : Ctx) : (s.setCtx c).reserved = s.reserved := rfl
@[simp] theorem setCtx_schains (s : State) (c : Ctx) : (s.setCtx c).schains = s.schains := rfl
@[simp] theorem setCtx_colls (s : State) (c : Ctx) : (s.setCtx c).colls = s.colls := rfl
@[simp] theorem setCtx_mism (s : State) (c : Ctx) : (s.setCtx c).mism = s.mism := rfl
@[simp] theorem setCtx_jobs (s : State) (c : Ctx) : (s.setCtx c).jobs = s.jobs := rfl
@[simp] theorem setCtx_rays (s : State) (c : Ctx) : (s.setCtx c).rays = s.rays := rfl
@[simp] theorem setCtx_walks (s : State) (c : Ctx) : (s.setCtx c).walks = s.walks := rfl
@[simp] theorem setCtx_faults (s : State) (c : Ctx) : (s.setCtx c).faults = s.faults := rfl
@[simp] theorem setCtx_lastRead (s : State) (c : Ctx) : (s.setCtx c).lastRead = s.lastRead := rfl
@[simp] theorem setCtx_lastPois (s : State) (c : Ctx) : (s.setCtx c).lastPois = s.lastPois := rfl
@[simp] theorem setCtx_timed (s : State) (c : Ctx) : (s.setCtx c).timed = s.timed := rfl
@[simp] theorem setCtx_owedW (s : State) (c : Ctx) : (s.setCtx c).owedW = s.owedW := rfl
@[simp] theorem setCtx_codes (s : State) (c : Ctx) : (s.setCtx c).codes = s.codes := rfl
@[simp] theorem setCtx_prefs (s : State) (c : Ctx) : (s.setCtx c).prefs = s.prefs := rfl
@[simp] theorem setQueue_beat (s : State) (q : Queue) : (s.setQueue q).beat = s.beat := rfl
@[simp] theorem setQueue_free (s : State) (q : Queue) : (s.setQueue q).free = s.free := rfl
@[simp] theorem setQueue_sched (s : State) (q : Queue) : (s.setQueue q).sched = s.sched := rfl
@[simp] theorem setQueue_turn (s : State) (q : Queue) : (s.setQueue q).turn = s.turn := rfl
@[simp] theorem setQueue_cur (s : State) (q : Queue) : (s.setQueue q).cur = s.cur := rfl
@[simp] theorem setQueue_nextId (s : State) (q : Queue) : (s.setQueue q).nextId = s.nextId := rfl
@[simp] theorem setQueue_last (s : State) (q : Queue) : (s.setQueue q).last = s.last := rfl
@[simp] theorem setQueue_dev (s : State) (q : Queue) : (s.setQueue q).dev = s.dev := rfl
@[simp] theorem setQueue_host (s : State) (q : Queue) : (s.setQueue q).host = s.host := rfl
@[simp] theorem setQueue_peer (s : State) (q : Queue) : (s.setQueue q).peer = s.peer := rfl
@[simp] theorem setQueue_pois (s : State) (q : Queue) : (s.setQueue q).pois = s.pois := rfl
@[simp] theorem setQueue_l1 (s : State) (q : Queue) : (s.setQueue q).l1 = s.l1 := rfl
@[simp] theorem setQueue_far (s : State) (q : Queue) : (s.setQueue q).far = s.far := rfl
@[simp] theorem setQueue_tlb (s : State) (q : Queue) : (s.setQueue q).tlb = s.tlb := rfl
@[simp] theorem setQueue_gens (s : State) (q : Queue) : (s.setQueue q).gens = s.gens := rfl
@[simp] theorem setQueue_dies (s : State) (q : Queue) : (s.setQueue q).dies = s.dies := rfl
@[simp] theorem setQueue_links (s : State) (q : Queue) : (s.setQueue q).links = s.links := rfl
@[simp] theorem setQueue_ports (s : State) (q : Queue) : (s.setQueue q).ports = s.ports := rfl
@[simp] theorem setQueue_reeve (s : State) (q : Queue) : (s.setQueue q).reeve = s.reeve := rfl
@[simp] theorem setQueue_ready (s : State) (q : Queue) : (s.setQueue q).ready = s.ready := rfl
@[simp] theorem setQueue_recov (s : State) (q : Queue) : (s.setQueue q).recov = s.recov := rfl
@[simp] theorem setQueue_ctxbase (s : State) (q : Queue) : (s.setQueue q).ctxbase = s.ctxbase := rfl
@[simp] theorem setQueue_pwrcap (s : State) (q : Queue) : (s.setQueue q).pwrcap = s.pwrcap := rfl
@[simp] theorem setQueue_ctxs (s : State) (q : Queue) : (s.setQueue q).ctxs = s.ctxs := rfl
@[simp] theorem setQueue_grids (s : State) (q : Queue) : (s.setQueue q).grids = s.grids := rfl
@[simp] theorem setQueue_bins (s : State) (q : Queue) : (s.setQueue q).bins = s.bins := rfl
@[simp] theorem setQueue_spills (s : State) (q : Queue) : (s.setQueue q).spills = s.spills := rfl
@[simp] theorem setQueue_chosen (s : State) (q : Queue) : (s.setQueue q).chosen = s.chosen := rfl
@[simp] theorem setQueue_polders (s : State) (q : Queue) : (s.setQueue q).polders = s.polders := rfl
@[simp] theorem setQueue_saved (s : State) (q : Queue) : (s.setQueue q).saved = s.saved := rfl
@[simp] theorem setQueue_sampled (s : State) (q : Queue) : (s.setQueue q).sampled = s.sampled := rfl
@[simp] theorem setQueue_saves (s : State) (q : Queue) : (s.setQueue q).saves = s.saves := rfl
@[simp] theorem setQueue_barAt (s : State) (q : Queue) : (s.setQueue q).barAt = s.barAt := rfl
@[simp] theorem setQueue_restores (s : State) (q : Queue) : (s.setQueue q).restores = s.restores := rfl
@[simp] theorem setQueue_pending (s : State) (q : Queue) : (s.setQueue q).pending = s.pending := rfl
@[simp] theorem setQueue_reserved (s : State) (q : Queue) : (s.setQueue q).reserved = s.reserved := rfl
@[simp] theorem setQueue_schains (s : State) (q : Queue) : (s.setQueue q).schains = s.schains := rfl
@[simp] theorem setQueue_colls (s : State) (q : Queue) : (s.setQueue q).colls = s.colls := rfl
@[simp] theorem setQueue_mism (s : State) (q : Queue) : (s.setQueue q).mism = s.mism := rfl
@[simp] theorem setQueue_jobs (s : State) (q : Queue) : (s.setQueue q).jobs = s.jobs := rfl
@[simp] theorem setQueue_rays (s : State) (q : Queue) : (s.setQueue q).rays = s.rays := rfl
@[simp] theorem setQueue_walks (s : State) (q : Queue) : (s.setQueue q).walks = s.walks := rfl
@[simp] theorem setQueue_faults (s : State) (q : Queue) : (s.setQueue q).faults = s.faults := rfl
@[simp] theorem setQueue_lastRead (s : State) (q : Queue) : (s.setQueue q).lastRead = s.lastRead := rfl
@[simp] theorem setQueue_lastPois (s : State) (q : Queue) : (s.setQueue q).lastPois = s.lastPois := rfl
@[simp] theorem setQueue_timed (s : State) (q : Queue) : (s.setQueue q).timed = s.timed := rfl
@[simp] theorem setQueue_owedW (s : State) (q : Queue) : (s.setQueue q).owedW = s.owedW := rfl
@[simp] theorem setQueue_codes (s : State) (q : Queue) : (s.setQueue q).codes = s.codes := rfl
@[simp] theorem setQueue_prefs (s : State) (q : Queue) : (s.setQueue q).prefs = s.prefs := rfl
@[simp] theorem setGrid_beat (s : State) (g : Grid) : (s.setGrid g).beat = s.beat := rfl
@[simp] theorem setGrid_free (s : State) (g : Grid) : (s.setGrid g).free = s.free := rfl
@[simp] theorem setGrid_sched (s : State) (g : Grid) : (s.setGrid g).sched = s.sched := rfl
@[simp] theorem setGrid_turn (s : State) (g : Grid) : (s.setGrid g).turn = s.turn := rfl
@[simp] theorem setGrid_cur (s : State) (g : Grid) : (s.setGrid g).cur = s.cur := rfl
@[simp] theorem setGrid_nextId (s : State) (g : Grid) : (s.setGrid g).nextId = s.nextId := rfl
@[simp] theorem setGrid_last (s : State) (g : Grid) : (s.setGrid g).last = s.last := rfl
@[simp] theorem setGrid_dev (s : State) (g : Grid) : (s.setGrid g).dev = s.dev := rfl
@[simp] theorem setGrid_host (s : State) (g : Grid) : (s.setGrid g).host = s.host := rfl
@[simp] theorem setGrid_peer (s : State) (g : Grid) : (s.setGrid g).peer = s.peer := rfl
@[simp] theorem setGrid_pois (s : State) (g : Grid) : (s.setGrid g).pois = s.pois := rfl
@[simp] theorem setGrid_l1 (s : State) (g : Grid) : (s.setGrid g).l1 = s.l1 := rfl
@[simp] theorem setGrid_far (s : State) (g : Grid) : (s.setGrid g).far = s.far := rfl
@[simp] theorem setGrid_tlb (s : State) (g : Grid) : (s.setGrid g).tlb = s.tlb := rfl
@[simp] theorem setGrid_gens (s : State) (g : Grid) : (s.setGrid g).gens = s.gens := rfl
@[simp] theorem setGrid_dies (s : State) (g : Grid) : (s.setGrid g).dies = s.dies := rfl
@[simp] theorem setGrid_links (s : State) (g : Grid) : (s.setGrid g).links = s.links := rfl
@[simp] theorem setGrid_ports (s : State) (g : Grid) : (s.setGrid g).ports = s.ports := rfl
@[simp] theorem setGrid_reeve (s : State) (g : Grid) : (s.setGrid g).reeve = s.reeve := rfl
@[simp] theorem setGrid_ready (s : State) (g : Grid) : (s.setGrid g).ready = s.ready := rfl
@[simp] theorem setGrid_recov (s : State) (g : Grid) : (s.setGrid g).recov = s.recov := rfl
@[simp] theorem setGrid_ctxbase (s : State) (g : Grid) : (s.setGrid g).ctxbase = s.ctxbase := rfl
@[simp] theorem setGrid_pwrcap (s : State) (g : Grid) : (s.setGrid g).pwrcap = s.pwrcap := rfl
@[simp] theorem setGrid_ctxs (s : State) (g : Grid) : (s.setGrid g).ctxs = s.ctxs := rfl
@[simp] theorem setGrid_queues (s : State) (g : Grid) : (s.setGrid g).queues = s.queues := rfl
@[simp] theorem setGrid_bins (s : State) (g : Grid) : (s.setGrid g).bins = s.bins := rfl
@[simp] theorem setGrid_spills (s : State) (g : Grid) : (s.setGrid g).spills = s.spills := rfl
@[simp] theorem setGrid_chosen (s : State) (g : Grid) : (s.setGrid g).chosen = s.chosen := rfl
@[simp] theorem setGrid_polders (s : State) (g : Grid) : (s.setGrid g).polders = s.polders := rfl
@[simp] theorem setGrid_saved (s : State) (g : Grid) : (s.setGrid g).saved = s.saved := rfl
@[simp] theorem setGrid_sampled (s : State) (g : Grid) : (s.setGrid g).sampled = s.sampled := rfl
@[simp] theorem setGrid_saves (s : State) (g : Grid) : (s.setGrid g).saves = s.saves := rfl
@[simp] theorem setGrid_barAt (s : State) (g : Grid) : (s.setGrid g).barAt = s.barAt := rfl
@[simp] theorem setGrid_restores (s : State) (g : Grid) : (s.setGrid g).restores = s.restores := rfl
@[simp] theorem setGrid_pending (s : State) (g : Grid) : (s.setGrid g).pending = s.pending := rfl
@[simp] theorem setGrid_reserved (s : State) (g : Grid) : (s.setGrid g).reserved = s.reserved := rfl
@[simp] theorem setGrid_schains (s : State) (g : Grid) : (s.setGrid g).schains = s.schains := rfl
@[simp] theorem setGrid_colls (s : State) (g : Grid) : (s.setGrid g).colls = s.colls := rfl
@[simp] theorem setGrid_mism (s : State) (g : Grid) : (s.setGrid g).mism = s.mism := rfl
@[simp] theorem setGrid_jobs (s : State) (g : Grid) : (s.setGrid g).jobs = s.jobs := rfl
@[simp] theorem setGrid_rays (s : State) (g : Grid) : (s.setGrid g).rays = s.rays := rfl
@[simp] theorem setGrid_walks (s : State) (g : Grid) : (s.setGrid g).walks = s.walks := rfl
@[simp] theorem setGrid_faults (s : State) (g : Grid) : (s.setGrid g).faults = s.faults := rfl
@[simp] theorem setGrid_lastRead (s : State) (g : Grid) : (s.setGrid g).lastRead = s.lastRead := rfl
@[simp] theorem setGrid_lastPois (s : State) (g : Grid) : (s.setGrid g).lastPois = s.lastPois := rfl
@[simp] theorem setGrid_timed (s : State) (g : Grid) : (s.setGrid g).timed = s.timed := rfl
@[simp] theorem setGrid_owedW (s : State) (g : Grid) : (s.setGrid g).owedW = s.owedW := rfl
@[simp] theorem setGrid_codes (s : State) (g : Grid) : (s.setGrid g).codes = s.codes := rfl
@[simp] theorem setGrid_prefs (s : State) (g : Grid) : (s.setGrid g).prefs = s.prefs := rfl
@[simp] theorem modDie_beat (s : State) (d : Nat) (f : Die → Die) : (s.modDie d f).beat = s.beat := rfl
@[simp] theorem modDie_free (s : State) (d : Nat) (f : Die → Die) : (s.modDie d f).free = s.free := rfl
@[simp] theorem modDie_sched (s : State) (d : Nat) (f : Die → Die) : (s.modDie d f).sched = s.sched := rfl
@[simp] theorem modDie_turn (s : State) (d : Nat) (f : Die → Die) : (s.modDie d f).turn = s.turn := rfl
@[simp] theorem modDie_cur (s : State) (d : Nat) (f : Die → Die) : (s.modDie d f).cur = s.cur := rfl
@[simp] theorem modDie_nextId (s : State) (d : Nat) (f : Die → Die) : (s.modDie d f).nextId = s.nextId := rfl
@[simp] theorem modDie_last (s : State) (d : Nat) (f : Die → Die) : (s.modDie d f).last = s.last := rfl
@[simp] theorem modDie_dev (s : State) (d : Nat) (f : Die → Die) : (s.modDie d f).dev = s.dev := rfl
@[simp] theorem modDie_host (s : State) (d : Nat) (f : Die → Die) : (s.modDie d f).host = s.host := rfl
@[simp] theorem modDie_peer (s : State) (d : Nat) (f : Die → Die) : (s.modDie d f).peer = s.peer := rfl
@[simp] theorem modDie_pois (s : State) (d : Nat) (f : Die → Die) : (s.modDie d f).pois = s.pois := rfl
@[simp] theorem modDie_l1 (s : State) (d : Nat) (f : Die → Die) : (s.modDie d f).l1 = s.l1 := rfl
@[simp] theorem modDie_far (s : State) (d : Nat) (f : Die → Die) : (s.modDie d f).far = s.far := rfl
@[simp] theorem modDie_tlb (s : State) (d : Nat) (f : Die → Die) : (s.modDie d f).tlb = s.tlb := rfl
@[simp] theorem modDie_gens (s : State) (d : Nat) (f : Die → Die) : (s.modDie d f).gens = s.gens := rfl
@[simp] theorem modDie_links (s : State) (d : Nat) (f : Die → Die) : (s.modDie d f).links = s.links := rfl
@[simp] theorem modDie_ports (s : State) (d : Nat) (f : Die → Die) : (s.modDie d f).ports = s.ports := rfl
@[simp] theorem modDie_reeve (s : State) (d : Nat) (f : Die → Die) : (s.modDie d f).reeve = s.reeve := rfl
@[simp] theorem modDie_ready (s : State) (d : Nat) (f : Die → Die) : (s.modDie d f).ready = s.ready := rfl
@[simp] theorem modDie_recov (s : State) (d : Nat) (f : Die → Die) : (s.modDie d f).recov = s.recov := rfl
@[simp] theorem modDie_ctxbase (s : State) (d : Nat) (f : Die → Die) : (s.modDie d f).ctxbase = s.ctxbase := rfl
@[simp] theorem modDie_pwrcap (s : State) (d : Nat) (f : Die → Die) : (s.modDie d f).pwrcap = s.pwrcap := rfl
@[simp] theorem modDie_ctxs (s : State) (d : Nat) (f : Die → Die) : (s.modDie d f).ctxs = s.ctxs := rfl
@[simp] theorem modDie_queues (s : State) (d : Nat) (f : Die → Die) : (s.modDie d f).queues = s.queues := rfl
@[simp] theorem modDie_grids (s : State) (d : Nat) (f : Die → Die) : (s.modDie d f).grids = s.grids := rfl
@[simp] theorem modDie_bins (s : State) (d : Nat) (f : Die → Die) : (s.modDie d f).bins = s.bins := rfl
@[simp] theorem modDie_spills (s : State) (d : Nat) (f : Die → Die) : (s.modDie d f).spills = s.spills := rfl
@[simp] theorem modDie_chosen (s : State) (d : Nat) (f : Die → Die) : (s.modDie d f).chosen = s.chosen := rfl
@[simp] theorem modDie_polders (s : State) (d : Nat) (f : Die → Die) : (s.modDie d f).polders = s.polders := rfl
@[simp] theorem modDie_saved (s : State) (d : Nat) (f : Die → Die) : (s.modDie d f).saved = s.saved := rfl
@[simp] theorem modDie_sampled (s : State) (d : Nat) (f : Die → Die) : (s.modDie d f).sampled = s.sampled := rfl
@[simp] theorem modDie_saves (s : State) (d : Nat) (f : Die → Die) : (s.modDie d f).saves = s.saves := rfl
@[simp] theorem modDie_barAt (s : State) (d : Nat) (f : Die → Die) : (s.modDie d f).barAt = s.barAt := rfl
@[simp] theorem modDie_restores (s : State) (d : Nat) (f : Die → Die) : (s.modDie d f).restores = s.restores := rfl
@[simp] theorem modDie_pending (s : State) (d : Nat) (f : Die → Die) : (s.modDie d f).pending = s.pending := rfl
@[simp] theorem modDie_reserved (s : State) (d : Nat) (f : Die → Die) : (s.modDie d f).reserved = s.reserved := rfl
@[simp] theorem modDie_schains (s : State) (d : Nat) (f : Die → Die) : (s.modDie d f).schains = s.schains := rfl
@[simp] theorem modDie_colls (s : State) (d : Nat) (f : Die → Die) : (s.modDie d f).colls = s.colls := rfl
@[simp] theorem modDie_mism (s : State) (d : Nat) (f : Die → Die) : (s.modDie d f).mism = s.mism := rfl
@[simp] theorem modDie_jobs (s : State) (d : Nat) (f : Die → Die) : (s.modDie d f).jobs = s.jobs := rfl
@[simp] theorem modDie_rays (s : State) (d : Nat) (f : Die → Die) : (s.modDie d f).rays = s.rays := rfl
@[simp] theorem modDie_walks (s : State) (d : Nat) (f : Die → Die) : (s.modDie d f).walks = s.walks := rfl
@[simp] theorem modDie_faults (s : State) (d : Nat) (f : Die → Die) : (s.modDie d f).faults = s.faults := rfl
@[simp] theorem modDie_lastRead (s : State) (d : Nat) (f : Die → Die) : (s.modDie d f).lastRead = s.lastRead := rfl
@[simp] theorem modDie_lastPois (s : State) (d : Nat) (f : Die → Die) : (s.modDie d f).lastPois = s.lastPois := rfl
@[simp] theorem modDie_timed (s : State) (d : Nat) (f : Die → Die) : (s.modDie d f).timed = s.timed := rfl
@[simp] theorem modDie_owedW (s : State) (d : Nat) (f : Die → Die) : (s.modDie d f).owedW = s.owedW := rfl
@[simp] theorem modDie_codes (s : State) (d : Nat) (f : Die → Die) : (s.modDie d f).codes = s.codes := rfl
@[simp] theorem modDie_prefs (s : State) (d : Nat) (f : Die → Die) : (s.modDie d f).prefs = s.prefs := rfl
@[simp] theorem modPort_beat (s : State) (i : Nat) (f : Port → Port) : (s.modPort i f).beat = s.beat := rfl
@[simp] theorem modPort_free (s : State) (i : Nat) (f : Port → Port) : (s.modPort i f).free = s.free := rfl
@[simp] theorem modPort_sched (s : State) (i : Nat) (f : Port → Port) : (s.modPort i f).sched = s.sched := rfl
@[simp] theorem modPort_turn (s : State) (i : Nat) (f : Port → Port) : (s.modPort i f).turn = s.turn := rfl
@[simp] theorem modPort_cur (s : State) (i : Nat) (f : Port → Port) : (s.modPort i f).cur = s.cur := rfl
@[simp] theorem modPort_nextId (s : State) (i : Nat) (f : Port → Port) : (s.modPort i f).nextId = s.nextId := rfl
@[simp] theorem modPort_last (s : State) (i : Nat) (f : Port → Port) : (s.modPort i f).last = s.last := rfl
@[simp] theorem modPort_dev (s : State) (i : Nat) (f : Port → Port) : (s.modPort i f).dev = s.dev := rfl
@[simp] theorem modPort_host (s : State) (i : Nat) (f : Port → Port) : (s.modPort i f).host = s.host := rfl
@[simp] theorem modPort_peer (s : State) (i : Nat) (f : Port → Port) : (s.modPort i f).peer = s.peer := rfl
@[simp] theorem modPort_pois (s : State) (i : Nat) (f : Port → Port) : (s.modPort i f).pois = s.pois := rfl
@[simp] theorem modPort_l1 (s : State) (i : Nat) (f : Port → Port) : (s.modPort i f).l1 = s.l1 := rfl
@[simp] theorem modPort_far (s : State) (i : Nat) (f : Port → Port) : (s.modPort i f).far = s.far := rfl
@[simp] theorem modPort_tlb (s : State) (i : Nat) (f : Port → Port) : (s.modPort i f).tlb = s.tlb := rfl
@[simp] theorem modPort_gens (s : State) (i : Nat) (f : Port → Port) : (s.modPort i f).gens = s.gens := rfl
@[simp] theorem modPort_dies (s : State) (i : Nat) (f : Port → Port) : (s.modPort i f).dies = s.dies := rfl
@[simp] theorem modPort_links (s : State) (i : Nat) (f : Port → Port) : (s.modPort i f).links = s.links := rfl
@[simp] theorem modPort_reeve (s : State) (i : Nat) (f : Port → Port) : (s.modPort i f).reeve = s.reeve := rfl
@[simp] theorem modPort_ready (s : State) (i : Nat) (f : Port → Port) : (s.modPort i f).ready = s.ready := rfl
@[simp] theorem modPort_recov (s : State) (i : Nat) (f : Port → Port) : (s.modPort i f).recov = s.recov := rfl
@[simp] theorem modPort_ctxbase (s : State) (i : Nat) (f : Port → Port) : (s.modPort i f).ctxbase = s.ctxbase := rfl
@[simp] theorem modPort_pwrcap (s : State) (i : Nat) (f : Port → Port) : (s.modPort i f).pwrcap = s.pwrcap := rfl
@[simp] theorem modPort_ctxs (s : State) (i : Nat) (f : Port → Port) : (s.modPort i f).ctxs = s.ctxs := rfl
@[simp] theorem modPort_queues (s : State) (i : Nat) (f : Port → Port) : (s.modPort i f).queues = s.queues := rfl
@[simp] theorem modPort_grids (s : State) (i : Nat) (f : Port → Port) : (s.modPort i f).grids = s.grids := rfl
@[simp] theorem modPort_bins (s : State) (i : Nat) (f : Port → Port) : (s.modPort i f).bins = s.bins := rfl
@[simp] theorem modPort_spills (s : State) (i : Nat) (f : Port → Port) : (s.modPort i f).spills = s.spills := rfl
@[simp] theorem modPort_chosen (s : State) (i : Nat) (f : Port → Port) : (s.modPort i f).chosen = s.chosen := rfl
@[simp] theorem modPort_polders (s : State) (i : Nat) (f : Port → Port) : (s.modPort i f).polders = s.polders := rfl
@[simp] theorem modPort_saved (s : State) (i : Nat) (f : Port → Port) : (s.modPort i f).saved = s.saved := rfl
@[simp] theorem modPort_sampled (s : State) (i : Nat) (f : Port → Port) : (s.modPort i f).sampled = s.sampled := rfl
@[simp] theorem modPort_saves (s : State) (i : Nat) (f : Port → Port) : (s.modPort i f).saves = s.saves := rfl
@[simp] theorem modPort_barAt (s : State) (i : Nat) (f : Port → Port) : (s.modPort i f).barAt = s.barAt := rfl
@[simp] theorem modPort_restores (s : State) (i : Nat) (f : Port → Port) : (s.modPort i f).restores = s.restores := rfl
@[simp] theorem modPort_pending (s : State) (i : Nat) (f : Port → Port) : (s.modPort i f).pending = s.pending := rfl
@[simp] theorem modPort_reserved (s : State) (i : Nat) (f : Port → Port) : (s.modPort i f).reserved = s.reserved := rfl
@[simp] theorem modPort_schains (s : State) (i : Nat) (f : Port → Port) : (s.modPort i f).schains = s.schains := rfl
@[simp] theorem modPort_colls (s : State) (i : Nat) (f : Port → Port) : (s.modPort i f).colls = s.colls := rfl
@[simp] theorem modPort_mism (s : State) (i : Nat) (f : Port → Port) : (s.modPort i f).mism = s.mism := rfl
@[simp] theorem modPort_jobs (s : State) (i : Nat) (f : Port → Port) : (s.modPort i f).jobs = s.jobs := rfl
@[simp] theorem modPort_rays (s : State) (i : Nat) (f : Port → Port) : (s.modPort i f).rays = s.rays := rfl
@[simp] theorem modPort_walks (s : State) (i : Nat) (f : Port → Port) : (s.modPort i f).walks = s.walks := rfl
@[simp] theorem modPort_faults (s : State) (i : Nat) (f : Port → Port) : (s.modPort i f).faults = s.faults := rfl
@[simp] theorem modPort_lastRead (s : State) (i : Nat) (f : Port → Port) : (s.modPort i f).lastRead = s.lastRead := rfl
@[simp] theorem modPort_lastPois (s : State) (i : Nat) (f : Port → Port) : (s.modPort i f).lastPois = s.lastPois := rfl
@[simp] theorem modPort_timed (s : State) (i : Nat) (f : Port → Port) : (s.modPort i f).timed = s.timed := rfl
@[simp] theorem modPort_owedW (s : State) (i : Nat) (f : Port → Port) : (s.modPort i f).owedW = s.owedW := rfl
@[simp] theorem modPort_codes (s : State) (i : Nat) (f : Port → Port) : (s.modPort i f).codes = s.codes := rfl
@[simp] theorem modPort_prefs (s : State) (i : Nat) (f : Port → Port) : (s.modPort i f).prefs = s.prefs := rfl
@[simp] theorem idle_beat (s : State) : s.idle.beat = s.beat := rfl
@[simp] theorem put_beat (v : V) : v.put.beat = v.s.beat := rfl
@[simp] theorem idle_sched (s : State) : s.idle.sched = s.sched := rfl
@[simp] theorem put_sched (v : V) : v.put.sched = v.s.sched := rfl
@[simp] theorem idle_turn (s : State) : s.idle.turn = s.turn := rfl
@[simp] theorem put_turn (v : V) : v.put.turn = v.s.turn := rfl
@[simp] theorem idle_nextId (s : State) : s.idle.nextId = s.nextId := rfl
@[simp] theorem put_nextId (v : V) : v.put.nextId = v.s.nextId := rfl
@[simp] theorem idle_last (s : State) : s.idle.last = s.last := rfl
@[simp] theorem put_last (v : V) : v.put.last = v.s.last := rfl
@[simp] theorem idle_dev (s : State) : s.idle.dev = s.dev := rfl
@[simp] theorem put_dev (v : V) : v.put.dev = v.s.dev := rfl
@[simp] theorem idle_host (s : State) : s.idle.host = s.host := rfl
@[simp] theorem put_host (v : V) : v.put.host = v.s.host := rfl
@[simp] theorem idle_peer (s : State) : s.idle.peer = s.peer := rfl
@[simp] theorem put_peer (v : V) : v.put.peer = v.s.peer := rfl
@[simp] theorem idle_pois (s : State) : s.idle.pois = s.pois := rfl
@[simp] theorem put_pois (v : V) : v.put.pois = v.s.pois := rfl
@[simp] theorem idle_l1 (s : State) : s.idle.l1 = s.l1 := rfl
@[simp] theorem put_l1 (v : V) : v.put.l1 = v.s.l1 := rfl
@[simp] theorem idle_far (s : State) : s.idle.far = s.far := rfl
@[simp] theorem put_far (v : V) : v.put.far = v.s.far := rfl
@[simp] theorem idle_tlb (s : State) : s.idle.tlb = s.tlb := rfl
@[simp] theorem put_tlb (v : V) : v.put.tlb = v.s.tlb := rfl
@[simp] theorem idle_gens (s : State) : s.idle.gens = s.gens := rfl
@[simp] theorem put_gens (v : V) : v.put.gens = v.s.gens := rfl
@[simp] theorem idle_dies (s : State) : s.idle.dies = s.dies := rfl
@[simp] theorem put_dies (v : V) : v.put.dies = v.s.dies := rfl
@[simp] theorem idle_links (s : State) : s.idle.links = s.links := rfl
@[simp] theorem put_links (v : V) : v.put.links = v.s.links := rfl
@[simp] theorem idle_ports (s : State) : s.idle.ports = s.ports := rfl
@[simp] theorem put_ports (v : V) : v.put.ports = v.s.ports := rfl
@[simp] theorem idle_reeve (s : State) : s.idle.reeve = s.reeve := rfl
@[simp] theorem put_reeve (v : V) : v.put.reeve = v.s.reeve := rfl
@[simp] theorem idle_ready (s : State) : s.idle.ready = s.ready := rfl
@[simp] theorem put_ready (v : V) : v.put.ready = v.s.ready := rfl
@[simp] theorem idle_recov (s : State) : s.idle.recov = s.recov := rfl
@[simp] theorem put_recov (v : V) : v.put.recov = v.s.recov := rfl
@[simp] theorem idle_ctxbase (s : State) : s.idle.ctxbase = s.ctxbase := rfl
@[simp] theorem put_ctxbase (v : V) : v.put.ctxbase = v.s.ctxbase := rfl
@[simp] theorem idle_pwrcap (s : State) : s.idle.pwrcap = s.pwrcap := rfl
@[simp] theorem put_pwrcap (v : V) : v.put.pwrcap = v.s.pwrcap := rfl
@[simp] theorem idle_ctxs (s : State) : s.idle.ctxs = s.ctxs := rfl
@[simp] theorem put_ctxs (v : V) : v.put.ctxs = v.s.ctxs := rfl
@[simp] theorem idle_queues (s : State) : s.idle.queues = s.queues := rfl
@[simp] theorem put_queues (v : V) : v.put.queues = v.s.queues := rfl
@[simp] theorem idle_grids (s : State) : s.idle.grids = s.grids := rfl
@[simp] theorem put_grids (v : V) : v.put.grids = v.s.grids := rfl
@[simp] theorem idle_bins (s : State) : s.idle.bins = s.bins := rfl
@[simp] theorem put_bins (v : V) : v.put.bins = v.s.bins := rfl
@[simp] theorem idle_spills (s : State) : s.idle.spills = s.spills := rfl
@[simp] theorem put_spills (v : V) : v.put.spills = v.s.spills := rfl
@[simp] theorem idle_chosen (s : State) : s.idle.chosen = s.chosen := rfl
@[simp] theorem put_chosen (v : V) : v.put.chosen = v.s.chosen := rfl
@[simp] theorem idle_polders (s : State) : s.idle.polders = s.polders := rfl
@[simp] theorem idle_saved (s : State) : s.idle.saved = s.saved := rfl
@[simp] theorem put_saved (v : V) : v.put.saved = v.s.saved := rfl
@[simp] theorem idle_sampled (s : State) : s.idle.sampled = s.sampled := rfl
@[simp] theorem put_sampled (v : V) : v.put.sampled = v.s.sampled := rfl
@[simp] theorem idle_saves (s : State) : s.idle.saves = s.saves := rfl
@[simp] theorem put_saves (v : V) : v.put.saves = v.s.saves := rfl
@[simp] theorem idle_barAt (s : State) : s.idle.barAt = s.barAt := rfl
@[simp] theorem put_barAt (v : V) : v.put.barAt = v.s.barAt := rfl
@[simp] theorem idle_restores (s : State) : s.idle.restores = s.restores := rfl
@[simp] theorem put_restores (v : V) : v.put.restores = v.s.restores := rfl
@[simp] theorem idle_pending (s : State) : s.idle.pending = s.pending := rfl
@[simp] theorem put_pending (v : V) : v.put.pending = v.s.pending := rfl
@[simp] theorem idle_reserved (s : State) : s.idle.reserved = s.reserved := rfl
@[simp] theorem put_reserved (v : V) : v.put.reserved = v.s.reserved := rfl
@[simp] theorem idle_schains (s : State) : s.idle.schains = s.schains := rfl
@[simp] theorem put_schains (v : V) : v.put.schains = v.s.schains := rfl
@[simp] theorem idle_colls (s : State) : s.idle.colls = s.colls := rfl
@[simp] theorem put_colls (v : V) : v.put.colls = v.s.colls := rfl
@[simp] theorem idle_mism (s : State) : s.idle.mism = s.mism := rfl
@[simp] theorem put_mism (v : V) : v.put.mism = v.s.mism := rfl
@[simp] theorem idle_jobs (s : State) : s.idle.jobs = s.jobs := rfl
@[simp] theorem put_jobs (v : V) : v.put.jobs = v.s.jobs := rfl
@[simp] theorem idle_rays (s : State) : s.idle.rays = s.rays := rfl
@[simp] theorem put_rays (v : V) : v.put.rays = v.s.rays := rfl
@[simp] theorem idle_walks (s : State) : s.idle.walks = s.walks := rfl
@[simp] theorem put_walks (v : V) : v.put.walks = v.s.walks := rfl
@[simp] theorem idle_faults (s : State) : s.idle.faults = s.faults := rfl
@[simp] theorem put_faults (v : V) : v.put.faults = v.s.faults := rfl
@[simp] theorem idle_lastRead (s : State) : s.idle.lastRead = s.lastRead := rfl
@[simp] theorem put_lastRead (v : V) : v.put.lastRead = v.s.lastRead := rfl
@[simp] theorem idle_lastPois (s : State) : s.idle.lastPois = s.lastPois := rfl
@[simp] theorem put_lastPois (v : V) : v.put.lastPois = v.s.lastPois := rfl
@[simp] theorem idle_timed (s : State) : s.idle.timed = s.timed := rfl
@[simp] theorem put_timed (v : V) : v.put.timed = v.s.timed := rfl
@[simp] theorem idle_owedW (s : State) : s.idle.owedW = s.owedW := rfl
@[simp] theorem put_owedW (v : V) : v.put.owedW = v.s.owedW := rfl
@[simp] theorem idle_codes (s : State) : s.idle.codes = s.codes := rfl
@[simp] theorem put_codes (v : V) : v.put.codes = v.s.codes := rfl
@[simp] theorem idle_prefs (s : State) : s.idle.prefs = s.prefs := rfl
@[simp] theorem put_prefs (v : V) : v.put.prefs = v.s.prefs := rfl
@[simp] theorem idle_cur (s : State) : s.idle.cur = none := rfl
@[simp] theorem idle_free (s : State) : s.idle.free = s.free + 1 := rfl
@[simp] theorem put_cur (v : V) : v.put.cur = none := rfl
@[simp] theorem put_free (v : V) : v.put.free = v.s.free + 1 := rfl
@[simp] theorem put_polder (v : V) : v.put.polder? v.p.h = some v.polder := findKey_insertKey_same Polder.h v.polder v.s.polders
@[simp] theorem modDie_dies (s : State) (d : Nat) (f : Die → Die) : (s.modDie d f).dies = modAt s.dies d f := rfl
@[simp] theorem modPort_ports (s : State) (i : Nat) (f : Port → Port) : (s.modPort i f).ports = modAt s.ports i f := rfl

end Sys2Proof.Laws
end

