-- ==== Sys2Proof/Tests/Slice0.lean ====
section
/-! SUPPORT. Tests of the model's own: words written out from the encodings of spec/02_instruction_word.md, ill-formed steps
that WellFormed refuses, single steps whose results the rules give, and for each statement with hypotheses states and
operands that meet them (`witness_<statement>`). -/
namespace Sys2Proof.Tests
set_option Elab.async false
open Sys2Proof Sys2Proof.Machine Sys2Proof.Claims

/-! ## The test state: one context on die 0, one polder with two fascines on core 0, its code and data mapped -/

/-- Mode of element type `ty` with guard p7 and no trap enabled (R43). -/
def modeOf (ty : Nat) : BitVec 24 := BitVec.ofNat 24 (0x800007 + 16 * ty)
/-- A register whose threads all hold x. -/
def flat (n : Nat) (x : Word) : VBind := ⟨n, 0xFFFF, 0, List.replicate 16 x⟩
/-- v2:v3 holds the address 0x60_0000, v5 of thread t holds t, v6 and v7 hold 2 and 3. -/
def regs0 : Regs :=
  { fetchFasc.r with
    ents := [{ mask := 0xFFFF, val := true, mode := modeOf 0 }, {}, {}, {}], preds := List.replicate 16 1,
    vb := [flat 2 0x600000, ⟨5, 0xFFFF, 0, (List.range 16).map (BitVec.ofNat 32)⟩, flat 6 2, flat 7 3],
    s := [0x600000, 0, 2, 0] ++ List.replicate 44 0 }
def fasc0 : Fascine := { fetchFasc with r := regs0, wrec := List.replicate 4 {} }
def engine0 : Engine := { part := 0, slots := List.replicate 16 {}, accs := List.replicate 4 {}, books := [[], []] }
def io0 : IoCore := { k := 0, run := 1, x := List.replicate 32 0, imem := Memory.writeN [] 0 (leBytes 4 0x00500093), slst := List.replicate 8 0 }
def polder0 : Polder :=
  { fetchPolder with bars := List.replicate 4 { exparr := 8 }, spsize := 0x8000, nslots := 16, engines := [engine0], io := [io0],
                     fs := [fasc0, fasc0] }
/-- The state: queue 5 is bound to the context, the data area at 0x60_0000 holds 1, 2, 3, 4 and zeros. -/
def state0 : State :=
  let s := State.reset.withFetchWord 32 0
  { (s.setPolder polder0).setQueue { q := 5, st := .idle, en := true, logn := 4, qbase := 0x700000 } with
    dev := Memory.writeN s.dev 0x600000 [1, 2, 3, 4], cur := some { h := 0, f := 0, g := 0 }, sched := [] }
/-- Changes of its polder, its first fascine, that fascine's registers and its first entry. -/
def onP (s : State) (g : Polder → Polder) : State := s.modPolder 0 g
def onF (s : State) (g : Fascine → Fascine) : State := s.modFasc 0 0 g
def onR (s : State) (g : Regs → Regs) : State := onF s fun f => { f with r := g f.r }
def onE (s : State) (g : SplitEntry → SplitEntry) : State := onR s fun r => { r with ents := modAt r.ents 0 g }
def typed (ty : Nat) (s : State) : State := onE s fun e => { e with mode := modeOf ty }
def sysOf (s : State) : State := onP s fun p => { p with sys := true }

/-- The view of a state whose latch names a sub-group. -/
def vw (s : State) : V := (s.view).getD ⟨s, { h := 0, f := 0, g := 0 }, polder0, fasc0, {}⟩
/-- The form of an instruction in that view. -/
def vi (i : Instr) (s : State) : V := vw (i.turn s)
def ds (i : Instr) (s : State) : Desc := ((i.form).map (· (vi i s))).getD {}
def issues (i : Instr) (s : State) : Bool := (i.turn s).view.isSome && i.form.isSome
/-- Instruction i meets `Runs` in s, with the view and form of s. -/
def runs (i : Instr) (s : State) : Bool := issues i s && (vi i s).ready (ds i s)
def rds (i : Instr) (s : State) : V := (vi i s).reads (ds i s)
def thr (i : Instr) (s : State) : Mask := (vi i s).threads (ds i s)

theorem issues_of {i : Instr} {s : State} (h : issues i s = true) : Issues i s (vi i s) (ds i s) := by
  simp only [issues, Bool.and_eq_true] at h
  refine ⟨?_, ?_⟩
  · obtain ⟨v, hv⟩ := Option.isSome_iff_exists.1 h.1
    simp [vi, vw, hv]
  · obtain ⟨f, hf⟩ := Option.isSome_iff_exists.1 h.2
    simp [ds, hf]
theorem runs_of {i : Instr} {s : State} (h : runs i s = true) : Runs i s (vi i s) (ds i s) := by
  simp only [runs, Bool.and_eq_true] at h
  exact ⟨issues_of h.1, h.2⟩

/-- Whether an outcome is a next state that satisfies f. -/
def leads (o : Host.Outcome State Fault Refusal) (f : State → Bool) : Bool :=
  match o with
  | .next t => f t
  | _ => false
/-- Whether an answer is a value that satisfies f. -/
def okAnd {ε α : Type} (x : Except ε α) (f : α → Bool) : Bool :=
  match x with
  | .ok a => f a
  | .error _ => false
/-- A register of the first fascine after a step. -/
def vreg (n t : Nat) (s : State) : Word := ((s.fasc? 0 0).map (·.r.vword n t)).getD 0xDEAD
def sreg (n : Nat) (s : State) : Word := ((s.fasc? 0 0).map (·.r.s.getD n 0)).getD 0xDEAD
def preds (t : Nat) (s : State) : BitVec 8 := ((s.fasc? 0 0).map (·.r.preds.getD t 0)).getD 0xFF
def pcOf (s : State) : Word := ((s.fasc? 0 0).bind fun f => (f.r.ents[0]?).map SplitEntry.pc).getD 0xDEAD
/-- Code of the halt of the polder. -/
def haltOf (s : State) : Option Nat := ((s.polder? 0).bind Polder.halt).map Halt.code

/-! ## Encoding: words written out from R48 to R57, opcode first, then A, B and C or the immediate -/

/-- Whether each word decodes to its instruction. -/
def decodesAll (l : List (Word × Instr)) : Bool := l.all fun x => decide (decode x.1 = x.2)

theorem test_decodes_control : decodesAll [(0x00000000, .nop), (0x00123456, .nop), (0x01000007, .bra 7), (0x01FFFFFF, .bra (-1)), (0x04800000, .call 0x800000),
    (0x020BFFFE, .brc ⟨true, 3⟩ 0xFFFE), (0x1105FFFF, .dbnz (.v 5) 0xFFFF), (0x030009FF, .brx (.v 9)), (0x0500A500, .callx (.s 5)),
    (0x06000000, .ret), (0x07000000, .exit), (0x14000000, .demote), (0x08000000, .yield), (0x13000000, .qfill), (0x16000000, .trapret),
    (0x17000000, .halt), (0x0980097A, .mode 0x80097A), (0x0AA0A1C3, .modex (.s 0) (.s 1) 0xC3), (0x0B01FFFE, .lit (.v 1) 0xFFFE)] = true := by
  decide +kernel
theorem test_decodes_control2 : decodesAll [(0x0CA28001, .lith (.s 2) 0x8001), (0x0D0C2081, .waitc 1 2 2 3), (0x0E000801, .waitf 0x801),
    (0x0FFFFFFF, .trap 0xFFFFFF), (0x10000001, .bkpt 1), (0x12010E01, .regroup (.v 1) ⟨true, 6⟩ 1), (0x15FFFFFF, .sleep 0xFFFFFF)] = true := by
  decide +kernel
theorem test_decodes_arithmetic : decodesAll [(0x200102A3, .add (.v 1) (.v 2) (.s 3)), (0x21A0A1F0, .sub (.s 0) (.s 1) .zero),
    (0x229F00E1, .mul (.v 159) (.v 0) (.c 1)), (0x230102FB, .mad (.v 1) (.v 2) .ch), (0x24010203, .msb (.v 1) (.v 2) (.v 3)),
    (0x25010203, .nmad (.v 1) (.v 2) (.v 3)), (0x26010203, .nmsb (.v 1) (.v 2) (.v 3)), (0x27010203, .min (.v 1) (.v 2) (.v 3)),
    (0x28010203, .max (.v 1) (.v 2) (.v 3)), (0x29010200, .abs (.v 1) (.v 2)), (0x2A010200, .neg (.v 1) (.v 2)),
    (0x2B010203, .div (.v 1) (.v 2) (.v 3)), (0x2C010200, .sqrt (.v 1) (.v 2)), (0x2D010200, .rcp (.v 1) (.v 2)),
    (0x2E010200, .rsq (.v 1) (.v 2)), (0x2F010200, .exp2 (.v 1) (.v 2)), (0x30010200, .log2 (.v 1) (.v 2)),
    (0x31010200, .sin (.v 1) (.v 2)), (0x32010200, .cos (.v 1) (.v 2))] = true := by decide +kernel
theorem test_decodes_arithmetic2 : decodesAll [(0x33010203, .dot2 (.v 1) (.v 2) (.v 3)), (0x34010203, .dot4 (.v 1) (.v 2) (.v 3)),
    (0x35010203, .lerp (.v 1) (.v 2) (.v 3)), (0x36010203, .clamp (.v 1) (.v 2) (.v 3)), (0x37010200, .frac (.v 1) (.v 2)),
    (0x38010200, .roundi (.v 1) (.v 2)), (0x3901020B, .cvt (.v 1) (.v 2) 11), (0x3A010200, .sat (.v 1) (.v 2)),
    (0x3B010203, .scale (.v 1) (.v 2) (.v 3)), (0x3C530203, .cmp ⟨.and, .lt, 3⟩ (.v 2) (.v 3)), (0x3D010203, .cmps (.v 1) (.v 2) (.v 3)),
    (0x3E010203, .sel (.v 1) (.v 2) (.v 3)), (0x3F010200, .classT (.v 1) (.v 2)), (0x40000004, .chopen 4),
    (0x41E80203, .chdec ⟨.xor, .ge, 0⟩ (.v 2) (.v 3)), (0x4206FB00, .chclose (.v 6)), (0x42060100, .reservedFieldWord 0x42060100), (0x430D0000, .chcancel ⟨true, 5⟩),
    (0x44A00003, .chstat (.s 0) 3)] = true := by decide +kernel
theorem test_decodes_bits : decodesAll [(0x50010203, .and (.v 1) (.v 2) (.v 3)), (0x51010203, .or (.v 1) (.v 2) (.v 3)), (0x52010203, .xor (.v 1) (.v 2) (.v 3)),
    (0x53010200, .not (.v 1) (.v 2)), (0x54010203, .andn (.v 1) (.v 2) (.v 3)), (0x55010203, .shl (.v 1) (.v 2) (.v 3)),
    (0x56010203, .shr (.v 1) (.v 2) (.v 3)), (0x57010203, .sar (.v 1) (.v 2) (.v 3)), (0x58010203, .rol (.v 1) (.v 2) (.v 3)),
    (0x59010200, .popc (.v 1) (.v 2)), (0x5A010200, .clz (.v 1) (.v 2)), (0x5B010200, .ctz (.v 1) (.v 2)), (0x5C010200, .brev (.v 1) (.v 2)),
    (0x5D010203, .bfe (.v 1) (.v 2) (.v 3)), (0x5E010203, .bfi (.v 1) (.v 2) (.v 3)), (0x5F0102E4, .prmt (.v 1) (.v 2) 0xE4),
    (0x60010203, .imulh (.v 1) (.v 2) (.v 3)), (0x6101021F, .lea (.v 1) (.v 2) 31), (0x62010203, .addc (.v 1) (.v 2) (.v 3)),
    (0x63010203, .subb (.v 1) (.v 2) (.v 3)), (0x64010000, .movpPack (.v 1)), (0x64000301, .movpUnpack (.v 3)),
    (0x6502030C, .pand 2 ⟨false, 3⟩ ⟨true, 4⟩), (0x6602030C, .por 2 ⟨false, 3⟩ ⟨true, 4⟩), (0x6702030C, .pxor 2 ⟨false, 3⟩ ⟨true, 4⟩),
    (0x68020B00, .pnot 2 ⟨true, 3⟩), (0x69060001, .pset 6 1), (0x6A0A0203, .isetp ⟨.set, .ne, 2⟩ (.v 2) (.v 3)),
    (0x6B010203, .bmin (.v 1) (.v 2) (.v 3))] = true := by decide +kernel
theorem test_decodes_lanes : decodesAll [(0x70010200, .mov (.v 1) (.v 2)), (0x71A0020F, .movs (.s 0) (.v 2) 15), (0x72D00200, .movb (.b 0) (.v 2)),
    (0x7300003F, .blease 63), (0x74010203, .shfl (.v 1) (.v 2) (.v 3)), (0x7501020F, .shflx (.v 1) (.v 2) 15), (0x76010201, .shflup (.v 1) (.v 2) 1),
    (0x77010208, .shfldn (.v 1) (.v 2) 8), (0x78010200, .qswx (.v 1) (.v 2)), (0x79010200, .qswy (.v 1) (.v 2)), (0x7A010200, .qswd (.v 1) (.v 2)),
    (0x7B010203, .qbcast (.v 1) (.v 2) 3), (0x7C010200, .ddx (.v 1) (.v 2)), (0x7D010200, .ddy (.v 1) (.v 2)), (0x7EA00302, .vote (.s 0) ⟨false, 3⟩ 2),
    (0x7F010200, .matchT (.v 1) (.v 2)), (0x80010205, .scanf (.v 1) (.v 2) 5), (0x81A00203, .redf (.s 0) (.v 2) 3), (0x82A00801, .voterk (.s 0) ⟨true, 0⟩ 1),
    (0x83A00007, .getsr (.s 0) 7), (0x84A00000, .setsr (.s 0) 0), (0x85010200, .time (.v 1) (.v 2)), (0x86A0A1A2, .dieq (.s 0) (.s 1) (.s 2)),
    (0x87A0000A, .capq (.s 0) 10)] = true := by decide +kernel
theorem test_decodes_memory : decodesAll [(0x900102FF, .ld (.v 1) (.v 2) 0xFF), (0x91040280, .ld2 (.v 4) (.v 2) 0x80), (0x9204027F, .ld4 (.v 4) (.v 2) 0x7F),
    (0x93010200, .ldb (.v 1) (.v 2) 0), (0x94040200, .ldb4 (.v 4) (.v 2) 0), (0x95010200, .lda (.v 1) (.v 2) 0), (0x96010201, .st (.v 1) (.v 2) 1),
    (0x9704A000, .st2 (.v 4) (.s 0) 0), (0x98F00200, .st4 .zero (.v 2) 0), (0x99010200, .stl (.v 1) (.v 2) 0), (0x9A010501, .lds (.v 1) (.v 5) 1),
    (0x9B040501, .lds4 (.v 4) (.v 5) 1), (0x9C010501, .sts (.v 1) (.v 5) 1), (0x9D040501, .sts4 (.v 4) (.v 5) 1), (0x9E010501, .ldc (.v 1) (.v 5) 1),
    (0x9F000280, .pref (.v 2) 0x80), (0xA0010205, .aadd (.v 1) (.v 2) (.v 5)), (0xA1010205, .amin (.v 1) (.v 2) (.v 5)),
    (0xA2010205, .amax (.v 1) (.v 2) (.v 5)), (0xA3010205, .aand (.v 1) (.v 2) (.v 5)), (0xA4010205, .aor (.v 1) (.v 2) (.v 5)),
    (0xA5010205, .axor (.v 1) (.v 2) (.v 5)), (0xA6010205, .axch (.v 1) (.v 2) (.v 5)), (0xA7010204, .acas (.v 1) (.v 2) (.v 4)),
    (0xA8010205, .ainc (.v 1) (.v 2) (.v 5)), (0xA9010205, .afadd (.v 1) (.v 2) (.v 5)), (0xAA00001D, .fence 3 5),
    (0xAB0105A2, .gather (.v 1) (.v 5) (.s 2)), (0xAC0405A2, .gather4 (.v 4) (.v 5) (.s 2)), (0xAD0105A2, .scatter (.v 1) (.v 5) (.s 2)),
    (0xAE0105A2, .scatadd (.v 1) (.v 5) (.s 2))] = true := by decide +kernel
theorem test_decodes_engines : decodesAll [(0xB0A0A13F, .binit (.s 0) (.s 1) 0x3F), (0xB1000002, .barr 2), (0xB2A00002, .bexp (.s 0) 2), (0xB3000002, .bwait 2),
    (0xB4060002, .btry 6 2), (0xB5000002, .bsync 2), (0xB6000002, .bring 2), (0xB8A0A207, .sluice (.s 0) (.s 2) 7), (0xB9A00007, .slstat (.s 0) 7),
    (0xBA000007, .slkill 7), (0xBBA00007, .coll (.s 0) 7), (0xBCA0A1A2, .cpys (.s 0) (.s 1) (.s 2)), (0xC006000F, .osclaim 6 15), (0xC100000F, .osrel 15),
    (0xC2A0000F, .osload (.s 0) 15), (0xC3A00003, .mfmt (.s 0) 3), (0xC4A0A103, .mloop (.s 0) (.s 1) 3), (0xC5A0A103, .msparse (.s 0) (.s 1) 3),
    (0xC6A0A103, .mgust (.s 0) (.s 1) 3), (0xC7A0A103, .mdrain (.s 0) (.s 1) 3), (0xC800A103, .mzero (.s 1) 3), (0xC9A00003, .mver (.s 0) 3),
    (0xCA00A103, .mwait (.s 1) 3), (0xCBA00003, .mstep (.s 0) 3), (0xCCA00001, .mcbook (.s 0) 1)] = true := by decide +kernel
theorem test_decodes_scene : decodesAll [(0xD00C10A0, .trace (.v 12) (.v 16) (.s 0)), (0xD10C10A0, .tracea (.v 12) (.v 16) (.s 0)), (0xD2A00007, .build (.s 0) 7),
    (0xD3A00007, .refit (.s 0) 7), (0xD4A0A200, .sfence (.s 0) (.s 2)), (0xD506A0A2, .sready 6 (.s 0) (.s 2)), (0xD600A0A2, .genpin (.s 0) (.s 2)),
    (0xD700A0A2, .genunpin (.s 0) (.s 2)), (0xD80C10A0, .march (.v 12) (.v 16) (.s 0)), (0xD90C10A0, .mloc (.v 12) (.v 16) (.s 0)),
    (0xDA0C10A0, .sample (.v 12) (.v 16) (.s 0)), (0xDBA00003, .gridset (.s 0) 3), (0xDCA00007, .compact (.s 0) 7)] = true := by decide +kernel
theorem test_decodes_system : decodesAll [(0xE006A000, .launch 6 (.s 0)), (0xE1A0A105, .nodeq (.s 0) (.s 1) 5), (0xE200A100, .binflush (.s 1)),
    (0xE300A100, .qsigAdd (.s 1)), (0xE300A101, .qsigMax (.s 1)), (0xE300A102, .qsigNotify (.s 1)), (0xF0A00010, .csrr (.s 0) 0x10),
    (0xF1A00021, .csrw (.s 0) 0x21), (0xF2A00001, .savec (.s 0) 1), (0xF3A00000, .restc (.s 0)), (0xF400A100, .dbglogSelect (.s 1)),
    (0xF400A101, .dbglogDiscard (.s 1)), (0xF400A102, .dbglogWrite (.s 1)), (0xF50000FF, .undo 255), (0xF600A100, .asgen (.s 1)),
    (0xF7A00003, .evwait (.s 0) 3)] = true := by decide +kernel
/-- First and last unassigned opcodes (R57), and words with a reserved field (R37, R59). -/
theorem test_decodes_no_instruction : decodesAll [(0x18000000, .unassignedOpcode 0x18000000), (0x4F010203, .unassignedOpcode 0x4F010203),
    (0xAF000000, .unassignedOpcode 0xAF000000), (0xB7000000, .unassignedOpcode 0xB7000000), (0xFFFFFFFF, .unassignedOpcode 0xFFFFFFFF),
    (0x0E001000, .reservedFieldWord 0x0E001000), (0x61010220, .reservedFieldWord 0x61010220), (0xB8A0A208, .reservedFieldWord 0xB8A0A208),
    (0xC0060010, .reservedFieldWord 0xC0060010)] = true := by decide +kernel

/-! ## Well-formed steps: each check of WellFormed refuses a step -/

/-- An instruction that does decode, put as a reserved-field word or an unassigned one, is ill-formed. -/
theorem test_illFormed_words : ((.unassignedOpcode 0x00000000 : Instr).wellFormed || (.reservedFieldWord 0x20010203 : Instr).wellFormed) = false := by
  decide +kernel
theorem test_illFormed_fascines : ([.rejoinMerge 0 64, .sleepExpiry 0 64 0, .sleepExpiry 0 0 4, .voterkRoundComplete 0 8, .regroupRoundComplete 0 8,
    .chdecDecide 0 64 0 0, .chdecDecide 0 0 0 16, .chainDrainComplete 0 64 0, .loadDataReturn 0 64 0, .storeAccept 0 64 0, .atomicPerform 0 64 0,
    .culvertFlitAccept 0 64 0, .gatherWindowTimeout 256, .cpysComplete 0 64 0, .asgenDrainComplete 0 64 0, .asgenDrainComplete 0 0 4, .skidStop 0 64,
    .codebookTableWritten 0 64 0, .codebookTableWritten 0 0 4, .gridLatchWritten 0 64 0, .gridLatchWritten 0 0 4, .rejoinHoldExpiry 0 64,
    .candidateUrgent 0 64 0, .candidateUrgent 0 0 4, .workGraphRecordClose 0 64 0 0, .workGraphRecordClose 0 0 16 0, .hostRequestTimeout 0 64 0] :
    List Instr).any Instr.wellFormed = false := by decide +kernel
theorem test_illFormed_engines : ([.slotLoadComplete 0 8 0, .slotLoadComplete 0 0 16, .matrixOpStart 0 8 0, .matrixOpStart 0 0 4, .matrixBlockCommit 0 8 0,
    .matrixBlockCommit 0 0 4, .matrixOpComplete 0 8 0, .matrixOpComplete 0 0 4, .inletCoreStart 0 2, .inletCoreInstruction 0 2, .mailboxPacketClose 0 2,
    .inletCoreException 0 2 0 0, .slgoWrite 0 2 0, .slklWrite 0 2 0, .mbpopWrite 0 2, .timeloRead 0 2, .binTimerExpiry 256 0 0, .binTimerExpiry 0 0 256,
    .spillwayPlace 0 256 0, .spillwayPlace 0 0 4, .spillwayTimerExpiry 0 256 0, .spillwayTimerExpiry 0 0 4] : List Instr).any Instr.wellFormed = false := by
  decide +kernel
theorem test_illFormed_hosts : ([.packetFetch 32768, .packetSelect 32768, .doorbell 32768 0, .eventPacketWrite 4096, .ctxact 2 0, .ctxact 0 4096, .ctxfree 2 0,
    .ctxfree 0 4096, .qbindBind 2 0 0, .qbindBind 0 4096 0, .qbindBind 0 0 32768, .qbindUnbind 2 0 0, .qbindUnbind 0 4096 0, .qbindUnbind 0 0 32768,
    .asgenCommand 2 0, .asgenCommand 0 4294967296, .faultend 2 0 0, .faultend 0 4096 0, .haltend 2 0 0 0, .haltend 0 4096 0 0, .haltend 0 0 256 0,
    .haltend 0 0 0 4, .diereset 2 0, .diereset 0 4, .commandComplete 2, .tsloRead 2, .nrheadWrite 2 0, .registerWrite 2 0 0, .notificationWrite 2,
    .hostPortDown 2, .hostPortTrained 2, .hostWrite ⟨2, 0, false⟩ [], .hostRead ⟨2, 1, 0⟩ 0, .hostRead ⟨0, 2, 0⟩ 0, .ctxbaseWrite ⟨2, 0⟩, .pwrcapWrite ⟨2, 0⟩] : List Instr).any Instr.wellFormed = false := by decide +kernel
theorem test_illFormed_package : ([.quotaWrite 4096 0, .ctxholdHold 4096, .ctxholdRelease 4096, .csrQbindBind 4096 0, .csrQbindBind 0 32768,
    .csrQbindUnbind 4096 0, .csrQbindUnbind 0 32768, .dbgctlWrite 4096 0, .dbghaltHalt 4096 0, .dbghaltHalt 0 16, .dbghaltResume 4096 0,
    .dbghaltResume 0 16, .linkFlitRetry 4, .linkRetrainStart 4, .linkRetrainEnd 4, .linkTrainFailure 4, .dieReset 4, .dieResetDone 4, .sidebandDieReset 4,
    .thermalThrottle 4, .thermalDieReset 4, .thermalThrottleEnd 4, .softErrorCorrected 4] : List Instr).any Instr.wellFormed = false := by decide +kernel

/-! ## Witnesses of the statements about code and fetch -/

theorem witness_DecodeOfEncode : (.add (.v 1) (.b 0) (.c 0) : Instr).wellFormed = true ∧ encode (.add (.v 1) (.b 0) (.c 0)) = some 0x2001D0E0 := by
  decide +kernel
theorem witness_UnassignedOpcodes : state0.view.isSome = true ∧ (vw state0).blocked {} = false := by decide +kernel

/-- A state in which the first fascine's sub-group is named by `sched`, at the word w of its bundle. -/
def atWord (w : Nat) : State := State.reset.withFetchWord 32 w
theorem witness_StepRunsDecodedWord_event : { state0 with sched := [.event .nop] }.sched = .event .nop :: [] := rfl
theorem witness_StepRunsDecodedWord : let s := (stepping (atWord 0x20010203) []).merged 0 0
    (atWord 0x20010203).sched = .cand 0 0 0 :: [] ∧ (s.polder? 0).any (fun p => (p.fs[0]?).any fun f => (f.r.ents[0]?).any fun e =>
      s.mayIssue p f e && !f.settle && f.clearAll 0 && okAnd (s.fetch p e.pc) fun x => e.pc.toNat / 4 % 4 == 1 && (wordAt x.1 0).toNat == 0 &&
        wordAt x.1 4 == 0x20010203 &&
        let word : Word := 0x20010203
        let t := x.2.passTo (max (f.dueBeat 0 0 e) (x.2.portFree p 0 (portOf word) e))
        let e' := { e with passed := true }.found t.beat (f.dueBeat 0 0 e) (portOf word)
        let u := (t.modFasc 0 0 (fun f => { f with r := { f.r with ents := setAt f.r.ents 0 e' } })).survey p.core (p.seat 0).1
        !u.outranked p 0 0 f e') = true := by decide +kernel
theorem witness_StepRunsDecodedWord_room : ∀ (k : Nat) (a b : Port), state0.ports[k]? = some a → state0.ports[k]? = some b → b.wait.length ≤ max 1024 a.wait.length := by
  intro k a b ha hb
  rw [ha] at hb
  obtain rfl := Option.some.inj hb
  exact Nat.le_max_right _ _
/-- The bundle of the first word has not been noted, or has held two contents. -/
def noted (s : State) (l : List (List Byte)) : State := { s with codes := if l.isEmpty then [] else [⟨((s.polder? 0).map (·.launch)).getD 0, 0, 0x400000, l⟩] }
theorem witness_FetchReadsCode : let s := stepping (atWord 0x20010203) []
    (s.polder? 0).any (fun p => s.reach p.die 0 p.die && (s.ctx? p.ctx).any fun c => okAnd (s.translate c (p.code + 4 / 16 * 16) 2 0 p.die) fun x =>
      x.1 == .glob 0 0x400000 p.die &&
        ((noted s []).codes.find? fun h => h.launch == p.launch && h.tgt == 0 && h.x == 0x400000).isNone &&
        (((noted s [List.replicate 16 1, List.replicate 16 2]).codes.find? fun h => h.launch == p.launch && h.tgt == 0 && h.x == 0x400000).any
          fun h => h.seen.length == 2)) = true ∧
    (⟨0, 0, 0x400000, [List.replicate 16 1]⟩ : CodeLog).seen.length = 1 ∧ 0x40000F < 0x400000 + 16 ∧ 0x400000 < 0x40000F + 1 := by decide +kernel
/-- A store to a bundle that has been noted adds what memory holds then (R27). -/
theorem test_code_overwritten : ((⟨0, 0, 0x400000, [List.replicate 16 1]⟩ : CodeLog).touch 0 0x40000F 1 (Memory.writeN [] 0x40000F [9])).seen =
    [List.replicate 15 0 ++ [9], List.replicate 16 1] := by decide +kernel

/-! ## Checks before an instruction's effect -/

/-- Outside the system domain; a field that is no destination; an element type that the opcode does not list. -/
theorem witness_FieldChecksTrapInOrder :
    (issues .trapret state0 && !(vw state0).blocked (ds .trapret state0) && (ds .trapret state0).priv && !(vw state0).p.sys) = true ∧
    (issues (.and .ln (.v 2) (.v 3)) state0 &&
      [(ds (.and .ln (.v 2) (.v 3)) state0).a].findSome? ((vw state0).chk false) == some .illopnd) = true ∧
    (issues (.ddx (.v 1) (.v 5)) state0 && (ds (.ddx (.v 1) (.v 5)) state0).tys == some grpFH &&
      !grpFH.contains (etype (vw state0).e.mode)) = true := by decide +kernel
/-- Each privileged word; the saved PC of its trap is its own slot (R59). -/
theorem witness_PrivilegedTrapsOutsideSystem :
    ([.trapret, .halt, .savec (.s 0) 0, .restc (.s 0), .dbglogSelect (.s 0), .dbglogDiscard (.s 0), .dbglogWrite (.s 0), .undo 1, .asgen (.s 0),
      .csrw (.s 0) 3] : List Instr).all (fun i => privileged i && issues i state0 && !(vw state0).blocked (ds i state0) && !(vw state0).p.sys &&
        leads (exec i state0) fun t => haltOf t == some 3 && pcOf t == 4) = true := by decide +kernel
/-- Guard 7 with negate: no thread (R42). -/
def noThread : State := onE state0 fun e => { e with mode := modeOf 0 ||| 8 }
theorem witness_NoActiveThreadNoEffect : (issues (.and (.v 1) (.v 5) (.v 6)) noThread &&
    (vw noThread).clean (ds (.and (.v 1) (.v 5) (.v 6)) noThread) && thr (.and (.v 1) (.v 5) (.v 6)) noThread == 0 &&
    !(ds (.and (.v 1) (.v 5) (.v 6)) noThread).member) = true := by decide +kernel
/-- s5 is poisoned, and read; the predicates are poisoned, and the guard is p0. -/
def poisonedReg : State := onR state0 fun r => { r with spois := setAt r.spois 5 true }
def poisonedGuard : State := onR (onE state0 fun e => { e with mode := 0x800000 }) fun r => { r with ppois := 1 }
theorem witness_PoisonedSourceKillsContext :
    (issues (.mov (.v 1) (.s 5)) poisonedReg && (vw poisonedReg).decoded (ds (.mov (.v 1) (.s 5)) poisonedReg) &&
      !(rds (.mov (.v 1) (.s 5)) poisonedReg).breaks (ds (.mov (.v 1) (.s 5)) poisonedReg) &&
      (rds (.mov (.v 1) (.s 5)) poisonedReg).consumes (ds (.mov (.v 1) (.s 5)) poisonedReg) (thr (.mov (.v 1) (.s 5)) poisonedReg)) = true ∧
    (issues (.mov (.v 1) (.s 6)) poisonedGuard && (vw poisonedGuard).decoded (ds (.mov (.v 1) (.s 6)) poisonedGuard) &&
      (ds (.mov (.v 1) (.s 6)) poisonedGuard).guard && (rds (.mov (.v 1) (.s 6)) poisonedGuard).guardPois) = true := by decide +kernel
theorem witness_DeadContext : (state0.ctx? 0).any (fun x => !x.dead) = true := by decide +kernel
/-- The context of a consumed poison is DEAD, and its polder retires (R367, R371). -/
theorem test_poison_kills : leads (exec (.mov (.v 1) (.s 5)) poisonedReg) (fun t => (t.ctx? 0).any Ctx.dead &&
    t.polders.all fun p => p.life == .draining && p.fs.all Fascine.retired) = true := by
  decide +kernel
/-- A polder that is running, and one that has halted. -/
def haltedState : State := state0.takeTrap 0 0 0 4 4 { t := .illopnd }
theorem witness_TrapEntryHaltsPolder : (state0.polder? 0).any (fun p => p.halt.isNone && (p.fs[0]?).any fun x => (x.r.ents[0]?).isSome) = true ∧
    (haltedState.polder? 0).any (fun p => p.halt.isSome && (p.fs[1]?).any fun x => (x.r.ents[0]?).isSome) = true ∧
    ((state0.takeTrap 0 1 0 4 4 { t := .illopnd }).polder? 0).any (fun p => p.halt.any fun y => y.tself.isNone && y.time == state0.time && 0 < y.f) = true := by
  decide +kernel

/-! ## Bit stage, moves and lanes -/

/-- Words of `wordResult`, over a v- and an s-register. -/
def bitWords : List Instr :=
  [.and (.v 1) (.v 5) (.v 7), .or (.v 1) (.v 5) (.v 7), .xor (.v 1) (.v 5) (.v 7), .andn (.s 3) (.s 0) (.s 2), .not (.v 1) (.v 5),
   .shl (.v 1) (.v 7) (.v 5), .shr (.v 1) (.v 2) (.v 5), .sar (.v 1) (.v 2) (.v 5), .rol (.v 1) (.v 2) (.v 5), .popc (.v 1) (.v 5), .clz (.v 1) (.v 5),
   .ctz (.v 1) (.v 5), .brev (.v 1) (.v 5), .bfe (.v 1) (.v 2) (.v 5), .bfi (.v 5) (.v 2) (.v 7), .prmt (.v 1) (.v 2) 0x1B, .lea (.v 2) (.v 5) 31,
   .imulh (.v 1) (.v 2) (.v 2), .bmin (.v 1) (.v 5) (.v 7), .mov (.v 1) .tid, .lit (.v 1) 0x8000, .lith (.v 5) 0xABCD]
theorem witness_BitStageResults : bitWords.all (fun i => runs i state0 && (wordResult i).any fun x => (rds i state0).capOk [x.1]) = true := by
  decide +kernel
/-- A fascine whose declared peak is 1. -/
def fullPeak : State := onP state0 fun p => { p with regs := 1 }
theorem witness_BitStageResults_regcap : (runs (.mov (.v 1) (.v 5)) fullPeak && !(rds (.mov (.v 1) (.v 5)) fullPeak).capOk [.v 1] &&
    leads (exec (.mov (.v 1) (.v 5)) fullPeak) fun t => haltOf t == some 9) = true := by decide +kernel
/-- Hand-computed: 6 and 3; 3 shifted by 6; sign of a 2-element type; byte order; a full shift gives 0 (R140 to R142). -/
theorem test_bit_values : leads (exec (.and (.v 1) (.v 5) (.v 7)) state0) (fun t => vreg 1 6 t == 2 && vreg 1 4 t == 0 && pcOf t == 8) = true ∧
    leads (exec (.shl (.v 1) (.v 7) (.v 5)) state0) (fun t => vreg 1 6 t == 0xC0) = true ∧
    leads (exec (.shl (.v 1) (.v 7) (.v 2)) (onR state0 fun r => { r with vb := [flat 2 32, flat 7 3] })) (fun t => vreg 1 6 t == 0) = true ∧
    leads (exec (.popc (.v 1) (.v 2)) state0) (fun t => vreg 1 15 t == 2) = true ∧
    leads (exec (.lit (.v 1) 0x8000) state0) (fun t => vreg 1 0 t == 0xFFFF8000) = true ∧
    leads (exec (.lith (.v 5) 0xABCD) state0) (fun t => vreg 5 9 t == 0xABCD0009) = true ∧
    leads (exec (.prmt (.v 1) (.v 2) 0x1B) state0) (fun t => vreg 1 0 t == 0x00006000) = true := by decide +kernel
def queryWords : List Instr :=
  [.getsr (.s 3) 0, .getsr (.s 3) 1, .getsr (.s 3) 2, .getsr (.s 3) 3, .getsr (.s 3) 4, .getsr (.s 3) 5, .getsr (.s 3) 6, .getsr (.v 1) 7,
   .chstat (.s 3) 3, .dieq (.s 3) (.s 1) (.s 2), .capq (.s 3) 0, .mver (.s 3) 0, .csrr (.s 3) 0x10, .vote (.s 3) ⟨false, 0⟩ 0,
   .vote (.s 3) ⟨false, 0⟩ 1, .vote (.s 3) ⟨false, 0⟩ 2, .nodeq (.s 3) (.s 1) 0, .nodeq (.s 3) (.s 1) 5]
theorem witness_QueryResults : queryWords.all (fun i => runs i state0 && (queryResult i).any fun x => (rds i state0).capOk [x.1]) = true := by decide +kernel
/-- A matrix operation on accumulator 0 runs. -/
def multiplying (kind : Nat) : State := onP state0 fun p => { p with engines := p.engines.map fun (e : Engine) =>
  { e with q := [{ id := 3, kind := kind, a := 0, running := true, units := 4, reached := [2] }] } }
theorem witness_QueryResults_mstep : [2, 3].all (fun k => runs (.mstep (.s 3) 0) (multiplying k) && ((vw (multiplying k)).engine.running? 0).any (fun o => o.kind == k && o.reached == [2]) &&
      (rds (.mstep (.s 3) 0) (multiplying k)).capOk [.s 3]) = true ∧ (runs (.mstep (.s 3) 0) state0 && ((vw state0).engine.running? 0).isNone) = true := by decide +kernel
/-- Every thread's p0 holds: any 1, all 1, ballot 0xFFFF (R147); entry 0 of one in use (R139). -/
theorem test_query_values : leads (exec (.vote (.s 3) ⟨false, 0⟩ 2) state0) (fun t => sreg 3 t == 0xFFFF) = true ∧
    leads (exec (.vote (.s 3) ⟨true, 0⟩ 0) state0) (fun t => sreg 3 t == 0) = true ∧
    leads (exec (.getsr (.s 3) 1) state0) (fun t => sreg 3 t == 0xFFFF) = true ∧
    leads (exec (.getsr (.s 3) 7) state0) (fun t => sreg 3 t == 1) = true := by decide +kernel
def laneWords : List Instr :=
  [.shfl (.v 1) (.v 5) (.v 7), .shfl (.v 1) (.v 5) (.v 2), .shflx (.v 1) (.v 5) 15, .shflup (.v 1) (.v 5) 1, .shfldn (.v 1) (.v 5) 8, .qswx (.v 1) (.v 5),
   .qswy (.v 1) (.v 5), .qswd (.v 1) (.v 5), .qbcast (.v 1) (.v 5) 3, .movs (.s 3) (.v 5) 15]
theorem witness_LaneResults : laneWords.all (fun i => runs i state0 && (laneSource i).any fun x =>
      let u := x.2.2 (rds i state0)
      (threadsOf (thr i state0)).all (fun t => !(rds i state0).pois x.2.1 (u t)) && (rds i state0).capOk [x.1]) = true ∧
    (runs (.matchT (.v 1) (.v 5)) state0 && (rds (.matchT (.v 1) (.v 5)) state0).capOk [.v 1]) = true := by decide +kernel
/-- Thread 3 of v5 is poisoned, and thread 2 reads it. -/
def poisonedLane : State := onR state0 fun r => { r with vb := [⟨5, 0xFFFF, 8, List.replicate 16 1⟩] }
theorem witness_LaneResults_poison : (runs (.qswx (.v 1) (.v 5)) poisonedLane &&
    (threadsOf (thr (.qswx (.v 1) (.v 5)) poisonedLane)).any (fun t => (rds (.qswx (.v 1) (.v 5)) poisonedLane).pois (.v 5) (t ^^^ 1)) &&
    leads (exec (.qswx (.v 1) (.v 5)) poisonedLane) fun t => (t.ctx? 0).any Ctx.dead) = true := by decide +kernel
theorem test_lane_values : leads (exec (.shflx (.v 1) (.v 5) 15) state0) (fun t => vreg 1 0 t == 15 && vreg 1 15 t == 0) = true ∧
    leads (exec (.shflup (.v 1) (.v 5) 1) state0) (fun t => vreg 1 0 t == 0 && vreg 1 15 t == 14) = true ∧
    leads (exec (.shfl (.v 1) (.v 5) (.v 2)) state0) (fun t => vreg 1 6 t == 6) = true ∧
    leads (exec (.qbcast (.v 1) (.v 5) 3) state0) (fun t => vreg 1 4 t == 7) = true ∧
    leads (exec (.matchT (.v 1) (.v 5)) state0) (fun t => vreg 1 4 t == 0x10) = true ∧
    leads (exec (.movs (.s 3) (.v 5) 15) state0) (fun t => sreg 3 t == 15) = true := by decide +kernel
theorem witness_RegisterWriteReadsBack : (159 : Nat) < 160 ∧ (47 : Nat) < (vw state0).f.r.s.length ∧ (vw noThread).f.r.vb ≠ [] ∧
    (vw (onR state0 fun r => { r with vb := [] })).f.r.vb = [] := by decide +kernel
theorem witness_CarryResults : ([.addc (.v 1) (.v 5) (.v 2), .subb (.v 1) (.v 5) (.v 2), .addc (.s 3) (.s 0) (.s 0)] : List Instr).all (fun i =>
    runs i state0 && thr i state0 &&& (vw state0).f.r.ppois == 0 && (rds i state0).capOk [(.v 1), (.s 3)]) = true := by decide +kernel
/-- 0 - 0x60_0000 borrows; 6 + 0x60_0000 carries nothing (R143). -/
theorem test_carry_values : leads (exec (.subb (.v 1) (.v 5) (.v 2)) state0) (fun t => vreg 1 0 t == 0xFFA00000 && (preds 0 t).getLsbD 6) = true ∧
    leads (exec (.addc (.v 1) (.v 5) (.v 2)) state0) (fun t => vreg 1 6 t == 0x600006 && !(preds 6 t).getLsbD 6) = true := by decide +kernel
theorem witness_PredicateResults : ([.pand 1 ⟨false, 0⟩ ⟨true, 2⟩, .por 1 ⟨false, 0⟩ ⟨true, 2⟩, .pxor 1 ⟨false, 0⟩ ⟨true, 2⟩, .pnot 1 ⟨false, 0⟩, .pset 7 1,
    .isetp ⟨.set, .lt, 1⟩ (.v 5) (.v 7), .isetp ⟨.and, .ge, 0⟩ (.v 5) (.v 7), .isetp ⟨.xor, .ge, 7⟩ (.v 5) (.v 7), .movpUnpack (.v 5),
    .movpPack (.v 1), .movpPack (.s 3)] : List Instr).all (fun i => runs i state0 && thr i state0 &&& (vw state0).f.r.ppois == 0 &&
      (rds i state0).capOk [(.v 1), (.s 3)]) = true := by decide +kernel
theorem test_predicate_values : leads (exec (.isetp ⟨.set, .lt, 1⟩ (.v 5) (.v 7)) state0) (fun t => preds 2 t == 3 && preds 3 t == 1) = true ∧
    leads (exec (.movpUnpack (.v 5)) state0) (fun t => preds 9 t == 9) = true ∧
    leads (exec (.movpPack (.v 1)) state0) (fun t => vreg 1 0 t == 0x81) = true ∧
    leads (exec (.pset 7 1) state0) (fun t => preds 0 t == 1) = true := by decide +kernel

/-! ## Numbers and chains -/

theorem witness_FoldResults : ([.scanf (.v 1) (.v 5) 0, .scanf (.v 1) (.v 5) 5, .scanf (.s 3) (.s 2) 0, .redf (.s 3) (.v 5) 0, .redf (.v 1) (.v 5) 3] :
      List Instr).all (fun i => runs i state0 && modeTen (vw state0).e.mode == 0 && !((threadsOf (thr i state0)).any ((rds i state0).pois (.v 5))) &&
        (rds i state0).capOk [(.v 1)]) = true ∧
    ([.ddx (.v 1) (.v 5), .ddy (.v 1) (.v 5)] : List Instr).all (fun i => runs i (typed 6 state0) && modeTen (vw (typed 6 state0)).e.mode == 0 &&
      (threadsOf (thr i (typed 6 state0))).all (fun t => !(rds i (typed 6 state0)).pois (.v 5) t) && (rds i (typed 6 state0)).capOk [.v 1]) = true := by
  decide +kernel
/-- Thread 3 of v5 is poisoned; every exception traps, and v5 is alternately 2^127 and -2^127: sums and differences overflow. -/
def huge : State := onR (onE state0 fun e => { e with mode := modeOf 6 ||| 0x1F0000 }) fun r =>
  { r with vb := [flat 2 0x7F000000, ⟨5, 0xFFFF, 0, (List.range 16).map fun t => if t / 2 % 2 = t % 2 then 0x7F000000 else 0xFF000000⟩] }
theorem witness_FoldResults_stops :
    (runs (.scanf (.v 1) (.v 5) 0) poisonedLane && (threadsOf (thr (.scanf (.v 1) (.v 5) 0) poisonedLane)).any
      ((rds (.scanf (.v 1) (.v 5) 0) poisonedLane).pois (.v 5))) = true ∧
    ([.scanf (.v 1) (.v 2) 0, .redf (.v 1) (.v 2) 0] : List Instr).all (fun i => runs i huge &&
      foldExc (rds i huge) 0 (.v 2) (threadsOf (thr i huge)) &&& modeTen (vw huge).e.mode != 0) = true ∧
    ([(.ddx (.v 1) (.v 5), 1), (.ddy (.v 1) (.v 5), 2)] : List (Instr × Nat)).all (fun x => runs x.1 huge &&
      (pairDiff (rds x.1 huge) (.v 5) x.2 0).exc &&& modeTen (vw huge).e.mode != 0) = true ∧
    (runs (.ddx (.v 1) (.v 5)) (typed 6 poisonedLane) && (rds (.ddx (.v 1) (.v 5)) (typed 6 poisonedLane)).pois (.v 5) 3) = true := by decide +kernel
/-- Of 0, 1, ..., 15: running sums 0, 1, 3, 6, ..., sum 120, and 15, maximum 15 (R150). -/
theorem test_fold_values : leads (exec (.scanf (.v 1) (.v 5) 0) state0) (fun t => vreg 1 3 t == 6 && vreg 1 15 t == 120) = true ∧
    leads (exec (.redf (.s 3) (.v 5) 0) state0) (fun t => sreg 3 t == 120) = true ∧
    leads (exec (.redf (.s 3) (.v 5) 2) state0) (fun t => sreg 3 t == 15) = true := by decide +kernel
/-- Types 0 to 5, last element: the premises of the first clause; type 1 without SATF: those of the second. -/
theorem witness_IntegerMembers : (List.range 6).all (fun ty => etype (modeOf ty) == ty && 32 / widthT ty - 1 < 32 / widthT ty) = true ∧
    etype (modeOf 1) < 2 ∧ modeSat (modeOf 1) = false := by decide +kernel
/-- Elements of value 1 of types 6, 7 and 8 meet the float clauses, with 1 + 1 and 1 / 1; a conversion of 5, and of 1.5 towards zero. -/
theorem witness_IntegerMembers_float : ([(6, 0x3F800000), (7, 0x3C003C00), (8, 0x3F803F80)] : List (Nat × Word)).all (fun x =>
      etype (modeOf x.1) == x.1 && modeRnd (modeOf x.1) == 0 && modePrec (modeOf x.1) == 0 && !modeFtz (modeOf x.1) &&
      expField x.1 (elemBits x.1 x.2 0) != 2 ^ (widthT x.1 - 1 - fracBits x.1) - 1 && decide (units x.1 (elemBits x.1 x.2 0) = 2 ^ oneUnits x.1) &&
      decide ((2 * 2 ^ oneUnits x.1 : Nat) ≤ (2 ^ (fracBits x.1 + 1) - 1) * 2 ^ (2 ^ (widthT x.1 - 1 - fracBits x.1) - 3))) = true ∧
    (5 : Word) ≠ 0 ∧ etype (modeOf 0 ||| 0x100) = 0 ∧ modeRnd (modeOf 0 ||| 0x100) = 1 ∧ finiteEl 6 0x3FC00000 := by unfold finiteEl; decide +kernel
/-- 1 + 1 is 2, in f32 and in the first element of bf16x2; 5 is 5.0; 1.5 towards zero is 1, inexact (R66, R75, R78). -/
theorem test_float_values : (arithMember ⟨modeOf 6, true, 0⟩ .add 0 (.word 0x3F800000) (.word 0x3F800000)).word = 0x40000000 ∧
    (arithMember ⟨modeOf 8, true, 0⟩ .add 0 (.word 0x3F80) (.word 0x3F80)).word.toNat % 65536 = 0x4000 ∧
    (cvtMember ⟨modeOf 6, true, 0⟩ 0 [] (.word 5)).word = 0x40A00000 ∧ (cvtMember ⟨modeOf 0 ||| 0x100, true, 0⟩ 6 [] (.word 0x3FC00000)).word = 1 := by decide +kernel
def memberWords : List Instr :=
  [.add (.v 1) (.v 5) (.v 7), .sub (.v 1) (.v 5) (.v 7), .mul (.v 1) (.v 5) (.v 7), .mad (.v 6) (.v 5) (.v 7), .msb (.v 6) (.v 5) (.v 7),
   .nmad (.v 6) (.v 5) (.v 7), .nmsb (.v 6) (.v 5) (.v 7), .min (.v 1) (.v 5) (.v 7), .max (.v 1) (.v 5) (.v 7), .abs (.v 1) (.v 5), .neg (.v 1) (.v 5),
   .clamp (.v 5) (.v 6) (.v 7), .cvt (.v 1) (.v 5) 1,
   .cmp ⟨.set, .lt, 1⟩ (.v 5) (.v 7), .cmps (.v 1) (.v 5) (.v 7), .sel (.v 1) (.v 5) (.v 7)]
def floatWords : List Instr :=
  [.div (.v 1) (.v 5) (.v 7), .sqrt (.v 1) (.v 5), .rcp (.v 1) (.v 7), .rsq (.v 1) (.v 7), .exp2 (.v 1) (.v 5), .log2 (.v 1) (.v 5), .sin (.v 1) (.v 5),
   .cos (.v 1) (.v 5), .lerp (.v 6) (.v 5) (.v 7), .frac (.v 1) (.v 5), .sat (.v 1) (.v 5), .roundi (.v 1) (.v 5), .scale (.v 1) (.v 5) (.v 7), .classT (.v 1) (.v 5)]
/-- The premises of ChainMemberAlone. -/
def alone (i : Instr) (s : State) : Bool :=
  runs i s && (i.member?).any fun m => m.op != .cancel && (memberThreads m (vw s) (ds i s) &&& (vw s).f.r.ppois) == 0 && !(vw s).joins (ds i s) &&
    !(vw s).opens (ds i s) && decide ((vw s).f.chains.length < 4) && !(vw s).f.chains.any Chain.fills && (rds i s).capOk [m.a]
/-- A stream of the sub-group to which the next slot belongs (R94): state0 after `i`, the latch at distance 0. -/
def streaming (s : State) (i : Instr) : State :=
  match exec i { s with cur := s.cur.map fun l => { l with word := (encode i).getD 0 } } with
  | .next t => { t with cur := some { h := 0, f := 0, g := 0, dist := 0 } }
  | _ => s
theorem witness_ChainMemberAlone : memberWords.all (alone · state0) = true ∧ floatWords.all (alone · (typed 6 state0)) = true ∧
    (alone (.dot2 (.v 6) (.v 5) (.v 7)) (typed 2 state0) && alone (.dot4 (.v 6) (.v 5) (.v 7)) (typed 4 state0)) = true ∧
    (runs (.chcancel ⟨false, 0⟩) state0 && !(vw state0).joins (ds (.chcancel ⟨false, 0⟩) state0) &&
      !(vw state0).opens (ds (.chcancel ⟨false, 0⟩) state0)) = true := by decide +kernel
def joining : State := streaming (typed 6 state0) (.mul .zero (.v 5) (.v 7))
def opened : State := { streaming state0 (.chopen 2) with cur := some { h := 0, f := 0, g := 0 } }
def joins (i : Instr) (s : State) : Bool :=
  runs i s && (i.member?).any fun m => (memberThreads m (vw s) (ds i s) &&& (vw s).f.r.ppois) == 0 && (rds i s).capOk [m.a] &&
    ((rds i s).chain?).any (fun c => (vw s).joins (ds i s) || c.nopen != 4 || !(vw s).f.chains.any Chain.fills) && ((vw s).joins (ds i s) || (vw s).opens (ds i s))
theorem witness_ChainMemberJoins : ([.add (.v 1) .ch (.v 7), .chclose (.v 1), .chcancel ⟨false, 0⟩, .chdec ⟨.set, .lt, 1⟩ .ch (.v 7),
      .mul .zero .ch .ch] : List Instr).all (joins · joining) = true ∧ joins (.add (.v 1) (.v 5) (.v 7)) opened = true := by decide +kernel
/-- Chains in flight that have run for n beats: streaming; draining; draining with an exception that the mode traps. -/
def chained (st : Nat) (m : BitVec 24) (x : BitVec 5) (n : Nat) : State :=
  onF state0 fun f => { f with chains := [{ id := 7, g := 0, st := st, mode := m, exc := x, amask := 0xFFFF, ran := n }] }
/-- Its entry waits for something of its own, or stands eligible. -/
def waiting (s : State) : State := onE s fun e => { e with stuck := true }
def eligible (s : State) : State := onE s fun e => { e with elig := true, port := 1 }
def drains (s : State) (st : Nat) (stands trapped first : Bool) : Bool := (s.polder? 0).any fun p => (p.fs[0]?).any fun x =>
  (x.chains.find? (·.id == 7)).any fun c => c.st == st && decide (c.soonest ≤ c.ran) == stands && (c.excAll &&& modeTen c.mode != 0) == trapped &&
    (modeTen c.mode == 0 && s.issuesFirst p 0 c.g) == first && p.halt.isNone && p.stopReq.isNone && !p.dieHalt
theorem witness_ChainDrains : (drains (waiting (chained 1 0 0 99)) 1 true false false && drains (waiting (chained 2 0 1 0)) 2 false false false &&
    drains (waiting (chained 2 0 1 99)) 2 true false false && drains (chained 2 0x010067 1 99) 2 true true false &&
    drains (eligible (chained 2 0 1 99)) 2 true false true) = true ∧
    (onP (chained 2 0 1 99) fun p => { p with dieHalt := true }).polder? 0 ≠ none := by decide +kernel
/-- Four chains are in flight. -/
def fourChains : State := onF state0 fun f => { f with chains := (List.range 4).map fun k => { id := k, g := 1, st := 2 } }
theorem witness_ChainMemberAlone_full : (runs (.add (.v 1) (.v 5) (.v 7)) fourChains && !(vw fourChains).joins (ds (.add (.v 1) (.v 5) (.v 7)) fourChains) &&
    !(vw fourChains).opens (ds (.add (.v 1) (.v 5) (.v 7)) fourChains)) = true := by decide +kernel
/-- A chain that started 99 beats ago takes threads no more; one that has just started does. -/
theorem witness_ChainMemberAlone_fills : (runs (.add (.v 1) (.v 5) (.v 7)) { joining with cur := state0.cur } &&
    (vw joining).f.chains.any Chain.fills && !(vw { joining with cur := state0.cur }).joins (ds (.add (.v 1) (.v 5) (.v 7)) { joining with cur := state0.cur }) &&
    !(vw { joining with cur := state0.cur }).opens (ds (.add (.v 1) (.v 5) (.v 7)) { joining with cur := state0.cur })) = true := by decide +kernel
/-- A chain that ended with a decision, of which no token has been sent. -/
def deciding : State :=
  onF (streaming joining (.chdec ⟨.set, .lt, 1⟩ .ch (.v 7))) fun f => { f with chains := f.chains.map fun (c : Chain) => { c with st := 2, ran := 999 } }
theorem witness_ChainControl : runs (.chopen 4) state0 = true ∧ runs (.chopen 1) fourChains = true ∧ (vw fourChains).f.chains.length = 4 ∧
    (issues (.and (.v 1) (.v 5) (.v 7)) opened && (vw opened).decoded (ds (.and (.v 1) (.v 5) (.v 7)) opened) &&
      ((vw opened).chain?).any (fun c => 0 < c.nopen) && !(vw opened).joins (ds (.and (.v 1) (.v 5) (.v 7)) opened) &&
      !(vw opened).opens (ds (.and (.v 1) (.v 5) (.v 7)) opened)) = true ∧
    ((deciding.polder? 0).any fun p => (p.fs[0]?).any fun x => (x.chains.head?).any fun c => !p.frozen && !c.tokens.getLsbD 3 && x.chstat.length == 4 &&
      (c.mems.findIdx? Member.sender).any fun k => (c.lanes.findIdx? (· == 3)).any fun j => decide (c.startOf j k ≤ c.ran)) = true := by decide +kernel
/-- The words of the example of spec/04_chain.md: 3.0 - 1.25, its square 3.0625, and what CHCLOSE delivers of it (R116). -/
def example4 : State := onR (typed 6 state0) fun r => { r with vb := [flat 1 0x40400000, flat 2 0x3FA00000, flat 3 0x3FE00000] }
theorem test_chain_values : leads (exec (.sub (.v 5) (.v 1) (.v 2)) example4) (fun t => vreg 5 0 t == 0x3FE00000) = true ∧
    leads (exec (.mul (.v 5) (.v 3) (.v 3)) example4) (fun t => vreg 5 0 t == 0x40440000) = true ∧
    leads (exec (.chclose (.v 6)) (streaming example4 (.mul .zero (.v 3) (.v 3)))) (fun t => vreg 6 0 t == 0x40440000) = true ∧
    leads (exec (.chdec ⟨.set, .lt, 1⟩ .ch (.v 2)) (streaming example4 (.mul .zero (.v 3) (.v 3)))) (fun t => !(preds 0 t).getLsbD 1) = true := by
  decide +kernel
/-- Integer members wrap, saturate and compare (R66, R108, R110); float corners by R78, R79: 1/3 and the root of 2. -/
theorem test_member_values : leads (exec (.sub (.v 1) (.v 5) (.v 7)) state0) (fun t => vreg 1 0 t == 0xFFFFFFFD) = true ∧
    leads (exec (.sub (.v 1) (.v 5) (.v 7)) (onE state0 fun e => { e with mode := modeOf 1 ||| 0x800 })) (fun t => vreg 1 0 t == 0) = true ∧
    leads (exec (.mad (.v 6) (.v 5) (.v 7)) state0) (fun t => vreg 6 4 t == 14) = true ∧
    leads (exec (.cmp ⟨.set, .lt, 1⟩ (.v 5) (.v 7)) state0) (fun t => preds 2 t == 3 && preds 3 t == 1) = true ∧
    leads (exec (.clamp (.v 5) (.v 6) (.v 7)) state0) (fun t => vreg 5 0 t == 2 && vreg 5 9 t == 3) = true ∧
    leads (exec (.rcp (.v 1) (.v 2)) (onR (typed 6 state0) fun r => { r with vb := [flat 2 0x40400000] })) (fun t => vreg 1 0 t == 0x3EAAAAAB) = true ∧
    leads (exec (.sqrt (.v 1) (.v 2)) (onR (typed 6 state0) fun r => { r with vb := [flat 2 0x40000000] })) (fun t => vreg 1 0 t == 0x3FB504F3) = true ∧
    leads (exec (.div (.v 1) (.v 2) (.v 3)) (onR (typed 6 state0) fun r => { r with vb := [flat 2 0x3F800000] })) (fun t => vreg 1 0 t == 0x7F800000) = true := by decide +kernel

/-! ## Control -/

/-- At slot 3 of the bundle (offset 12), so that a branch has slots behind it; v159 holds the slot 0x28, v8 a byte offset that is no slot. -/
def late : State := onR (onE state0 fun e => { e with pc := 12 }) fun r => { r with vb := [flat 5 1, flat 8 0x10, flat 9 0x28, flat 159 0x28] }
def branches : List Instr :=
  [.bra (-2), .bra 7, .brc ⟨false, 0⟩ 1, .brc ⟨false, 1⟩ 1, .dbnz (.v 5) 1, .dbnz (.v 9) (-2), .brx (.v 9), .call 3, .callx (.v 9), .ret]
theorem witness_BranchesPlaceTheirGroups : branches.all (fun i => runs i late && (branchOf i (ds i late) (rds i late) (thr i late)).any fun b =>
    (rds i late).capOk b.names && ((b.writes (ds i late) (rds i late) ((vw late).writes (ds i late)) (thr i late)).place
      ((rds i late).groups b.taken b.dest).1 ((rds i late).groups b.taken b.dest).2).isSome) = true := by decide +kernel
/-- Odd threads branch away, every entry is in use and the entry has parked threads already: no place for a second group (R159). -/
def fullTable : State := onR late fun r =>
  { r with ents := r.ents.map fun e => { e with val := true, mode := modeOf 0, pc := 12, mask := 0xFFFF, park := 0x8000 },
           preds := (List.range 16).map fun t => BitVec.ofNat 8 (t % 2) }
theorem witness_BranchesPlaceTheirGroups_splitov : (runs (.brc ⟨false, 0⟩ 2) fullTable &&
    (branchOf (.brc ⟨false, 0⟩ 2) (ds (.brc ⟨false, 0⟩ 2) fullTable) (rds (.brc ⟨false, 0⟩ 2) fullTable) (thr (.brc ⟨false, 0⟩ 2) fullTable)).any fun b =>
      (((vw fullTable).writes (ds (.brc ⟨false, 0⟩ 2) fullTable)).place ((rds (.brc ⟨false, 0⟩ 2) fullTable).groups b.taken b.dest).1
        ((rds (.brc ⟨false, 0⟩ 2) fullTable).groups b.taken b.dest).2).isNone) = true ∧
    leads (exec (.brc ⟨false, 0⟩ 2) fullTable) (fun t => haltOf t == some 12) = true := by decide +kernel
theorem witness_BadTargetsTrap : ([.bra (-3), .call (-3), .brc ⟨false, 0⟩ (-3), .dbnz (.v 9) (-3)] : List Instr).all (fun i => runs i late &&
      (directTarget (vw late) (-3)).isNone && (directTarget (vw late) (-2)).isSome && leads (exec i late) fun t => haltOf t == some 4 && pcOf t == 12) = true ∧
    thr (.brc ⟨false, 0⟩ (-3)) late &&& maskOf ((rds (.brc ⟨false, 0⟩ (-3)) late).rdP ⟨false, 0⟩) ≠ 0 ∧
    ([.brx (.v 8), .callx (.v 8)] : List Instr).all (fun i => runs i late && (threadsOf (thr i late)).any (fun t =>
      !validSlot ((rds i late).rd (.v 8) t).toNat)) = true := by decide +kernel
/-- Slot index 2, 2 slots back is slot 0 at offset 4; 7 ahead is slot 9, bundle 3 (R24, R26). A call leaves the next slot in v159. -/
theorem test_branch_values : leads (exec (.bra (-2)) late) (fun t => pcOf t == 4) = true ∧ leads (exec (.bra 7) late) (fun t => pcOf t == 0x34) = true ∧
    leads (exec (.call 3) late) (fun t => pcOf t == 0x1C && vreg 159 5 t == 0x14) = true ∧ leads (exec .ret late) (fun t => pcOf t == 0x28) = true ∧
    leads (exec (.dbnz (.v 5) 1) late) (fun t => vreg 5 0 t == 0 && pcOf t == 0x14) = true := by decide +kernel
theorem witness_SlotCounts : validSlot 4 = true ∧ validSlot 12 = true ∧ validSlot 0x34 = true ∧ validSlot (0xFFFFFFFC : Word).toNat = true := by decide +kernel
theorem witness_PlacementOfGroups : (vw state0).f.freeEntries = [1, 2, 3] ∧ (vw fullTable).f.freeEntries = [] ∧ (vw fullTable).e.park ≠ 0 ∧
    (let v := vw (onR late fun r => { r with ents := r.ents.map fun e => { e with val := true } })
     v.f.freeEntries = [] ∧ v.e.park = 0 ∧ v.e.rjf = false) ∧ (vw state0).e.park = 0 ∧ (vw state0).e.rjf = false := by decide +kernel

theorem witness_WaitsAndModes : ([.nop, .yield, .sleep 0xFFFFFF, .waitc 0 0 0 0, .waitf 0xFFF, .mode 0x80097A, .modex (.s 3) (.s 0) 0xFF, .modex .zero (.s 1) 0,
      .demote, .qfill, .setsr (.s 0) 0, .time (.v 1) (.v 4)] : List Instr).all (runs · state0) = true ∧
    runs (.waitc 1 0 0 0) (onF state0 fun f => { f with cnt := [2, 0, 0, 0] }) = true ∧
    runs (.waitf 1) (onF state0 fun f => { f with cnt := [2, 0, 0, 0] }) = true ∧ (rds (.time (.v 1) (.v 4)) state0).capOk [.v 1, .v 4] = true := by decide +kernel
theorem test_wait_values : leads (exec (.waitc 1 0 0 0) (onF state0 fun f => { f with cnt := [2, 0, 0, 0] })) (fun t => pcOf t == 4) = true ∧
    leads (exec (.waitc 2 0 0 0) (onF state0 fun f => { f with cnt := [2, 0, 0, 0] })) (fun t => pcOf t == 8) = true ∧
    leads (exec (.waitf 0x800) (onF state0 fun f => { f with tok := 0x80 })) (fun t => pcOf t == 4) = true ∧
    leads (exec (.modex (.s 3) (.s 2) 1) state0) (fun t => sreg 3 t == 0x800007 &&
      (t.fasc? 0 0).any fun f => (f.r.ents[0]?).any fun e => e.mode == 0x800002) = true ∧
    leads (exec (.mode 0x8000C7) state0) (fun t => haltOf t == some 2) = true := by decide +kernel
/-- A fascine with a second entry in use. -/
def split2 : State := onR state0 fun r => { r with ents := modAt r.ents 1 fun e => { e with val := true, mask := 0xFF00 } }
def notHolder : State := onP state0 fun p => { p with lease := 1 }
/-- A load of the first entry is in flight. -/
def op0 : MemOp := { id := 0, g := 0, mask := 0xFFFF, kind := .load true false, cntr := 0, dst := some (.v 9), wmask := 0xFFFF,
                     acc := [{ t := 3, loc := .glob 0 0x600000 0, data := [] }] }
def pending0 : State := onF state0 fun f => { f with ops := [op0], nextOp := 1, cnt := [1, 0, 0, 0] }
theorem witness_ExitsTrapsAndRounds : ([.exit, .trap 5, .bkpt 0xFFFFFF, .voterk (.s 3) ⟨false, 0⟩ 2, .regroup (.v 9) ⟨false, 0⟩ 1, .movb (.b 15) (.s 0),
      .movb (.v 1) (.b 0), .blease 1] : List Instr).all (runs · state0) = true ∧ runs .halt (sysOf state0) = true ∧
    (([.voterk (.s 3) ⟨false, 0⟩ 2, .regroup (.v 9) ⟨false, 0⟩ 1] : List Instr).all (runs · split2) &&
      decide (1 < ((vw split2).f.r.ents.filter (·.val)).length)) = true ∧
    (runs (.blease 1) notHolder && runs (.blease 1) pending0 && (vw pending0).f.ops.any (·.accesses) && runs (.movb (.b 0) (.s 0)) pending0 &&
      !calm (vw pending0) && calm (vw state0)) = true := by decide +kernel
theorem test_trap_values : leads (exec (.trap 5) state0) (fun t => haltOf t == some 13 && pcOf t == 8) = true ∧
    leads (exec (.bkpt 5) state0) (fun t => haltOf t == some 14 && pcOf t == 8) = true ∧
    leads (exec .halt (sysOf state0)) (fun t => haltOf t == some 22 && pcOf t == 8) = true ∧
    leads (exec (.blease 1) notHolder) (fun t => haltOf t == some 10 && pcOf t == 4) = true ∧
    leads (exec (.movb (.b 15) (.s 2)) state0) (fun t => (t.polder? 0).any fun p => (p.breg.getD 15 []).head? == some 2) = true ∧
    leads (exec .exit state0) (fun t => (t.fasc? 0 0).any Fascine.retired && (t.polder? 0).any fun p => p.lease == 1) = true := by decide +kernel
theorem witness_ExitTakesThreadsOut : (state0.fasc? 0 0).any (fun f => (f.r.ents[0]?).any fun e => e.val &&
    (e.mask &&& ~~~0x00FF) &&& ~~~(e.park &&& ~~~0x00FF) != 0) = true := by decide +kernel

/-! ## Memory -/

/-- Global accesses at v2:v3 + 4, scratchpad and constant ones at 64; atomics with c of v5; CAS with v6:v7. -/
def globals : List Instr :=
  [.ld (.v 9) (.v 2) 1, .ld2 (.v 10) (.v 2) 2, .ld4 (.v 12) (.v 2) 4, .ldb (.v 9) (.v 2) 1, .ldb4 (.v 12) (.v 2) 4, .lda (.v 9) (.v 2) 1, .st (.v 5) (.v 2) 1,
   .st2 (.v 6) (.v 2) 2, .st4 (.v 4) (.v 2) 4, .stl (.v 5) (.v 2) 1, .ld (.s 3) (.s 0) 0xFF]
def locals : List Instr := [.lds (.v 9) (.v 8) 1, .lds4 (.v 12) (.v 8) 4, .sts (.v 5) (.v 8) 1, .sts4 (.v 4) (.v 8) 4, .ldc (.v 9) (.v 8) 1]
def atomics : List Instr :=
  [.aadd (.v 9) (.v 2) (.v 5), .amin (.v 9) (.v 2) (.v 5), .amax (.v 9) (.v 2) (.v 5), .aand (.v 9) (.v 2) (.v 5), .aor (.v 9) (.v 2) (.v 5),
   .axor .zero (.v 2) (.v 5), .axch (.v 9) (.v 2) (.v 5), .acas (.v 9) (.v 2) (.v 6), .ainc (.v 9) (.v 2) (.v 5)]
/-- v8 holds the scratchpad offset 64; the constant window has 256 bytes. -/
def mems : State := onP (onR state0 fun r => { r with vb := [flat 2 0x600000, flat 5 7, flat 6 1, flat 7 2, flat 8 64] }) fun p =>
  { p with cwlen := 256, cwin := 0x600000 }
/-- The premises of AccessesAreIssued. -/
def accesses (i : Instr) (s : State) : Bool :=
  runs i s && (accessOf i (ds i s) (rds i s) (thr i s)).any fun x => !x.ts.isEmpty &&
    x.ts.all (fun t => x.addr t % (4 * x.ins.n) == 0 && (rds i s).spaceOk x.ins.cls (x.addr t) (4 * x.ins.n)) &&
    okAnd ((rds i s).locateAll (if x.ins.write then 1 else 0) x.addr x.ts) (fun ls => !ls.any (·.2.1.isCulvert)) &&
    (rds i s).capOk x.ins.dsts && !(vw s).mustWait
theorem witness_AccessesAreIssued_global : globals.all (accesses · mems) = true := by decide +kernel
theorem witness_AccessesAreIssued_local : locals.all (accesses · mems) = true := by decide +kernel
theorem witness_AccessesAreIssued_atomic : atomics.all (accesses · mems) = true ∧ accesses (.afadd (.v 9) (.v 2) (.v 5)) (typed 6 mems) = true := by decide +kernel
/-- A load is in flight, and an acquire waits for it: what reads or writes memory waits (R215). -/
def acquiring (s : State) : State := onE (onF s fun f => { f with ops := [op0], nextOp := 1, cnt := [1, 0, 0, 0] }) fun e => { e with acq := some (1, 5) }
/-- Every thread is a helper: a store and an update have no thread. -/
def helpers : State := onR mems fun r => { r with hmask := 0xFFFF }
theorem witness_AccessesAreIssued_waits : (runs (.ld (.v 9) (.v 2) 1) (acquiring mems) && (vw (acquiring mems)).mustWait) = true ∧
    ([.st (.v 5) (.v 2) 1, .aadd (.v 9) (.v 2) (.v 5)] : List Instr).all (fun i => runs i helpers && !(vw helpers).mustWait &&
      (accessOf i (ds i helpers) (rds i helpers) (thr i helpers)).any fun x => x.ts.isEmpty) = true := by decide +kernel
/-- v2 is 2 past a word; in space 7; on a page that is not mapped (R59). -/
def addressed (lo hi : Word) : State := onR state0 fun r => { r with vb := [flat 2 lo, flat 3 hi] }
theorem witness_BadAddressesTrap :
    ([.ld (.v 9) (.v 2) 0, .st (.v 5) (.v 2) 0, .aadd (.v 9) (.v 2) (.v 5), .st4 (.v 4) (.v 2) 0] : List Instr).all (fun i =>
      runs i (addressed 0x600002 0) && leads (exec i (addressed 0x600002 0)) fun t => haltOf t == some 4) = true ∧
    ([.ld (.v 9) (.v 2) 0, .st (.v 5) (.v 2) 0, .aadd (.v 9) (.v 2) (.v 5)] : List Instr).all (fun i =>
      runs i (addressed 0x600000 0x07000000) && leads (exec i (addressed 0x600000 0x07000000)) fun t => haltOf t == some 6) = true ∧
    ([.ld (.v 9) (.v 2) 0, .st (.v 5) (.v 2) 0, .aadd (.v 9) (.v 2) (.v 5)] : List Instr).all (fun i =>
      runs i (addressed 0x600000 1) && leads (exec i (addressed 0x600000 1)) fun t => haltOf t == some 5) = true := by decide +kernel
/-- Base 0x600 * 4096 and bound 4 in s4:s5; v5 = 0 to 15: four indexes are in bound. -/
def gathers : State := onR state0 fun r => { r with s := [0, 0, 0, 0, 0x600, 4] ++ List.replicate 42 0 }
/-- The premises of GathersAreIssued that are decided. -/
def gatherHyps (i : Instr) : Bool :=
  runs i gathers && (gatherForm 0 i).any fun x =>
    let r := rds i gathers
    let ts := threadsOf (thr i gathers &&& maskOf fun t => decide ((r.rd (.v 5) t).toNat < 4))
    !ts.isEmpty && ts.all (fun t => r.spaceOk (if x.2.1 then .load else .memory) (0x600000 + 4 * x.1 * t) (4 * x.1)) &&
      okAnd (r.locateAll (if x.2.1 then 0 else 1) (fun t => 0x600000 + 4 * x.1 * t) ts) (fun _ => true) &&
      r.capOk (if x.2.1 then (List.range x.1).map (Opnd.v 12).group else []) && !(modeTen (vw gathers).e.mode).getLsbD 4 && !(vw gathers).mustWait
theorem witness_GathersAreIssued : ([.gather (.v 12) (.v 5) (.s 4), .gather4 (.v 12) (.v 5) (.s 4), .scatter (.v 6) (.v 5) (.s 4),
    .scatadd (.v 6) (.v 5) (.s 4)] : List Instr).all gatherHyps = true := by decide +kernel
/-- An acquire waits; TEN enables the invalid-index exception, and threads 4 to 15 are not in bound. -/
def trapping : State := onE gathers fun e => { e with mode := modeOf 0 ||| 0x100000 }
theorem witness_GathersAreIssued_stops : (runs (.gather (.v 12) (.v 5) (.s 4)) (acquiring gathers) && (vw (acquiring gathers)).mustWait) = true ∧
    (runs (.gather (.v 12) (.v 5) (.s 4)) trapping && (modeTen (vw trapping).e.mode).getLsbD 4 &&
      leads (exec (.gather (.v 12) (.v 5) (.s 4)) trapping) fun t => haltOf t == some 7) = true := by decide +kernel
theorem test_gather_value : leads (exec (.gather (.v 12) (.v 5) (.s 4)) gathers) (fun t => (preds 3 t).getLsbD 5 && !(preds 4 t).getLsbD 5 &&
    (t.fasc? 0 0).any fun f => f.exc == 0x10 && f.ops.all fun o => o.acc.length == 4) = true := by decide +kernel

/-- A store of thread 3 in flight to device memory, or to the scratchpad. -/
def storing (l : Loc) : State := onF state0 fun f =>
  { f with ops := [{ op0 with kind := .store, cntr := 1, dst := none, acc := [{ t := 3, loc := l, data := [0x11223344] }] }], cnt := [0, 1, 0, 0] }
def inFlight (s : State) : Bool := (s.polder? 0).any fun p => (p.fs[0]?).any fun f => (s.op? 0 0 0).any fun o => o.acc.length == 1 && s.ready' p f o false == o.acc.map fun x => (x, 0)
theorem witness_StorePerforms : inFlight (storing (.glob 0 0x600004 0)) = true ∧ inFlight (storing (.spad 64)) = true ∧
    (storing (.spad 64)).dev.wf = true ∧ (polder0.spad).wf = true := by decide +kernel
theorem witness_StoresKeepOtherBytes : leads (exec (.storeAccept 0 0 0) (storing (.spad 64))) (fun t => (t.polder? 0).isSome) = true ∧
    ((storing (.spad 64)).op? 0 0 0).any (fun o => o.acc.all fun x => x.data.length == o.n) = true := by decide +kernel
theorem test_store_values : leads (exec (.storeAccept 0 0 0) (storing (.glob 0 0x600004 0))) (fun t => t.dev.readN 0x600000 9 == [1, 2, 3, 4, 0x44, 0x33, 0x22, 0x11, 0] &&
    (t.fasc? 0 0).any fun f => f.cnt == [0, 0, 0, 0]) = true := by decide +kernel
theorem witness_LoadReturns : inFlight pending0 = true ∧ (pending0.fasc? 0 0).any (fun f => (f.r.ents[0]?).isSome) = true ∧ pending0.l1 = [] ∧
    op0.wmask.getLsbD 3 = true := by decide +kernel
theorem test_load_value : leads (exec (.loadDataReturn 0 0 0) pending0) (fun t => vreg 9 3 t == 0x04030201 && vreg 9 2 t == 0) = true := by decide +kernel
/-- An atomic of code k on the word 0x0403_0201. -/
def updating (k : Nat) : State := onF state0 fun f =>
  { f with ops := [{ op0 with kind := .atomic k 0, acc := [{ t := 3, loc := .glob 0 0x600000 0, data := [0x04030201, 9] }] }], cnt := [1, 0, 0, 0] }
theorem witness_AtomicPerforms : (List.range 10).all (fun k => inFlight (updating k) && !(updating k).poisoned 0x600000 && (updating k).dev.wf) = true := by decide +kernel
theorem test_atomic_values : ((List.range 9).map fun k => leads (exec (.atomicPerform 0 0 0) (updating k)) fun t => vreg 9 3 t == 0x04030201 &&
    t.dev.readN 0x600000 5 == ([[2, 4, 6, 8, 0], [1, 2, 3, 4, 0], [1, 2, 3, 4, 0], [1, 2, 3, 4, 0], [1, 2, 3, 4, 0], [0, 0, 0, 0, 0], [1, 2, 3, 4, 0],
      [9, 0, 0, 0, 0], [0, 0, 0, 0, 0]].getD k [])) = List.replicate 9 true := by decide +kernel
theorem witness_FencesAndPrefetches : ([.fence 0 0, .fence 1 7, .fence 2 4, .fence 3 5, .pref (.v 2) 0x80] : List Instr).all (runs · mems) = true := by decide +kernel

/-! ## Barriers -/

/-- Barrier 1 after its first phase, which the fascine has waited for or not. -/
def barState (b : Bar) (k : WaitRec) : State := onF (onP state0 fun p => { p with bars := setAt p.bars 1 b }) fun f => { f with wrec := setAt f.wrec 1 k }
theorem witness_BarrierCounting : ({ exparr := 8, arr := 0xFFFF } : Bar).arr = 0xFFFF ∧ ({ exparr := 8, arr := 7 } : Bar).arr ≠ 0xFFFF := by decide
theorem witness_BarrierInstructions :
    ([.binit (.s 1) (.s 1) 1, .binit (.s 2) (.s 0) 1, .bexp (.s 2) 1, .barr 1, .bwait 1, .btry 1 1, .bsync 1] : List Instr).all (fun i =>
      runs i state0 && (vw state0).e.hold == .none && !((rds i state0).bar 1).ring && !((rds i state0).bar 1).err && !((rds i state0).wrec 1).sw) = true ∧
    (runs (.binit (.s 0) (.s 1) 1) state0 && decide (0xFFFF < (0x600000 : Nat))) = true ∧
    (runs (.bexp (.s 2) 1) (barState { exparr := 8, bytes := 2 ^ 31 - 2 } {}) && runs (.bexp (.s 2) 1) (barState { exparr := 8, bytes := 2 ^ 31 - 3 } {})) = true ∧
    (runs (.btry 1 1) (barState { exparr := 8, phase := 1 } { snap := 0, wv := true }) && runs (.btry 1 1) (barState { exparr := 8 } { snap := 0, wv := true }) &&
      runs (.bwait 1) (barState { exparr := 8, phase := 1 } { snap := 0, wv := true }) && runs (.bwait 1) (barState { exparr := 8 } { snap := 0, wv := true })) = true ∧
    (runs (.barr 1) split2 && runs (.bsync 1) split2 && runs (.barr 1) pending0) = true := by decide +kernel
/-- The polder is alone in a ring of one core and its leader; barrier 1 becomes a ring barrier. -/
def ringed : State := onP state0 fun p => { p with rcores := 1 }
/-- Its leader is the polder of core 1, placed, or saved at a sample of beat 0 or of an earlier one with its image at `img`. -/
def led : State := (onP state0 fun p => { p with rcores := 2, pl := 1 }).setPolder { polder0 with h := 512, rcores := 2 }
def savedLead (img beat : Nat) : State :=
  { onP state0 (fun p => { p with rcores := 2, pl := 1 }) with saved := [{ p := { polder0 with h := 512, rcores := 2 }, img := img, live := 2, beat := beat }] }
theorem witness_BarrierInstructions_ring : (runs (.bring 1) ringed && ringed.leader (vw ringed).p == 0 && ringed.bar? 0 1 == some { exparr := 8 } &&
    (vw ringed).quiet && !((rds (.bring 1) ringed).wrec 1).sw) = true ∧
    ([led, savedLead 0x600000 1, savedLead 0x600000 0].map fun s => runs (.bring 1) s && s.leader (vw s).p == 512 && (s.bar? 512 1).isSome &&
      s.inSample 512) = [false, false, true] ∧
    ([led, savedLead 0x600000 1, savedLead 0x600000 0, savedLead (2 ^ 40) 1].map fun s => runs (.bring 1) s && s.leader (vw s).p == 512 &&
      (s.bar? 512 1).any fun x => !x.err && x.arr == 0 && x.bytes == 0) = [true, true, true, false] ∧
    (runs (.bring 1) (savedLead (2 ^ 40) 1) && (savedLead (2 ^ 40) 1).bar? 512 1 == none) = true := by decide +kernel
/-- A ring barrier, one with ERR set, a ring conflict; a wait that has completed (R228, R230, R235). -/
def passedWait : State := onE (barState { exparr := 8, phase := 1 } { snap := 0, wv := true }) fun e => { e with hold := .passed 1 false 2 }
theorem witness_BarrierInstructions_bad :
    ([.bexp (.s 2) 1, .bwait 1, .btry 1 1, .bsync 1] : List Instr).all (fun i => [({ exparr := 8, ring := true } : Bar), { exparr := 8, err := true }].all fun b =>
      runs i (barState b {}) && !(vi i (barState b {})).inWait && !((rds i (barState b {})).wrec 1).sw &&
        leads (exec i (barState b {})) fun t => haltOf t == some 15) = true ∧
    (runs (.barr 1) (barState { exparr := 8, ring := true } {}) && leads (exec (.barr 1) (barState { exparr := 8, ring := true } {})) fun t => haltOf t == some 15) = true ∧
    (leads (exec (.barr 1) (barState { exparr := 8, err := true } {})) fun t => haltOf t == none) = true ∧
    ([{ exparr := 8, err := true }, { exparr := 8, arr := 1 }, { exparr := 8, bytes := 4 }] : List Bar).all (fun b =>
      let s := onP (barState b {}) fun p => { p with rcores := 1 }
      runs (.bring 1) s && (vi (.bring 1) s).s.ringOpen 0 && !((rds (.bring 1) s).wrec 1).sw && leads (exec (.bring 1) s) fun t => haltOf t == some 15) = true ∧
    (runs (.bwait 1) passedWait && (vi (.bwait 1) passedWait).inWait && leads (exec (.bwait 1) passedWait) fun t => pcOf t == 8) = true := by decide +kernel
/-- The eighth arrival of eight ends the phase (R225); the first of one passes at once. -/
theorem test_barrier_values :
    leads (exec (.barr 1) (barState { exparr := 8, arr := 7 } {})) (fun t => (t.polder? 0).any fun p => p.bars.getD 1 { exparr := 0 } == { exparr := 8, phase := 1 }) = true ∧
    leads (exec (.barr 1) state0) (fun t => (t.polder? 0).any fun p => p.bars.getD 1 { exparr := 0 } == { exparr := 8, arr := 1 }) = true ∧
    leads (exec (.bsync 1) (barState { exparr := 1 } {})) (fun t => pcOf t == 8) = true ∧
    leads (exec (.bsync 1) state0) (fun t => pcOf t == 4) = true ∧
    leads (exec (.btry 1 1) (barState { exparr := 8, phase := 1 } { snap := 0, wv := true })) (fun t => (preds 0 t).getLsbD 1) = true := by decide +kernel

/-! ## Engine instructions -/

/-- s4 and s5 hold 64 and 128; s6:s7 is offset 0 of the scratchpad; s8 is all ones. -/
def engs : State := onR state0 fun r => { r with s := [0x600000, 0, 2, 0, 64, 128, 0, 0xFE000000, 0xFFFFFFFF, 0x20] ++ List.replicate 38 0 }
/-- Every engine instruction may go on in a state in which nothing is in flight, and waits while a load is. -/
def engineReady (i : Instr) (s : State) : Bool := runs i s && calm (vw s)
def engineHeld (i : Instr) (s : State) : Bool :=
  let s := onF s fun f => { f with ops := [op0], nextOp := 1, cnt := [1, 0, 0, 0] }
  runs i s && !calm (vw s)
theorem witness_EngineWorkIsQueued : ([.sluice (.s 0) (.s 2) 7, .sluice (.s 6) (.s 1) 0, .sluice (.s 2) (.s 1) 0, .slstat (.s 3) 7, .slkill 7, .coll (.s 0) 7,
      .cpys (.s 4) (.s 5) (.s 4), .build (.s 0) 7, .refit (.s 6) 0, .compact (.s 0) 1] : List Instr).all (engineReady · engs) = true ∧
    (rds (.slstat (.s 3) 7) engs).capOk [.s 3] = true ∧ (rds (.sluice (.s 0) (.s 2) 7) engs).rd2 (.s 0) 0 = 0x600000 ∧
    (rds (.build (.s 0) 7) engs).rd2 (.s 0) 0 % 64 = 0 ∧ inSpace 0x8000 0x600000 64 = true ∧ inSpace 0x8000 (0xFE * 2 ^ 56) 64 = true := by decide +kernel
/-- What waits for the order of its thread waits while a load is in flight; so do a full engine, builder and queue (R258, R273, R302). -/
def fullEngine : State := { engs with schains := List.replicate 256 { id := 0, die := 0, eng := 2, tok := 0, mask := 0, next := 0, iss := { h := 0, f := 0 }, ctx := 0 } }
def fullJobs : State := { engs with jobs := List.replicate 64 { id := 0, kind := 0, die := 0, ctx := 0, iss := none, tok := 0, addr := 0 } }
theorem witness_EngineWorkIsQueued_waits : ([.sluice (.s 0) (.s 2) 7, .coll (.s 0) 7, .cpys (.s 4) (.s 5) (.s 4), .build (.s 0) 7, .refit (.s 6) 0,
      .compact (.s 0) 1] : List Instr).all (engineHeld · engs) = true ∧
    (runs (.sluice (.s 0) (.s 2) 7) fullEngine && fullEngine.schains.length == 256) = true ∧
    (runs (.build (.s 0) 7) fullJobs && (fullJobs.jobs.filter fun j => j.die == 0 && j.st == 0 && (j.kind == 2) == false).length == 64) = true ∧
    (runs (.coll (.s 0) 7) (onF engs fun f => { f with tok := 0x80 }) && runs (.build (.s 0) 7) (onF engs fun f => { f with tok := 0x80 })) = true ∧
    (runs (.cpys (.s 4) (.s 5) (.s 1)) engs && (rds (.cpys (.s 4) (.s 5) (.s 1)) engs).rd (.s 1) 0 == 0) = true := by decide +kernel
/-- Token 7 is set already; the chain head is 0. -/
theorem witness_EngineWorkIsQueued_sluice : engineReady (.sluice (.s 0) (.s 2) 7) (onF engs fun f => { f with tok := 0x80 }) = true ∧
    engineReady (.sluice (.s 10) (.s 2) 7) engs = true ∧ (rds (.sluice (.s 10) (.s 2) 7) engs).rd2 (.s 10) 0 = 0 := by decide +kernel
theorem test_engine_values : leads (exec (.sluice (.s 0) (.s 2) 7) engs) (fun t => t.schains.length == 1 && (t.fasc? 0 0).any fun f => f.tok == 0x80) = true ∧
    leads (exec (.sluice (.s 10) (.s 2) 7) engs) (fun t => t.schains == [] && (t.fasc? 0 0).any fun f => f.tok == 0) = true ∧
    leads (exec (.cpys (.s 4) (.s 5) (.s 4)) engs) (fun t => (t.fasc? 0 0).any fun f => f.cnt == [0, 0, 1, 0]) = true ∧
    leads (exec (.build (.s 0) 7) engs) (fun t => t.jobs.map (fun j => (j.kind, j.addr, j.tok)) == [(0, 0x600000, 7)]) = true := by decide +kernel

/-! ## Matrix -/

/-- Slot 1 is CLAIMED; accumulator 0 has version 65535. -/
def claimed : State := onP engs fun p => { p with engines := p.engines.map fun (e : Engine) =>
  { e.modSlot 1 (fun x => { x with st := 1 }) with accs := e.accs.map fun (a : Accum) => { a with ver := 65535 } } }
theorem witness_MatrixInstructions : ([.osclaim 1 0, .osclaim 1 1, .osrel 1, .osrel 0, .osload (.s 1) 1, .mfmt (.s 4) 3, .mcbook (.s 4) 1, .mloop (.s 4) (.s 1) 0,
      .msparse (.s 4) (.s 1) 0, .mgust (.s 4) (.s 1) 0, .mdrain (.s 4) (.s 1) 0, .mzero (.s 1) 3, .mwait (.s 1) 0, .mwait (.s 2) 0] : List Instr).all
      (engineReady · claimed) = true ∧
    ((vw claimed).engine.slot 0).st = 0 ∧ ((vw claimed).engine.slot 1).st = 1 ∧
    (let r := rds (.mloop (.s 4) (.s 1) 0) claimed
     r.offsetTrap 64 64 64 = none ∧ r.engineRead 64 64 = some (List.replicate 64 0, false) ∧ r.engineRead 64 32 = some (List.replicate 32 0, false) ∧
       r.engineRead 64 16 = some (List.replicate 16 0, false) ∧ r.loopTrap 0 (List.replicate 32 0) false = none ∧
       r.loopTrap 0 (List.replicate 64 0) true = none) ∧
    fmtBad (List.replicate 32 0) = false ∧ gustBad (List.replicate 64 0) [] = false ∧ drainBad 0x8000 (List.replicate 16 0) [] = false ∧
    (0 + 65536 - 65535) % 65536 < 32768 ∧ (65535 + 65536 - 0) % 65536 ≥ 32768 := by decide +kernel
/-- A format block whose field above 7 is refused (R271). -/
def badFormat : State := onP claimed fun p => { p with spad := Memory.writeN [] 66 [0x38] }
theorem witness_MatrixInstructions_mfmt : engineReady (.mfmt (.s 4) 3) badFormat = true ∧
    ((rds (.mfmt (.s 4) 3) badFormat).engineRead 64 32).any (fun x => fmtBad x.1) = true ∧
    ([.mfmt (.s 9) 3] : List Instr).all (runs · claimed) = true := by decide +kernel
/-- Sixteen operations stand in the queue of the engine. -/
def fullQueue : State := onP claimed fun p => { p with engines := p.engines.map fun (e : Engine) =>
  { e with q := List.replicate 16 { id := 1, f := 0, kind := 1, a := 0, v := 2 } } }
theorem witness_MatrixInstructions_waits : ([.osload (.s 1) 1, .mfmt (.s 4) 3, .mcbook (.s 4) 1, .mloop (.s 4) (.s 1) 0, .msparse (.s 4) (.s 1) 0,
      .mgust (.s 4) (.s 1) 0, .mdrain (.s 4) (.s 1) 0, .mzero (.s 1) 3] : List Instr).all (engineHeld · claimed) = true ∧
    ([.mloop (.s 4) (.s 1) 0, .mzero (.s 1) 3] : List Instr).all (engineReady · fullQueue) = true ∧
    ((vw fullQueue).engine.q.filter (·.kind != 0)).length = 16 ∧
    ((vw fullQueue).engine.q.all fun o => o.kind == 0 || o.a != 0 || o.v != 0) = true := by decide +kernel
theorem test_matrix_values : leads (exec (.osclaim 1 0) claimed) (fun t => (preds 0 t).getLsbD 1 && (vw { t with cur := claimed.cur }).engine.slot 0 == { st := 1 }) = true ∧
    leads (exec (.osclaim 1 1) claimed) (fun t => !(preds 0 t).getLsbD 1) = true ∧ leads (exec (.osrel 0) claimed) (fun t => haltOf t == some 16) = true ∧
    leads (exec (.mzero (.s 1) 3) claimed) (fun t => (t.fasc? 0 0).any fun f => f.cnt == [0, 0, 0, 1]) = true ∧
    leads (exec (.mwait (.s 1) 0) claimed) (fun t => pcOf t == 4) = true := by decide +kernel

/-! ## Scene -/

/-- An object at 0x60_0000: entry 0 is generation 1 in state 2, pinned twice, its fence 0 ready; grid at 0x61_0000. -/
def gridBytes : List Byte :=
  leBytes 12 0 ++ leBytes 4 0x3F800000 ++ leBytes 4 0x3F800000 ++ leBytes 4 0x3F800000 ++ leBytes 18 0 ++ [0xA0] ++ leBytes 21 0 ++ [1] ++ leBytes 63 0
def scene (pins : Nat) (fence : List Byte) : State :=
  let s := onR engs fun r => { r with s := [0x600000, 0, 2, 0, 0x10000, 1, 0, 0xFE000000, 0x10000, 0x20, 0x610000, 0] ++ List.replicate 36 0 }
  let m := Memory.writeN (Memory.writeN s.dev 0x600040 ([1, 0, 2, 0] ++ leBytes 8 0 ++ leBytes 4 pins)) 0x601100 fence
  { s with dev := Memory.writeN m 0x610000 gridBytes }
def scene1 : State := scene 2 [1, 0, 1, 0]
theorem witness_SceneInstructions : ([.trace (.v 12) (.v 20) (.s 0), .tracea (.v 12) (.v 20) (.s 0), .march (.v 12) (.v 20) (.s 0), .mloc (.v 12) (.v 20) (.s 0),
      .sample (.v 12) (.v 20) (.s 6), .sfence (.s 0) (.s 4), .sready 1 (.s 0) (.s 4), .gridset (.s 10) 3] : List Instr).all (engineReady · scene1) = true ∧
    objTrap 0x600000 = none ∧ (objTrap 2).isSome = true ∧ runs (.trace (.v 12) (.v 20) (.s 2)) scene1 = true ∧ meshTrap 0x600000 = none ∧
    inWindow 0xFE 32 (0xFE * 2 ^ 56) 1 0x8000 = true ∧
    (let r := rds (.sample (.v 12) (.v 20) (.s 6)) scene1
     (threadsOf 0xFFFF).all (fun u => !r.pois (.v 12) u && !r.pois ((Opnd.v 12).plus 3) u) = true) ∧ (rds (.march (.v 12) (.v 20) (.s 0)) scene1).capOk ((List.range 8).map (Opnd.v 12).plus) = true := by
  decide +kernel
/-- 1024 rays and walks of the core's unit are in flight (R338). -/
def fullUnit : State := { scene1 with rays := List.replicate 1024 { id := 0, iss := { h := 0, f := 0 }, g := 0, t := 0, inst := 0, any := false, dst := 0, obj := 0, query := [] } }
theorem witness_SceneInstructions_waits : ([.trace (.v 12) (.v 20) (.s 0), .march (.v 12) (.v 20) (.s 0), .mloc (.v 12) (.v 20) (.s 0),
      .sample (.v 12) (.v 20) (.s 6), .sfence (.s 0) (.s 4), .sready 1 (.s 0) (.s 4), .gridset (.s 10) 3] : List Instr).all (engineHeld · scene1) = true ∧
    ([.tracea (.v 12) (.v 20) (.s 0), .march (.v 12) (.v 20) (.s 0)] : List Instr).all (runs · fullUnit) = true ∧ fullUnit.rays.length = 1024 := by
  decide +kernel
theorem witness_SceneInstructions_fences : okAnd ((rds (.sfence (.s 0) (.s 4)) scene1).fenceOf 0x600000 0x10000) (fun f => field f 0 2 == 1 && field f 16 16 == 1) = true ∧
    okAnd ((rds (.sfence (.s 0) (.s 4)) (scene 2 [0, 0, 0, 0])).fenceOf 0x600000 0x10000) (fun f => field f 0 2 == 0) = true ∧
    (scene1.ctx? 0).any (fun c => okAnd (scene1.gread c 0 0 6 0x610000 128) fun x => !x.2 && !gridBad x.1) = true := by decide +kernel
theorem test_scene_values : leads (exec (.trace (.v 12) (.v 20) (.s 0)) scene1) (fun t => t.rays.length == 16 && (t.fasc? 0 0).any fun f => f.cnt == [0, 0, 0, 1]) = true ∧
    leads (exec (.sready 1 (.s 0) (.s 4)) scene1) (fun t => (preds 0 t).getLsbD 1) = true ∧
    leads (exec (.sfence (.s 0) (.s 4)) (scene 2 [0, 0, 0, 0])) (fun t => pcOf t == 4) = true ∧
    leads (exec (.genpin (.s 0) (.s 5)) scene1) (fun t => t.dev.readN 0x60004C 4 == [3, 0, 0, 0]) = true ∧
    leads (exec (.march (.v 12) (.v 20) (.s 0)) scene1) (fun t => t.walks.length == 16) = true := by decide +kernel

/-! ## System instructions -/

/-- A system-domain polder; the context has asid 2 when `asid` says so, and has counted one event of class 1. -/
def sys : State := onP (sysOf (onR state0 fun r => { r with s := [0x600000, 0, 2, 0, 1, 0x80000003, 0x700, 0x31, 0xFFFFFFFF] ++ List.replicate 39 0 }))
  fun p => { p with queue := 5 }
/-- The same with die 0, where the queue table lies, in reset. -/
def tableless : State := sys.modDie 0 fun d => { d with reset := true }
theorem witness_SystemRegisters_csrw : ([.csrw (.s 0) 0x03, .csrw (.s 4) 0x10, .csrw (.s 2) 0x11, .csrw (.s 5) 0x11, .csrw (.s 2) 0x20, .csrw (.s 7) 0x21,
      .csrw (.s 8) 0x03] : List Instr).all (runs · sys) = true ∧ (sys.ctx? (vw sys).p.ctx).isSome = true ∧
    (0x600000 &&& 0xFE000000 = 0 ∧ 1 &&& 0xFFFFFFFE = 0 ∧ 2 &&& 0x7FFF8000 = 0 ∧ 0x80000003 &&& 0x7FFF8000 = 0 ∧ 2 &&& 0xFFFFFFF8 = 0 ∧
      0x31 &&& 0xFFFFFF00 = 0 ∧ 0xFFFFFFFF &&& 0xFE000000 ≠ 0) ∧
    (runs (.csrw (.s 2) 0x11) tableless && (vw tableless).s.tableShut 0 2 && !(vw sys).s.tableShut 0 2) = true := by decide +kernel
def counted : State := { sys with ctxs := sys.ctxs.map fun (c : Ctx) => { c with evc := [1, 0, 0] } }
theorem witness_SystemRegisters : ([.evwait (.s 3) 0, .evwait (.s 3) 3, .asgen (.s 1), .asgen (.s 2)] : List Instr).all (runs · sys) = true ∧
    (runs (.evwait (.s 3) 0) counted && runs (.asgen (.s 1)) (sysOf pending0) && !(vw (sysOf pending0)).quiet && (vw sys).quiet) = true ∧
    SMap.wf 0 sys.gens = true ∧ ((vw state0).blocked {} = false ∧ (0xF6 : Nat) ∈ privOps ∧ (vw state0).p.sys = false) ∧
    (destOpcode 0x61 = true ∧ (vw notHolder).chkD (Opnd.ofByte ((0x61D10220 : Word).extractLsb' 16 8)) = some .lease ∧
      (vw state0).chkD (Opnd.ofByte ((0x61D10220 : Word).extractLsb' 16 8)) = none) := by decide +kernel
theorem test_system_values : leads (exec (.csrw (.s 4) 0x10) sys) (fun t => (t.ctx? 0).any Ctx.hold) = true ∧
    leads (exec (.csrw (.s 8) 0x03) sys) (fun t => haltOf t == some 2) = true ∧
    leads (exec (.evwait (.s 3) 0) counted) (fun t => sreg 3 t == 1 && pcOf t == 8) = true ∧ leads (exec (.evwait (.s 3) 0) sys) (fun t => pcOf t == 4) = true ∧
    leads (exec (.asgen (.s 1)) sys) (fun t => t.gen 0 == 1) = true ∧
    leads (exec (.reservedFieldWord 0x61D10220) notHolder) (fun t => haltOf t == some 10) = true ∧
    leads (exec (.reservedFieldWord 0xF6000001) state0) (fun t => haltOf t == some 3) = true := by decide +kernel

/-- Polder 0 is the handler of polder 1, which has halted with trap record 3; the record at 0x61_00C0 holds RACT and RPC. -/
def halt1 : Halt := { code := 14, sub := 0, f := 0, g := 0, pc := 8, addr := 0, data := 0, time := 0, tself := some 3 }
def halted1 : Polder := { polder0 with h := 1, uid := 7, life := .halted, debug := true, halt := some halt1 }
def handler (ract rpc : Nat) : State :=
  let s := onF (onP (sys.setPolder halted1) fun p => { p with tself := some 3, htgt := 7 }) fun f => { f with undoTgt := some 0 }
  { s with ctxs := s.ctxs.map (fun (c : Ctx) => { c with tring := 0x610000, dlogn := 4, dlog := 0x620000 }),
           dev := Memory.writeN s.dev (0x6100C0 + 40) (leBytes 4 ract ++ leBytes 4 rpc) }
theorem witness_TrapReturn : (runs .trapret sys && (vw sys).p.tself.isNone) = true ∧
    ([handler 0 0, handler 1 8, handler 1 0, handler 2 0, handler 3 0].all fun s => runs .trapret s && !(vw s).p.hdone && (vw s).quiet &&
      (s.byUid (vw s).p.htgt).any (fun x => x.h == 1 && x.ctx == 0 && (x.halt.bind Halt.tself) == some 3 && x.live != 0) &&
      okAnd ((rds .trapret s).engGet ((vw s).writes (ds .trapret s)) 0 (0x610000 + 64 * 3) 64) fun _ => true) = true ∧
    ((handler 0 0).fasc? 0 0).any (fun f => (vw (onF (handler 0 0) fun _ => { f with ops := [op0] })).quiet == false) = true := by decide +kernel
theorem test_trapret_values : leads (exec .trapret (handler 1 8)) (fun t => (t.polder? 1).any fun p => p.life == .running && p.halt.isNone &&
      (p.fs[0]?).any fun f => (f.r.ents[0]?).any fun e => e.pc == 8 && e.entry) = true ∧
    leads (exec .trapret (handler 2 0)) (fun t => (t.polder? 1).any fun p => p.life == .draining) = true ∧
    leads (exec .trapret (handler 1 0)) (fun t => haltOf t == some 4) = true ∧
    leads (exec .trapret sys) (fun t => (t.fasc? 0 0).any Fascine.retired) = true := by decide +kernel

/-- The undo target's log: one step that saved s0 = 77 and a byte of scratchpad, over a wall. -/
def step1 : UndoStep := { wall := false, pc := 4, g := 0, regs := { regs0 with s := setAt regs0.s 0 77 }, keys := [160], smem := [(3, 9)], breg := [(2, 6, false)] }
/-- One that overwrote a byte of device memory. -/
def step2 : UndoStep := { wall := false, pc := 8, g := 0, regs := regs0, dmem := [(0, 0x600001, 9)] }
def logged (l : List UndoStep) : State :=
  (handler 0 0).modPolder 1 fun p => { p with breg := List.replicate 16 [1], fs := modAt p.fs 0 fun f => { f with log := l } }
theorem witness_DebugInstructions : ([.dbglogSelect (.s 0), .dbglogDiscard (.s 0), .dbglogWrite (.s 0), .undo 1, .undo 255] : List Instr).all
      (runs · (logged [step1])) = true ∧ ((vw (logged [step1])).undoFasc.isSome && (logged [step1]).polder? 1 != none) = true ∧
    (runs (.dbglogDiscard (.s 0)) (onF (logged []) fun f => { f with undoTgt := none }) &&
      (vw (onF (logged []) fun f => { f with undoTgt := none })).undoFasc.isNone) = true ∧
    (runs (.dbglogWrite (.s 0)) sys && (sys.ctx? 0).any fun c => c.dlogn == 0) = true ∧
    ((logged []).ctx? 0).any (fun c => c.dlogn != 0 && okAnd ((logged []).gwrite c atHome 0 false 2 c.dlog (leBytes 16 1)) fun _ => true) = true := by decide +kernel
/-- A step whose store is still in flight holds UNDO back; the two kinds of step. -/
theorem witness_DebugInstructions_undo : (runs (.undo 1) ((logged [{ step1 with op := some 0 }]).modPolder 1 fun p =>
      { p with fs := modAt p.fs 0 fun f => { f with ops := [op0] } })) = true ∧
    [logged [step1], logged [step2, step1], logged [{ step1 with wall := true }]].all (fun s => (s.polder? 1).any fun p => (p.fs[0]?).any fun f => !f.log.isEmpty && !f.retired &&
      p.spad.wf && decide (2 < p.breg.length)) = true ∧ (logged [step2]).dev.wf = true ∧ step1.whole = false ∧ step1.exits = false ∧
    ((logged []).fasc? 1 0).map (·.log) = some [] := by decide +kernel
theorem test_undo_values : leads (exec (.undo 1) (logged [step1])) (fun t => (t.fasc? 1 0).any (fun f => f.r.s.head? == some 77 && f.log == []) &&
      (t.polder? 1).any fun p => p.spad.read 3 == 9) = true ∧
    leads (exec (.undo 2) (logged [step2, step1])) (fun t => (t.fasc? 1 0).any (fun f => f.r.s.head? == some 77 && f.log == []) &&
      t.dev.readN 0x600000 3 == [1, 9, 3] && (t.fasc? 0 0).any fun f => f.undoCnt == 2) = true ∧
    leads (exec (.undo 1) (logged [{ step1 with wall := true }])) (fun t => (t.fasc? 1 0).any fun f => f.r.s.head? == some 0x600000) = true ∧
    leads (exec (.dbglogWrite (.s 7)) (logged [])) (fun t => t.dev.readN 0x620000 4 == [0x31, 0, 0, 0]) = true := by decide +kernel

/-- The polder belongs to grid 9 of queue 5, of depth d, with a pool of n children; it is of node 1. Packets lie at 0x60_0000. -/
def launched (kind d n : Nat) : State :=
  let s := onP sys fun p => { p with grid := some 9, node := some 1 }
  ({ s with dev := Memory.writeN s.dev 0x600000 [BitVec.ofNat 8 kind, 0, 0, 0] }).setGrid
    { id := 9, ctx := 0, q := 5, pkt := { bytes := leBytes 64 0, root := 0, depth := d, path := [0], nodes := List.replicate 2 (leBytes 128 0) },
      pool := List.replicate n (leBytes 64 0) }
def bin9 : Bin := { core := 0, grid := 9, node := 1, since := 0, recs := [⟨leBytes 16 0, 0, none⟩] }
theorem witness_QueueInstructions : ([.qsigAdd (.s 0), .qsigMax (.s 1), .qsigNotify (.s 2), .launch 1 (.s 0), .binflush (.s 4)] : List Instr).all
      (engineReady · (launched 3 0 0)) = true ∧ ((launched 3 0 0).queue? (vw (launched 3 0 0)).p.queue).isSome = true ∧
    (runs (.qsigAdd (.s 0)) (onF sys fun f => { f with ops := [op0] }) && !(vw (onF sys fun f => { f with ops := [op0] })).quiet) = true ∧ (vw (launched 3 0 0)).s.seqShut 0 5 = false ∧
    (let s := { launched 3 0 0 with ctxs := (launched 3 0 0).ctxs.map fun (c : Ctx) => { c with vdt := [some 0, some 1] },
                                    links := [{ training := true }, {}, {}, {}] }
     runs (.qsigAdd (.s 0)) s && (vw s).quiet && (vw s).s.seqShut 0 5) = true ∧
    [launched 3 0 63, launched 3 64 0, launched 3 0 64, launched 4 0 0].all (fun s => engineReady (.launch 1 (.s 0)) s &&
      okAnd ((rds (.launch 1 (.s 0)) s).engGet ((vw s).ordered ((vw s).writes (ds (.launch 1 (.s 0)) s))) 0 0x600000 64) fun x =>
        packetBad x.1 == (field x.1 0 4 == 4) && (s.grid? 9).isSome) = true ∧
    runs (.launch 1 (.s 0)) (onP (launched 3 0 0) fun p => { p with grid := none }) = true ∧ engineHeld (.launch 1 (.s 0)) (launched 3 0 0) = true ∧
    runs (.binflush (.s 4)) { launched 3 0 0 with bins := [bin9] } = true ∧ ({ launched 3 0 0 with bins := [bin9] }.bin? 0 9 1).isSome = true ∧
    ((launched 3 0 0).bin? 0 9 1).isNone = true := by decide +kernel
/-- A good packet in the scratchpad at offset 0. -/
theorem witness_QueueInstructions_scratchpad : engineReady (.launch 1 (.s 6))
      (onP (onR (launched 3 0 0) fun r => { r with s := [0, 0, 0, 0, 0, 0, 0, 0xFE000000] ++ List.replicate 40 0 }) fun p => { p with spad := [(0, 3)] }) = true ∧
    inSpace 0x8000 (0xFE * 2 ^ 56) 64 = true := by decide +kernel
theorem witness_QueueInstructions_pins : ([(true, 2), (true, 0xFFFFFFFF), (false, 2), (false, 0)].all fun x => let s := scene x.2 [1, 0, 1, 0]
    engineReady (if x.1 then .genpin (.s 0) (.s 5) else .genunpin (.s 0) (.s 5)) s &&
      okAnd ((rds (.genpin (.s 0) (.s 5)) s).findEntry 0x600000 1 [2, 3, 4]) fun e => field e.2 96 32 == x.2 &&
        (s.ctx? 0).any fun c => okAnd (s.gwrite c (pastFar 0) 16 false 2 (entryAddr 0x600000 e.1 + 12) (leBytes 4 3)) fun _ => true) = true ∧
    engineHeld (.genpin (.s 0) (.s 5)) scene1 = true := by decide +kernel
theorem test_queue_values : leads (exec (.qsigAdd (.s 2)) (launched 3 0 0)) (fun t => (t.queue? 5).any fun q => q.sig == 2) = true ∧
    leads (exec (.launch 1 (.s 0)) (launched 3 0 63)) (fun t => (t.grid? 9).any (fun g => g.pool.length == 64) && (preds 0 t).getLsbD 1) = true ∧
    leads (exec (.launch 1 (.s 0)) (launched 3 0 64)) (fun t => !(preds 0 t).getLsbD 1) = true ∧
    leads (exec (.launch 1 (.s 0)) (launched 4 0 0)) (fun t => haltOf t == some 20) = true ∧
    leads (exec (.genunpin (.s 0) (.s 5)) (scene 0 [1, 0, 1, 0])) (fun t => haltOf t == some 18) = true := by decide +kernel

/-! ## Save and restore -/

/-- A polder with nothing but one fascine, and its image at virtual address 0x4000_0000, which is bus address 0 of the host. -/
def small : Polder := { fetchPolder with h := 1, ring := 1 }
def hostCells (l : List Byte) : Memory := l.zipIdx.filterMap fun x => if x.1 = 0 then none else some (x.2, x.1)
def withHost (s : State) (l : List Byte) : State := { s with dev := Memory.writeN s.dev 0x200008 (leBytes 8 0x20F), host := hostCells l }
def imageOf (p : Polder) : List Byte := joinSections (p.imgHeader 0x20000 1 true) (sys.sections p [])
/-- s0:s1 is that address; s2:s3 is 2, s4:s5 lies in no space of an image; the target is polder 1 or 2. -/
def saver (l : List Byte) : State :=
  (withHost (onR sys fun r => { r with s := [0x40000000, 0, 2, 0, 0, 0xFE000000] ++ List.replicate 42 0 }) l).setPolder small
theorem witness_SaveAndRestore_savec : ([.savec (.s 0) 1, .savec (.s 0) 0, .savec (.s 2) 0, .savec (.s 4) 0, .restc (.s 2), .restc (.s 4)] : List Instr).all
      (engineReady · (saver [0, 0, 2, 0, 1])) = true ∧ isGlobal 0x40000000 = true ∧ isGlobal (0xFE * 2 ^ 56) = false ∧
    [1, 0, 2].all (fun h => okAnd ((rds (.savec (.s 0) 0) (saver [0, 0, 2, 0, BitVec.ofNat 8 h])).objGet 0 0x40000000 32) fun hd => field hd 32 32 == h) = true ∧
    ((saver []).polder? 1).any (fun p => p.ctx == 0 && p.life != .draining && p.stopReq.isNone) = true ∧
    ([.savec (.s 0) 1, .restc (.s 0)] : List Instr).all (engineHeld · (saver [0, 0, 2, 0, 1])) = true ∧
    runs (.savec (.s 0) 1) ((saver [0, 0, 2, 0, 1]).modPolder 1 fun p => { p with stopReq := some ⟨0, 0, 0, 0, false⟩ }) = true ∧ ((saver []).polder? 2).isNone = true ∧
    (sys.ctx? 0).any (fun c => okAnd ((saver []).setStat c 0 0x40000000 2) fun _ => true) = true := by decide +kernel

/-- Device memory whose tables map the first GiB to itself and the second to host memory from bus address 0. -/
def tables : Memory := (withHost sys []).dev
theorem table_entries : leNat (tables.readN 0x100000 8) = 0x200001 ∧ leNat (tables.readN 0x200008 8) = 0x20F := by decide +kernel
/-- Those tables in use, no translation cached, and the ways of a party of die `die` to them and to host memory open. -/
structure Mapped (s : State) (die : Nat) : Prop where
  dev : s.dev = tables
  tlb : s.tlb = []
  way : s.cutOff die 0 = false
  out : s.hostShut die = false
  timed : s.timed = none
/-- A virtual address of the second GiB reaches host memory (R393, R394). -/
theorem translate_host {s : State} {va k tag die : Nat} (h : Mapped s die) (h0 : 2 ^ 30 ≤ va) (h1 : va < 2 ^ 31) (hk : k < 2) :
    s.translate fetchCtx va k tag die = .ok (.glob 1 (va - 2 ^ 30) 0, ⟨die % 100, 0, s.gen 0, 2 ^ 30, 2 ^ 30, 0x20F⟩) := by
  have e3 : levelIndex va 3 = 0 := by simp only [levelIndex, bits]; omega
  have e2 : levelIndex va 2 = 1 := by simp only [levelIndex, bits]; omega
  have hb : va / 2 ^ 30 * 2 ^ 30 = 2 ^ 30 := by omega
  have w : walk s fetchCtx die va = .ok (0x20F, 2) := by
    have p : fetchCtx.ptroot = 0x100000 := by decide
    have c3 : entryCause fetchCtx 3 0x200001 = 0 := by decide
    have c2 : entryCause fetchCtx 2 0x20F = 0 := by decide
    have t3 : bit 0x200001 1 = false := by decide
    have t2 : bit 0x20F 1 = true := by decide
    have a3 : bits 0x200001 12 52 * 2 ^ 12 = 0x200000 := by decide
    have d3 : bits 0x200001 7 2 = 0 := by decide
    have d0 : (fetchCtx.pdie 0).getD 0 = 0 := by decide
    have n : walkFrom s fetchCtx die va 2 0 0x200000 = .ok (0x20F, 2) := by
      unfold walkFrom
      simp only [d0, h.way, e2, h.dev, table_entries.2, c2, t2, if_true, Bool.false_eq_true, if_false]
    have q0 : (bits 0x100000 2 14 != 0) = false := by decide
    have q1 : (fetchCtx.pdie (0x100000 % 4)).isNone = false := by decide
    have q2 : ¬(deviceSize < 0x100000 / 2 ^ 16 * 2 ^ 16 + 2 ^ 16) := by decide
    have q3 : (0x100000 : Nat) % 4 = 0 := by decide
    have q4 : (0x100000 : Nat) / 2 ^ 16 * 2 ^ 16 = 0x100000 := by decide
    unfold walk
    rw [p]
    simp only [q0, q1, q2, q3, q4, Bool.false_eq_true, if_false]
    unfold walkFrom
    simp only [d0, h.way, e3, h.dev, Nat.mul_zero, Nat.add_zero, table_entries.1, c3, t3, Bool.false_eq_true, if_false, a3, d3]
    exact n
  have l : leafLoc fetchCtx 0x20F (2 ^ 30) va = .glob 1 (va - 2 ^ 30) 0 := by
    have x : bits 0x20F 16 48 * 2 ^ 16 + (va - 2 ^ 30) = va - 2 ^ 30 := by
      rw [show bits 0x20F 16 48 * 2 ^ 16 = 0 by decide, Nat.zero_add]
    have y : bit 0x20F 6 = false := by decide
    simp only [leafLoc, x, y, Bool.false_eq_true, if_false]
    rfl
  have nc : s.cached fetchCtx die va = [] := by simp [State.cached, h.tlb]
  have a1 : (k == 1 && !bit 0x20F 2) = false := by simp [show bit 0x20F 2 = true by decide]
  have a2 : (k == 2) = false := by simp; omega
  simp only [State.translate, nc, List.getElem?_nil, w, show levelShift 2 = 30 from rfl, hb, a1, a2, l, Bool.false_and, Bool.false_eq_true, if_false]
  rfl

theorem readN_append (m : Memory) (a k j : Nat) : m.readN a k ++ m.readN (a + k) j = m.readN a (k + j) := by
  induction k generalizing a with
  | zero => simp [Memory.readN]
  | succ k ih =>
    have : k + 1 + j = (k + j) + 1 := by omega
    rw [this]
    simp only [Memory.readN, List.cons_append, ← ih (a + 1), show a + (k + 1) = a + 1 + k by omega]

/-- An engine's read of host memory answers its bytes. -/
theorem gread_host {s : State} {die tag fuel : Nat} (m : Mapped s die) : ∀ {va n : Nat}, 2 ^ 30 ≤ va → va + n ≤ 2 ^ 31 →
    n ≤ 32 * fuel - va % 32 → s.gread fetchCtx die tag fuel va n = .ok (s.host.readN (va - 2 ^ 30) n, false) := by
  induction fuel with
  | zero =>
    intro va n _ _ h
    have : n = 0 := by omega
    subst this
    simp [State.gread, Memory.readN]
  | succ fuel ih =>
    intro va n h0 h1 h2
    by_cases hn : n = 0
    · subst hn; simp [State.gread, Memory.readN]
    · have he : piece (va - 2 ^ 30) n = piece va n := by simp only [piece]; omega
      have hp : piece va n + (n - piece va n) = n := by simp only [piece]; omega
      have hr : n - piece va n ≤ 32 * fuel - (va + piece va n) % 32 := by simp only [piece]; omega
      have hs : va + piece va n + (n - piece va n) ≤ 2 ^ 31 := by simp only [piece]; omega
      have := ih (va := va + piece va n) (n := n - piece va n) (by omega) hs hr
      have e : va + piece va n - 2 ^ 30 = va - 2 ^ 30 + piece va n := by omega
      rw [e] at this
      simp only [State.gread, hn, if_false, translate_host m h0 (by omega : va < 2 ^ 31) (by omega : (0 : Nat) < 2), he, this]
      simp [State.reach, m.out, State.hostRead, m.timed, State.memOf, readN_append, hp]

/-- An engine's write of host memory succeeds and changes host memory only. -/
theorem gwrite_host {die tag fuel : Nat} {q : Bool} : ∀ {s : State} {va : Nat} {b : List Byte}, Mapped s die → 2 ^ 30 ≤ va →
    va + b.length ≤ 2 ^ 31 → ∃ t, s.gwrite fetchCtx die tag q fuel va b = .ok t ∧ Mapped t die := by
  induction fuel with
  | zero => intro s va b m _ _; exact ⟨s, rfl, m⟩
  | succ fuel ih =>
    intro s va b m h0 h1
    by_cases hn : b.isEmpty = true
    · exact ⟨s, by simp [State.gwrite, hn], m⟩
    · have hl : 0 < b.length := by cases b <;> simp_all
      have hk : piece (va - 2 ^ 30) b.length ≤ b.length := by simp only [piece]; omega
      obtain ⟨t, h⟩ := ih (s := s.writeHome 1 (va - 2 ^ 30) (b.take (piece (va - 2 ^ 30) b.length)) (some (die % 100)) q)
        (va := va + piece (va - 2 ^ 30) b.length) (b := b.drop (piece (va - 2 ^ 30) b.length))
        ⟨by simpa [State.writeHome, State.setMem] using m.dev, by simpa [State.writeHome, State.setMem] using m.tlb, m.way, m.out, m.timed⟩
        (by omega) (by rw [List.length_drop]; omega)
      refine ⟨t, ?_, h.2⟩
      simp only [State.gwrite, hn, translate_host m h0 (by omega : va < 2 ^ 31) (by omega : (1 : Nat) < 2)]
      simpa [State.reach, m.out] using h.1

/-- Host memory that lists nothing from address n on reads zeros there. -/
theorem get_high {m : Memory} {a : Nat} (h : ∀ x ∈ m, x.1 < a) : m.read a = 0 := by
  simp only [Memory.read]
  induction m with
  | nil => rfl
  | cons x m ih =>
    obtain ⟨k, v⟩ := x
    have hk : k < a := h (k, v) (by simp)
    simp only [SMap.get, show ¬k = a by omega, show ¬a < k by omega, if_false]
    exact ih fun y hy => h y (List.mem_cons_of_mem _ hy)
theorem readN_high {m : Memory} {a n : Nat} (h : ∀ x ∈ m, x.1 < a) : m.readN a n = List.replicate n 0#8 := by
  induction n generalizing a with
  | zero => rfl
  | succ n ih =>
    simp only [Memory.readN, get_high h, List.replicate_succ]
    rw [ih fun x hx => Nat.lt_succ_of_lt (h x hx)]
    rfl
theorem drop_readN (m : Memory) (a k n : Nat) : (m.readN a n).drop k = m.readN (a + k) (n - k) := by
  induction k generalizing a n with
  | zero => simp
  | succ k ih =>
    cases n with
    | zero => simp [Memory.readN]
    | succ n => simp only [Memory.readN, List.drop_succ_cons, ih, Nat.succ_sub_succ_eq_sub, show a + (k + 1) = a + 1 + k by omega]
theorem leNat_zeros (n : Nat) : leNat (List.replicate n 0#8) = 0 := by
  induction n with
  | zero => rfl
  | succ n ih => simp [List.replicate_succ, leNat, ih]
theorem field_zeros (n lo w : Nat) : field (List.replicate n 0#8) lo w = 0 := by
  simp [field, List.drop_replicate, List.take_replicate, leNat_zeros, bits]

/-- The image of a polder without fascines: a header, and zeros. -/
def bare : Polder := { small with fs := [] }
def bareHead (stat : Nat) : List Byte := patch (bare.imgHeader 0x20000 1 true) 9 [(bare.imgHeader 0x20000 1 true).getD 9 0 ||| BitVec.ofNat 8 stat]
def evicted (kept : Bool) (head : List Byte) : State :=
  let s := saver head
  { s.dropPolder 1 with saved := if kept then [{ p := bare, img := 0x40000000, live := 0 }] else [] }
theorem evicted_maps (k : Bool) (h : List Byte) : Mapped (evicted k h) (pastFar 0) ∧ (evicted k h).host = hostCells h :=
  ⟨⟨by unfold evicted saver; rfl, rfl, by cases k <;> rfl, by cases k <;> rfl, rfl⟩, rfl⟩
/-- The header is good, read as RESTC reads it, with STAT 0 and 4; a header of zeros is refused. -/
theorem witness_SaveAndRestore_restc : [bareHead 0, bareHead 4, []].map (fun h => runs (.restc (.s 0)) (evicted true h) &&
    (vw (evicted true h)).quiet && (vw (evicted true h)).p.die == 0 &&
    okAnd ((evicted true h).gread fetchCtx (pastFar 0) 0 10 0x40000000 256) fun x => x.1 == h ++ List.replicate (256 - h.length) 0 && headerBad x.1 == h.isEmpty) =
      [true, true, true] ∧ [bareHead 0, bareHead 4].map (fun h => (field h 72 4, field h 80 32)) = [(0, imgNeed (bareHead 0)), (4, imgNeed (bareHead 0))] := by decide +kernel

/-- The header with STAT 0 or USED. -/
def headOf (j : Bool) : List Byte := bareHead (if j then 4 else 0)
theorem head_low (k j : Bool) : ∀ x ∈ (evicted k (headOf j)).host, x.1 < 256 := by
  have : ((evicted k (headOf j)).host.all fun x => decide (x.1 < 256)) = true := by cases k <;> cases j <;> decide +kernel
  simpa using this
def bareNeed : Nat := imgNeed (bareHead 0)
theorem read_bare (k j : Bool) {tag : Nat} : (evicted k (headOf j)).gread fetchCtx (pastFar 0) tag (bareNeed / 32 + 2) 0x40000000 bareNeed =
    .ok ((evicted k (headOf j)).host.readN 0 bareNeed, false) := by
  have hn : bareNeed ≤ 2 ^ 30 := by decide +kernel
  have := gread_host (evicted_maps k (headOf j)).1 (tag := tag) (fuel := bareNeed / 32 + 2)
    (va := 0x40000000) (n := bareNeed) (by omega) (by omega) (by omega)
  simpa using this
theorem bare_section (k j : Bool) (i : Nat) (hi : 256 ≤ imgOffset (headOf j) i) :
    ∃ n, imgSection ((evicted k (headOf j)).host.readN 0 bareNeed) i = List.replicate n 0#8 := by
  have h : ((evicted k (headOf j)).host.readN 0 bareNeed).take 256 = headOf j := by cases k <;> cases j <;> decide +kernel
  refine ⟨min ((imgSizes (headOf j)).getD i 0) (bareNeed - imgOffset (headOf j) i), ?_⟩
  simp only [imgSection, h, drop_readN, Nat.zero_add]
  rw [readN_high fun x hx => Nat.lt_of_lt_of_le (head_low k j x hx) hi, List.take_replicate]
/-- The whole image reads, and is not refused, for the kept polder or with none. -/
theorem witness_SaveAndRestore_image (k j : Bool) : imageBad ((evicted k (headOf j)).host.readN 0 bareNeed) (if k then some bare else none) = false := by
  obtain ⟨n, h7⟩ := bare_section k j 7 (by cases j <;> decide +kernel)
  obtain ⟨m, h8⟩ := bare_section k j 8 (by cases j <;> decide +kernel)
  obtain ⟨l, h3⟩ := bare_section k j 3 (by cases j <;> decide +kernel)
  have f112 : field ((evicted k (headOf j)).host.readN 0 bareNeed) 112 7 = 0 := by cases k <;> cases j <;> decide +kernel
  have f128 : field ((evicted k (headOf j)).host.readN 0 bareNeed) 128 16 = 0 := by cases k <;> cases j <;> decide +kernel
  have f144 : field ((evicted k (headOf j)).host.readN 0 bareNeed) 144 9 = 0 := by cases k <;> cases j <;> decide +kernel
  have f176 : field ((evicted k (headOf j)).host.readN 0 bareNeed) 176 10 = 0 := by cases k <;> cases j <;> decide +kernel
  cases k <;> simp [imageBad, bare, small, fetchPolder, h7, h8, h3, field_zeros, f112, f128, f144, f176]

/-! ## Steps of fascines -/

/-- Every fascine's first entry changed. -/
def onAllE (s : State) (g : SplitEntry → SplitEntry) : State :=
  onP s fun p => { p with fs := p.fs.map fun f => { f with r := { f.r with ents := modAt f.r.ents 0 g } } }
/-- Both fascines wait in one VOTERK that counts; thread 0 of each has its predicate. -/
def voters : State := onAllE state0 fun e => { e with hold := .voterk (.s 3) 0xFFFF 1 2 }
/-- Both wait in one REGROUP that keeps their odd threads. -/
def regrouping : State := onAllE state0 fun e => { e with hold := .regroup (.v 9) 0xAAAA 0 }
/-- The first two entries wait at slot 4, with eight threads each. -/
def merging : State := onR state0 fun r =>
  { r with ents := [{ mask := 0xFF, val := true, wj := true }, { mask := 0xFF00, val := true, wj := true }, {}, {}] }
/-- Both wait in one REGROUP of the polder; or the second at another slot; or the polder declares four registers. -/
def regroupingAll : State := onAllE state0 fun e => { e with hold := .regroup (.v 9) 0xAAAA 1 }
def regroupingOdd : State := onE regrouping fun e => { e with pc := 8 }
def regroupingCap : State := onP regrouping fun p => { p with regs := 4 }
def holding (x : Hold) : State := onE state0 fun e => { e with hold := x }
def skidding : State := onP state0 fun p => { p with life := .halted, halt := some halt1 }
theorem witness_FascineSteps : (state0.fasc? 0 0).any (fun f => (f.r.ents[0]?).isSome) = true ∧
    (merging.fasc? 0 0).any (fun f => (waitingAt f.r.ents 4).map (fun x => (x.2, x.1.rjf)) == [(0, false), (1, false)]) = true ∧
    (voters.polder? 0).any (fun p => p.rounds && p.rankLive 0 == [0, 1] && (p.rankLive 0).all fun i => ((p.fs[i]?).bind Fascine.theEntry).any fun x =>
      x.1.hold == .voterk (.s 3) 0xFFFF 1 2) = true ∧
    (regrouping.polder? 0).any (fun p => p.rounds && p.fs.all (fun f => f.chains.isEmpty) && p.rankLive 0 == [0, 1] && ((p.rankLive 0).all fun i => ((p.fs[i]?).bind Fascine.theEntry).any fun x =>
      x.1.hold == .regroup (.v 9) 0xAAAA 0 && x.1.pc == 4) && (p.rankLive 0).all (fun i => (p.fs[i]?).any (regrouping.settled 0 i)) &&
      (regroupNames p (.v 9) (received ((p.rankLive 0).flatMap fun i => (threadsOf 0xAAAA).map fun u => (i, u)) 0 0)).length == 5 &&
      p.fs.all (fun x => !x.r.ents.isEmpty) && p.fs.length == 2 && p.regs ≥ 5 &&
      (received ((p.rankLive 0).flatMap fun i => (threadsOf 0xAAAA).map fun u => (i, u)) 0 1).isEmpty) = true ∧
    (regroupingAll.polder? 0).any (fun p => p.rounds && p.scopeLive 0 1 == [0, 1] && (p.rankLive 0).all (p.scopeLive 0 1).contains &&
      (p.scopeLive 0 1).all fun i => ((p.fs[i]?).bind Fascine.theEntry).any fun x => x.1.hold == .regroup (.v 9) 0xAAAA 1) = true ∧
    (regroupingOdd.polder? 0).any (fun p => p.rounds && (p.scopeLive 0 0).map (fun i => ((p.fs[i]?).bind Fascine.theEntry).map fun x => x.1.pc) ==
      [some 8, some 4]) = true ∧
    (regroupingCap.polder? 0).any (fun p => p.rounds && decide (p.regs < 5)) = true ∧
    (state0.polder? 0).any (fun p => p.stopReq.isNone && !p.dieHalt) = true ∧
    ((onP state0 fun p => { p with dieHalt := true }).polder? 0).any Polder.dieHalt = true ∧
    [Hold.codebook 1 (leBytes 64 7), .gridset 3 (leBytes 128 9), .asgen 0 0].all (fun x => ((holding x).fasc? 0 0).any fun f =>
      (f.r.ents[0]?).any fun e => e.hold == x && ((holding x).polder? 0).any fun p => (p.ranks[0]?).map Prod.fst == some 0) = true ∧
    (skidding.polder? 0).any (fun p => p.halt.isSome && (p.fs[0]?).any fun f => !f.stop.stopped && f.r.ents.any (·.val)) = true := by decide +kernel
/-- REGROUP of the polder; members at two slots trap ILLOPND (R180), five names in four registers REGCAP. -/
theorem test_regroup_scopes :
    leads (exec (.regroupRoundComplete 0 0) regroupingAll) (fun t => vreg 9 8 t == 17 && vreg 5 8 t == 1 &&
      ((t.polder? 0).any fun p => p.fs.map Fascine.retired == [false, true])) = true ∧
    leads (exec (.regroupRoundComplete 0 0) regroupingOdd) (fun t => (t.polder? 0).any fun p => p.fs.map (·.stop.code) == [Trap.code .illopnd, Trap.code .illopnd]) = true ∧
    leads (exec (.regroupRoundComplete 0 0) regroupingCap) (fun t => (t.polder? 0).any fun p => p.fs.map (·.stop.code) == [Trap.code .regcap, Trap.code .regcap]) = true := by decide +kernel
/-- Of two fascines one thread each has its predicate: the count is 2 (R148). Sixteen odd threads fill the first fascine, whose
thread 8 was thread 1 of the second, tid 17; the second retires (R180). -/
theorem test_round_values : leads (exec (.voterkRoundComplete 0 0) voters) (fun t => sreg 3 t == 2 && pcOf t == 8) = true ∧
    leads (exec (.regroupRoundComplete 0 0) regrouping) (fun t => vreg 9 0 t == 1 && vreg 9 8 t == 17 && vreg 5 8 t == 1 && pcOf t == 8 &&
      ((t.polder? 0).any fun p => p.fs.map Fascine.retired == [false, true])) = true ∧
    leads (exec (.rejoinMerge 0 0) merging) (fun t => (t.fasc? 0 0).any fun f => f.r.ents.map (fun e => (e.val, e.mask)) ==
      [(true, 0xFFFF), (false, 0), (false, 0), (false, 0)]) = true ∧
    leads (exec (.sleepExpiry 0 0 0) (onE state0 fun e => { e with sleep := 9 })) (fun t => t.beat == state0.beat + 9) = true ∧
    leads (exec (.asgenDrainComplete 0 0 0) (holding (.asgen 0 0))) (fun t => pcOf t == 8) = true ∧
    leads (exec (.skidStop 0 0) skidding) (fun t => (t.fasc? 0 0).any fun f => f.stop.stopped && f.stop.slot == 4) = true := by decide +kernel

/-! ## Steps of accesses -/

/-- One operation of the first fascine is in flight. -/
def flying (s : State) (o : MemOp) : State := onF s fun f => { f with ops := [o], nextOp := 1, cnt := [1, 1, 1, 1] }
/-- Thread 3 reads host memory at bus address 64. -/
def hostRead0 : MemOp := { op0 with acc := [{ t := 3, loc := .glob 1 64 0, data := [] }] }
/-- Thread 3's closing store of 2 to a culvert window. -/
def culvertOp (win : Nat) : MemOp := { op0 with kind := .store, cntr := 1, dst := none, acc := [{ t := 3, loc := .culvert win true 0, data := [2] }] }
/-- Node 1 of grid 9 takes two records at a time, and core 0 has its bins. -/
def binned : State :=
  let s := launched 3 0 0
  { s with grids := s.grids.map fun (g : Grid) => { g with bins := [0], pkt := { g.pkt with nodes := List.replicate 2 (leBytes 12 0 ++ [0x80] ++ leBytes 115 0) } } }
def leaving : State := onP state0 fun p => { p with life := .draining, fs := p.fs.map fun f => { f with retired := true } }
theorem witness_AccessSteps : ((flying state0 hostRead0).op? 0 0 0).any (fun o => o == hostRead0) = true ∧
    ((flying state0 hostRead0).polder? 0).any (fun p => (p.fs[0]?).any fun f => (flying state0 hostRead0).ready' p f hostRead0 false == hostRead0.acc.map fun x => (x, 0)) = true ∧
    [(state0, 5), (binned, 0x100001), (state0, 0x400000)].all (fun x => let s := flying x.1 (culvertOp x.2)
      (s.op? 0 0 0).any (· == culvertOp x.2) && (s.polder? 0).any (fun p => (p.fs[0]?).any fun f => s.ready' p f (culvertOp x.2) true == (culvertOp x.2).acc.map fun y => (y, 0)) &&
        (match (s.fasc? 0 0) with | some f => !f.retired && f.orecs.isEmpty && (culvertOp x.2).ep == f.epoch && !f.r.exmask.getLsbD 3 | none => false) &&
        !s.seqShut 0 5 && s.culvertOps 0 0 == [0] && s.culvertOps 0 1 == [] && s.culvertOps 0 2 == []) = true ∧
    nodeWindow 0x100001 = some (0, 1) ∧ (binned.grid? 9).any (fun g => g.bins.contains 0 && nodeCount (g.node 1) == 2) = true ∧
    (binned.ctx? 0).isSome = true ∧ (binned.bin? 0 9 1).isNone = true ∧ nodeWindow 0x400000 = none ∧ (mailboxWindow 0x400000).map Prod.snd = some 0 ∧
    (leaving.polder? 0).any (fun p => leaving.drained p && p.tags == []) = true := by decide +kernel
/-- A request that is not answered gives all ones (R404); the doorbell sets WR to 2 (R344). -/
theorem test_access_values : leads (exec (.hostRequestTimeout 0 0 0) (flying state0 hostRead0)) (fun t => vreg 9 3 t == 0xFFFFFFFF &&
      (t.fasc? 0 0).any fun f => f.cnt == [0, 1, 1, 1]) = true ∧
    leads (exec (.culvertFlitAccept 0 0 0) (flying state0 (culvertOp 5))) (fun t => (t.queue? 5).any (·.wr == 2)) = true ∧
    leads (exec (.workGraphRecordClose 0 0 3 0x100001) (flying binned (culvertOp 0x100001))) (fun t => (t.bin? 0 9 1).any fun b =>
      b.recs.map (fun r => (r.bytes.length, r.depth, r.tag)) == [(16, 1, none)]) = true ∧
    leads (exec (.mailboxPacketClose 0 0) (flying state0 (culvertOp 0x400000))) (fun t => (t.polder? 0).any fun p => p.io.any fun c =>
      c.ready.map (·.take 2) == [[2, 0]]) = true ∧
    leads (exec (.polderRetire 0) leaving) (fun t => (t.polder? 0).isNone) = true := by decide +kernel

/-! ## Steps of engines -/

/-- A record of a copy of 32 bytes from 0x60_0080 to offset 0x100 of the scratchpad, with its OWN bit (R240). -/
def record (own : Nat) : List Byte := leBytes 8 0 ++ leBytes 8 own ++ leBytes 8 0x600080 ++ leBytes 8 (0xFE * 2 ^ 56 + 0x100) ++ leBytes 4 32 ++ leBytes 28 0
def chain7 : SChain := { id := 7, ctx := 0, die := 0, eng := 0, iss := { h := 0 }, tok := 7, mask := 0, next := 0x600000 }
def sluiced (own : Nat) (k : SChain) : State := { state0 with schains := [k], dev := Memory.writeN (Memory.writeN state0.dev 0x600000 (record own)) 0x600080 [5, 6] }
def lastMove : SRec := { addr := 0x600000, bytes := record 1, todo := [.copy (some 0) 0x100 0x600080 32] }
def copyOp : MemOp := { op0 with kind := .copy 0x100 0 16 0, cntr := 2, dst := none, acc := [{ t := 0, loc := .spad 0x100, data := [1, 2, 3, 4] }] }
theorem witness_EngineSteps_sluice : [0, 1].all (fun own => let s := sluiced own chain7
      (s.schain? 7 == some chain7 && !s.dieDown 0 && ((s.onEngine 0 0).take 16).any (·.id == 7) && (s.heldBy (.chain 7)).isNone) &&
      (s.body? 0).any (fun p => inSpace p.spsize 0x600000 64 && recordCode p (record 1) == 0) && (s.ctx? 0).any fun c =>
        okAnd (s.eread c 0 0 0 0x600000 64) fun x => x.1 == record own && flag x.1 64 == (own == 1)) = true ∧
    (let s := sluiced 1 { chain7 with now := [lastMove] }
     s.schain? 7 == some { chain7 with now := [lastMove] } && (s.heldBy (.chain 7)).isNone && !s.spadBusy 0 7 0x100 32 true &&
       (s.ctx? 0).any (fun c => okAnd (s.eread c 0 0 0 0x600080 32) fun x => x.1.take 2 == [5, 6]) && (s.polder? 0).any (·.spad.wf)) = true ∧
    [true, false].all (fun k => (sluiced 0 { chain7 with kill := k }).schain? 7 == some { chain7 with kill := k }) = true ∧
    ((flying state0 copyOp).op? 0 0 0 == some copyOp) = true ∧ polder0.spad.wf = true := by decide +kernel

/-- Two participants of an all-reduce of one element: group 9, sequence number 4 (R255). -/
def collDesc (rank tmo : Nat) : List Byte :=
  leBytes 4 0x3000 ++ leBytes 2 2 ++ leBytes 2 rank ++ leBytes 4 1 ++ leBytes 4 9 ++ leBytes 8 (0x600000 + 16 * rank) ++ leBytes 8 (0x600100 + 16 * rank) ++
    leBytes 8 0x600200 ++ leBytes 8 0x700000 ++ leBytes 4 4 ++ leBytes 2 tmo ++ leBytes 10 0
def part (rank st tmo : Nat) : Coll := { id := 30 + rank, ctx := 0, die := 0, iss := { h := 0, f := rank }, tok := 1, addr := 0, desc := collDesc rank tmo, time := 0, st := st }
def joined (st tmo beat : Nat) : State :=
  { state0 with colls := [part 0 st tmo, part 1 st tmo], beat := beat, dev := Memory.writeN state0.dev 0x600000 ([5] ++ leBytes 15 0 ++ [3]) }
/-- RECV of the first has one sector left to write. -/
def landing : State := { joined 2 0 0 with colls := [{ part 0 3 0 with todo := [(0x600100, [1, 0, 0, 0])] }] }
/-- Two descriptors of operation op over words, which agree, and one of another COUNT. -/
def opPart (op rank count : Nat) : Coll :=
  let x := part rank 2 0
  { x with desc := leBytes 4 op ++ (x.desc.drop 4).take 4 ++ leBytes 4 count ++ x.desc.drop 12 }
theorem witness_EngineSteps_coll : ((let s1 := (joined 1 0 0).colls.foldl (fun (s : State) x => s.collRead x.id) (joined 1 0 0)
        s1.collOf 9 4 1 == [part 0 1 0, part 1 1 0] && s1.mism == [] && s1.colls.all fun x => !x.late s1) && !anyDiffer [part 0 1 0, part 1 1 0] &&
      anyDiffer [part 0 1 0, opPart 0 1 2] && field (part 0 1 0).desc 32 16 == 2) = true ∧
    ({ joined 1 0 0 with mism := [(9, 4, 1)] } : State).mism.find? (fun y => y.1 == 9 && y.2.1 == 4) = some (9, 4, 1) ∧
    (let s := joined 2 0 0
     let ps := (s.collOf 9 4 2).foldl (fun l x => insertKey (fun (y : Coll) => field y.desc 48 16) x l) []
     s.collOf 9 4 3 == [] && ps.length == 2 && ps.all (fun x => (s.heldBy (.coll x.id)).isNone) && okAnd (s.collSends ps) fun l => l == [[(5, false)], [(3, false)]]) = true ∧
    ((List.range 5).all fun op => !collOverlaps (opPart op 0 1).desc && (op == 1 || op == 4 || (collSizes (opPart op 0 1).desc).1 == 1) && field (opPart op 0 1).desc 32 16 == 2 &&
      field (opPart op 0 1).desc 48 16 == 0 && field (opPart op 0 1).desc 16 16 == 0 && field (opPart op 0 1).desc 0 8 == op && field (opPart op 0 1).desc 8 8 == 0 &&
      field (opPart op 0 1).desc 64 32 == 1) = true ∧
    (landing.collOf 9 4 2 == [] && landing.collOf 9 4 3 == [{ part 0 3 0 with todo := [(0x600100, [1, 0, 0, 0])] }] && (landing.heldBy (.coll 30)).isNone &&
      okAnd (landing.gwrite fetchCtx 0 0 false 3 0x600100 [1, 0, 0, 0]) fun _ => true) = true ∧ landing.ctx? 0 = some fetchCtx ∧
    [(0, 0), (1, 0), (1, 1000)].all (fun x => let s := joined 1 x.1 x.2
      s.coll? 30 == some (part 0 1 x.1) && decide (1000 * x.1 ≤ s.time) == (x.2 == 1000 || x.1 == 0)) = true := by decide +kernel

def steps1 : List Byte := leBytes 2 1 ++ leBytes 62 0
def mop (kind : Nat) (run : Bool) : MOp := { id := 3, kind := kind, a := 1, running := run, desc := steps1, fmt := leBytes 32 0, pos := if kind = 5 then 32 else 0 }
def queued (o : MOp) : State := onP state0 fun p => { p with engines := p.engines.map fun (e : Engine) => { e with q := [o] } }
theorem witness_EngineSteps_matrix : (queued (mop 0 false)).engine? 0 0 = some ({ polder0 with engines := [{ engine0 with q := [mop 0 false] }] },
      { engine0 with q := [mop 0 false] }) ∧ engine0.slotBusy 3 (mop 0 false).slots = false ∧ (queued (mop 0 false)).spadBusy 0 3 0 6144 false (some 0) = false ∧
    ((queued (mop 2 false)).engine? 0 0).any (fun x => (x.2.running? 1).isNone &&
      x.2.q.find? (fun o => o.kind != 0 && o.a == 1 && o.v == (x.2.acc 1).ver) == some (mop 2 false)) = true ∧
    ((queued (mop 2 true)).engine? 0 0).any (fun x => x.2.running? 1 == some (mop 2 true) && !(mop 2 true).finished &&
      ((queued (mop 2 true)).heldBy (.matrix 0 0 3)).isNone && ((queued (mop 2 true)).ctx? x.1.ctx).isSome &&
      ((queued (mop 2 true)).loopBlock x.1 x.2 (mop 2 true)).any fun y => !y.2) = true ∧
    ((queued (mop 5 true)).engine? 0 0).any (fun x => x.2.running? 1 == some (mop 5 true) && (mop 5 true).finished) = true := by decide +kernel
/-- An int8 loop of one step, and an MSPARSE; both codes are 4. -/
def int8Op (kind : Nat) : MOp := { mop kind true with fmt := leBytes 32 0x44 }
/-- A drain of row 0 to offset 0x2000 of the scratchpad, whole words; or one that leaves zeros and is at its end. -/
def drainOp (dz : Bool) (pos : Nat) : MOp :=
  { id := 3, kind := 5, a := 1, running := true, pos := pos, fmt := leBytes 32 0x50044,
    desc := leBytes 8 (0xFE * 2 ^ 56 + 0x2000) ++ leBytes 4 192 ++ leBytes 4 (if dz then 1 else 0) ++ leBytes 48 0 }
/-- A Gustavson product: row 0 of A holds 3 at column 0, row 0 of B holds 7 at column 5 (R278). -/
def gustOp (pos : Nat) (span : Option (Nat × Nat)) : MOp :=
  { id := 3, kind := 4, a := 1, running := true, pos := pos, span := span, fmt := leBytes 32 0x44,
    desc := leBytes 4 0x1000 ++ leBytes 4 0x1100 ++ leBytes 4 0x1200 ++ leBytes 4 1 ++ leBytes 8 (0xFE * 2 ^ 56 + 0x1300) ++
      leBytes 8 (0xFE * 2 ^ 56 + 0x1400) ++ leBytes 32 0 }
def gustData : Memory :=
  [(0x1000, 0), (0x1200, 3), (0x1300, 0), (0x1304, 1), (0x1400, 7), (0x1402, 5)].foldl (fun m (x : Nat × Nat) => Memory.writeN m x.1 [BitVec.ofNat 8 x.2])
    (Memory.writeN [] 0x1004 (List.replicate 32 (leBytes 4 1)).flatten)
def gusting (o : MOp) : State := onP (queued o) fun p => { p with spad := gustData }
theorem witness_EngineSteps_blocks :
    ((queued (int8Op 2)).engine? 0 0).any (fun x => x.2.running? 1 == some (int8Op 2) && !(int8Op 2).finished && (((queued (int8Op 2)).loopBlock x.1 x.2 (int8Op 2)).any fun y => !y.2) &&
      field (int8Op 2).fmt 0 4 == 4 && field (int8Op 2).fmt 4 4 == 4 && !flag (int8Op 2).desc 32 && !flag (int8Op 2).desc 33 && SMap.wf 0 (x.2.acc 1).words && SMap.wf 0 (x.2.acc 1).spec) = true ∧
    ((queued (int8Op 3)).engine? 0 0).any (fun x => ((queued (int8Op 3)).loopBlock x.1 x.2 (int8Op 3)).any fun y => !y.2) = true ∧
    ((queued (drainOp true 32)).engine? 0 0).any (fun x => x.2.running? 1 == some (drainOp true 32) && (drainOp true 32).finished && flag (drainOp true 32).desc 96) = true ∧
    (let s := queued (drainOp false 0)
     let o := drainOp false 0
     let d := 0xFE * 2 ^ 56 + 0x2000
     let row := (pieces 14 d 192).map fun y => (y.1, ((drainRow o.fmt {} 0 (s.draw (2 ^ 33))).drop (y.1 - d)).take y.2)
     (s.engine? 0 0).any (fun x => x.2.q == [o] && !o.finished && x.1.spad.wf) && field o.desc 0 64 + o.pos * field o.desc 64 32 == d && drainSize o.fmt == 4 && inSpace 0x8000 d 192 &&
       !s.spadBusy 0 3 0x2000 192 true (some 0) && row.all (fun y => decide (d ≤ y.1 ∧ y.1 + y.2.length ≤ d + 192)) &&
       decide (row.Pairwise fun y z => y.1 + y.2.length ≤ z.1)) = true ∧
    (let s := gusting (gustOp 0 none)
     (s.engine? 0 0).any (fun x => !((gustReads x.1 (gustOp 0 none).desc (gustOp 0 none).fmt).any fun z => s.spadBusy 0 3 z.1 z.2 false (some 0)) &&
       okAnd (s.gustNext fetchCtx x.1 (gustOp 0 none) 33 0 0 none) (· == some (0, 0, 0, 1)) &&
       okAnd (s.gustNext fetchCtx x.1 (gustOp 0 none) 33 31 0 none) (·.isNone) &&
       (let y := x.2.modOp 3 fun y => { y with span := some (0, 1) }
        let s1 := s.setEngine 0 y
        okAnd (s1.gustWord fetchCtx x.1 2 (0xFE * 2 ^ 56 + 0x1100)) (· == 0) &&
          okAnd (s1.gustRun fetchCtx x.1 (gustOp 0 none).desc (gustOp 0 none).fmt 1 0 1 0 { rows := [] }) fun r => r.terms == [(5, 3, 7)])) = true) := by
  decide +kernel
/-- 3 times 7 at row 0, column 5 (R279); the first piece of a drained row is written (R282). -/
theorem test_block_steps :
    leads (exec (.matrixBlockCommit 0 0 1) (gusting (gustOp 0 none))) (fun t => (t.engine? 0 0).any fun x => SMap.get 0 (x.2.acc 1).words 5 == 21) = true ∧
    leads (exec (.matrixBlockCommit 0 0 1) (gusting (gustOp (31 * 2 ^ 33) none))) (fun t => (t.engine? 0 0).any fun x => x.2.q.all MOp.finished) = true ∧
    leads (exec (.matrixOpComplete 0 0 1) (queued (drainOp true 32))) (fun t => (t.engine? 0 0).any fun x => (x.2.acc 1).words == [] && (x.2.acc 1).ver == 1) = true ∧
    leads (exec (.collMatch 9 4) { joined 1 0 0 with mism := [(9, 4, 2)] }) (fun t => t.colls == [] && t.mism == [] &&
      (t.fasc? 0 0).any fun f => f.ts.getD 1 0 == 0x702) = true := by decide +kernel
/-- 5 and 3 reduced by AND give 1; the status of a killed chain is KILLED in bits 8 to 15 with error and killed set (R251). -/
theorem test_engine_steps : leads (exec (.sluiceRecordTake 7) (sluiced 1 chain7)) (fun t => (t.schain? 7).any fun k => k.now.map SRec.todo == [lastMove.todo]) = true ∧
    leads (exec (.sluiceRecordComplete 7) (sluiced 1 { chain7 with now := [lastMove] })) (fun t => t.schains == [] && (t.polder? 0).any (fun p =>
      p.spad.readN 0x100 3 == [5, 6, 0]) && (t.dev.readN 0x600008 8 == leBytes 8 0) && (t.fasc? 0 0).any fun f => f.ts.getD 7 0 == 0x10000) = true ∧
    leads (exec (.sluiceKillStop 7) (sluiced 0 { chain7 with kill := true })) (fun t => (t.fasc? 0 0).any fun f => f.ts.getD 7 0 == 0x606) = true ∧
    leads (exec (.cpysComplete 0 0 0) (flying state0 copyOp)) (fun t => (t.polder? 0).any fun p => p.spad.readN 0x100 5 == [1, 0, 0, 0, 2]) = true ∧
    leads (exec (.collComplete 9 4) (joined 2 0 0)) (fun t => t.colls.map (·.todo) == [[(0x600100, [1, 0, 0, 0])], [(0x600110, [1, 0, 0, 0])]]) = true ∧
    leads (exec (.collComplete 9 4) landing) (fun t => t.colls == []) = true ∧ (landing.collSome [30] 1).dev.readN 0x600100 1 = [1] ∧
    leads (exec (.matrixOpComplete 0 0 1) (queued (mop 5 true))) (fun t => (t.engine? 0 0).any fun x => x.2.q == [] && (x.2.acc 1).ver == 1) = true := by
  decide +kernel

/-! ## Steps of jobs, rays and march-unit threads -/

/-- The context keeps no far copies. -/
def nearOnly (s : State) : State := { s with ctxs := s.ctxs.map fun (c : Ctx) => { c with quota := 0 } }
/-- A job whose record, at 0x62_0000, names an object and tag 1. -/
def jobAt (j : Job) (obj : Nat) (s : State) : State :=
  { s with jobs := [j], dev := Memory.writeN s.dev 0x620000 (leBytes 8 obj ++ leBytes 12 0 ++ leBytes 2 1 ++ leBytes 42 0) }
def job0 : Job := { id := 40, kind := 0, ctx := 0, die := 0, iss := some { h := 0 }, tok := 7, addr := 0x620000 }
def ready7 : Job := { job0 with st := 4, ent := some 0, plan := [([7], [], [(0x630000, [1, 2, 3])])], job := leBytes 8 0x600000 ++ leBytes 56 0 }
/-- Entry 0 of the object is RETIRED and pinned twice. -/
def retired : State := { scene1 with dev := Memory.writeN scene1.dev 0x600042 [3] }
def reclaim0 : Job := { job0 with kind := 2, st := 1, job := leBytes 8 0x600000 ++ leBytes 56 0 }
/-- The same with no pin. -/
def unpinned : State := nearOnly { retired with dev := Memory.writeN retired.dev 0x60004C (leBytes 4 0) }
theorem witness_SceneSteps_reclaim : ((jobAt reclaim0 0 unpinned).freeJob 40).any (fun x => x.1 == reclaim0 && (jobAt reclaim0 0 unpinned).jobTurn reclaim0 &&
      okAnd ((jobAt reclaim0 0 unpinned).entries x.2 (.job 40) reclaim0.obj) (fun es => (List.range 2).find? (fun i => entState (es.getD i []) == 3 ||
        entState (es.getD i []) == 4) == some 0 && field (es.getD 0 []) 96 32 == 0) && (jobAt reclaim0 0 unpinned).rays == [] &&
      okAnd ((jobAt reclaim0 0 unpinned).objRead x.2 (.job 40) 0 24 (mapAddr reclaim0.obj 0) 4096) fun m =>
        okAnd ((jobAt reclaim0 0 unpinned).objWrite x.2 (.job 40) 0 (2 ^ 18) (mapAddr reclaim0.obj 0) m) fun t =>
          okAnd (t.objWrite x.2 (.job 40) 0 (2 ^ 19) (entryAddr reclaim0.obj 0) [0, 0, 0, 0]) fun _ => true) = true := by decide +kernel
theorem witness_SceneSteps_jobs : ((jobAt job0 0x600004 scene1).freeJob 40).any (fun x => x.1 == job0 && (jobAt job0 0x600004 scene1).jobTurn job0 &&
      !(jobAt job0 0x600004 scene1).recordBusy job0 0 64 false && (jobAt job0 0x600004 scene1).splitTurn x.2 job0 &&
      !(jobAt job0 0x600004 scene1).recordBusy job0 29 7 true && !(jobAt ready7 0 scene1).dieDown (ready7.fenceDie x.2 7) &&
      okAnd ((jobAt job0 0x600004 scene1).objRead x.2 (.job 40) 0 0 0x620000 64) (fun r => ({ job0 with job := r } : Job).obj % 4096 == 4) &&
      okAnd ((jobAt job0 0x600004 scene1).runJob x.2 job0) fun y => y.2.id == 40 && y.2.st != 3) = true ∧
    ((jobAt ready7 0 scene1).freeJob 40).any (fun x => x.1 == ready7 && okAnd ((jobAt ready7 0 scene1).writeNodes x.2 (.job 40) (ready7.fenceDie x.2 7) [(0x630000, [1, 2, 3])])
      fun s => okAnd (s.writeFences x.2 (.job 40) ready7.obj 0 (field ready7.job 160 16) 1 [7]) fun _ => true) = true ∧
    ((jobAt reclaim0 0 retired).freeJob 40).any (fun x => x.1 == reclaim0 && (jobAt reclaim0 0 retired).jobTurn reclaim0 &&
      okAnd ((jobAt reclaim0 0 retired).entries x.2 (.job 40) reclaim0.obj) fun es => (List.range 2).find? (fun i => entState (es.getD i []) == 3 ||
        entState (es.getD i []) == 4) == some 0 && field (es.getD 0 []) 96 32 == 2) = true ∧
    ((jobAt { job0 with st := 5 } 0 scene1).freeJob 40).any (fun x => x.1.code == 0 && okAnd ((jobAt { job0 with st := 5 } 0 scene1).writeJst x.2 x.1)
      fun s => (s.fasc? 0 0).isSome) = true := by decide +kernel
theorem test_job_steps : leads (exec (.jobStart 40) (jobAt job0 0x600004 scene1)) (fun t => (t.job? 40).any fun j => j.st == 5 && j.code == 1) = true ∧
    leads (exec (.fenceReady 40 7) (jobAt ready7 0 scene1)) (fun t => (t.dev.readN 0x630000 3 == [1, 2, 3]) && (t.job? 40).any fun j => j.plan == [] && j.nodes == 1) = true ∧
    leads (exec (.reclaim 40) (jobAt reclaim0 0 retired)) (fun t => (t.job? 40).any fun j => j.code == 6) = true ∧
    leads (exec (.jobEnd 40) (onF (jobAt { job0 with st := 5, nodes := 9 } 0 scene1) fun f => { f with tok := 0x81 })) (fun t => t.jobs == [] &&
      (t.dev.readN 0x62001D 4 == [0, 0, 0, 9]) && (t.fasc? 0 0).any fun f => f.tok == 1) = true := by decide +kernel

/-- A ray of thread 3: along z to 1, generation 1; or with no direction. -/
def ray0 (q : List Word) (held : Option Nat) : Ray := { id := 8, iss := { h := 0 }, g := 0, t := 3, inst := 8, any := false, dst := 20, obj := 0x600000, query := q, held := held }
def goodQuery : List Word := [0, 0, 0, 0, 0, 0, 0x3F800000, 0x3F800000, 1]
def rayed (r : Ray) (fence : List Byte) : State := nearOnly { scene1 with rays := [r], dev := Memory.writeN scene1.dev 0x601104 fence }
theorem witness_SceneSteps_rays : badQuery (List.replicate 9 0) = true ∧ badQuery goodQuery = false ∧
    [ray0 (List.replicate 9 0) none, ray0 goodQuery none, ray0 goodQuery (some 0), { ray0 goodQuery (some 0) with parked := true }].all (fun r =>
      let s := rayed r []
      s.ray? 8 == some r && (s.body? 0).isSome && (s.ctx? 0).isSome && !r.done && r.looked && !(s.faults.any fun a => a.owner == .ray 8)) = true ∧
    ((rayed (ray0 goodQuery (some 0)) []).ctx? 0).any (fun c => okAnd ((rayed (ray0 goodQuery (some 0)) []).rayRun c (ray0 goodQuery (some 0)) 0) (·.isNone) &&
      okAnd ((rayed (ray0 goodQuery (some 0)) [2, 0, 1, 0]).rayRun c (ray0 goodQuery (some 0)) 0) (·.isSome)) = true ∧
    ((rayed (ray0 goodQuery none) []).fasc? 0 0).isSome = true ∧ (rayed (ray0 goodQuery none) []).rays = [ray0 goodQuery none] ∧
      (rayResult goodQuery none 4096).length = 5 ∧ 20 + 5 ≤ 160 := by decide +kernel
/-- Misses: +inf, 0, 0, -1, and the flag with the tag 1 of the query (R306). -/
theorem test_ray_steps : leads (exec (.rayComplete 8) (rayed (ray0 goodQuery none) [])) (fun t => t.rays == [] &&
      (List.range 5).map (fun i => vreg (20 + i) 3 t) == [0x7F800000, 0, 0, 0xFFFFFFFF, 0x11000]) = true ∧
    leads (exec (.rayComplete 8) (rayed (ray0 (List.replicate 9 0) none) [])) (fun t => vreg 24 3 t == 0x4000) = true ∧
    leads (exec (.rayComplete 8) (rayed (ray0 goodQuery (some 0)) [])) (fun t => (t.ray? 8).any (·.parked)) = true := by decide +kernel

def walk0 : Walk := { id := 9, iss := { h := 0 }, g := 0, t := 3, inst := 9, kind := 0, dst := 20, mesh := leBytes 64 0, query := List.replicate 9 0, st := List.replicate 8 0 }
def walking : State := nearOnly { state0 with walks := [walk0] }
/-- A mesh of one cell, flat, with no neighbours; a probe that starts in it, and a point of MLOC that is reached. -/
def mesh1 : List Byte := leBytes 8 0x600000 ++ leBytes 8 0x600100 ++ leBytes 4 1 ++ leBytes 4 1 ++ leBytes 8 0x600200 ++ leBytes 32 0
def meshed (w : Walk) : State := nearOnly { state0 with walks := [w], dev := Memory.writeN state0.dev 0x600110 (List.replicate 16 0xFF) }
def probe : Walk := { walk0 with mesh := mesh1, begun := true, query := List.replicate 7 0 ++ [0x3F800000, 2] }
def located : Walk := { walk0 with kind := 1, mesh := mesh1, begun := true, query := List.replicate 4 0, st := setAt (List.replicate 8 0) 1 0x3F800000 }
/-- A grid of one occupied point, and a thread that samples two points of the line from its corner. -/
def grid1 : List Byte := leBytes 12 0 ++ (List.replicate 3 (leBytes 4 0x3F800000)).flatten ++ leBytes 8 0x600002 ++ leBytes 8 0x600000 ++ leBytes 88 0
def sampler (n : Word) : Walk :=
  { walk0 with kind := 2, mesh := grid1, begun := true, addr := 0x100, query := List.replicate 6 0 ++ [0x3F800000, 0x3F800000, 4, 0, 0, 0x1000], st := [0, n, 0, 0] }
theorem witness_SceneSteps_walks : walking.walk? 9 = some walk0 ∧ (walking.body? 0).isSome = true ∧ walking.faults = [] ∧ (walking.ctx? 0).any (fun c =>
      okAnd ((walking.strayFar c (dieOf (coreOf 0)) (walking.strayAt walk0.ranges)).latchMesh c walk0) fun x => okAnd (x.1.beginWalk c x.2) fun y => y.2 == some 5 && y.1.id == 9) = true ∧
    ({ walking with faults := [{ ctx := 0, va := 0, write := false, cause := 1, owner := .walk 9, ended := true }] } : State).faults.all (fun a => a.owner == .walk 9 && a.ended) = true ∧
    ((meshed probe).ctx? 0).any (fun c => let s := (meshed probe).strayFar c (dieOf (coreOf 0)) ((meshed probe).strayAt probe.ranges)
      (match s.pass c probe probe.theLine with | (_, .ok (some k)) => k == 3 | _ => false)) = true ∧
    ((meshed located).ctx? 0).any (fun c => let s := (meshed located).strayFar c (dieOf (coreOf 0)) ((meshed located).strayAt located.ranges)
      (match s.pass c located located.theLine with | (w, .ok (some 0)) => w.kind == 1 && okAnd (s.mlocLam c w) (· == [0, 0, 0, 0]) | _ => false)) = true ∧
    ((meshed (sampler 2)).ctx? 0).any (fun c => (match (meshed (sampler 2)).sampleStep c (sampler 2) with | (_, _, .ok (some k)) => k == 8 | _ => false)) = true ∧
    ((meshed (sampler 0)).ctx? 0).any (fun c => let s := meshed (sampler 0)
      let w := sampler 0
      (match gridPoint w.mesh ((⟨V3.of fun i => (fw w.query i).toQ, V3.of fun i => (fw w.query (4 + i)).toQ⟩ : Line).point (sampleAt w.query 0)) with
        | some u => okAnd (s.occupied c w u) id && okAnd (s.featureRow c w u) fun row => row.length == 128
        | none => false) && !(fw w.query 7).lt false (sampleAt w.query 0) && (s.polder? 0).any (·.spad.wf) && !w.helper && w.st.length == 4) = true ∧
    (meshed probe).fasc? 0 0 = state0.fasc? 0 0 ∧ probe.keep = true ∧ 20 + (probe.block 3 []).length ≤ 160 ∧ probe.st.length = 8 := by decide +kernel
/-- The block of a walk that left through the boundary, code 3, in v20 to v27 (R324, R338); a sample that is complete, code 8 in
its third word (R333); a fault that the host ended, code 6 (R336). -/
theorem test_walk_steps : ((meshed probe).endWalk probe 3).walks = [] ∧ (vreg 26 3 ((meshed probe).endWalk probe 3)).toNat % 16 = 3 ∧
    vreg 22 3 ((meshed (sampler 2)).endWalk (sampler 2) 8) = 8 ∧
    leads (exec (.marchUnitThreadEnd 9) { walking with faults := [{ ctx := 0, va := 0, write := false, cause := 1, owner := .walk 9, ended := true }] })
      (fun t => t.walks == [] && (vreg 26 3 t).toNat % 16 == 6) = true := by decide +kernel
/-- A held read of a page that is mapped, and one of a page that is not. -/
def fault0 (va cause : Nat) : Fault400 := { ctx := 0, va := va, write := false, cause := cause, owner := .chain 7 }
def faulted (a : Fault400) : State := { state0 with faults := [a] }
def causeOf (s : State) (va : Nat) : Nat := match s.translate fetchCtx va 0 0 with
  | .ok _ => 0
  | .error e => e.cause
theorem witness_SceneSteps_faults : (state0.ctx? 0).any (fun c => c == fetchCtx && okAnd ((faulted (fault0 0x600000 1)).translate c 0x600000 0 0) fun _ => true) = true ∧
    okAnd (state0.translate fetchCtx (2 ^ 40) 0 0) (fun _ => true) = false ∧
    causeOf (faulted (fault0 (2 ^ 40) (causeOf state0 (2 ^ 40)))) (2 ^ 40) = (fault0 (2 ^ 40) (causeOf state0 (2 ^ 40))).cause := by decide +kernel
theorem test_fault_steps : leads (exec (.engineFaultRetry 0) (faulted (fault0 0x600000 1))) (fun t => t.faults == [] && (t.ctx? 0).any fun c => c.evq.length == 1) = true ∧
    leads (exec (.marchUnitThreadEnd 9) walking) (fun t => t.walks == []) = true := by decide +kernel


/-! ## Steps of queues -/

/-- Queue 5 changed; its ring, at 0x70_0000, begins with a packet of a kind (R345). -/
def onQ (s : State) (g : Queue → Queue) : State := { s with queues := s.queues.map g }
def ringWith (kind : Nat) (s : State) : State := { s with dev := Memory.writeN s.dev 0x700000 [BitVec.ofNat 8 kind] }
theorem witness_QueueSteps_doorbell : (state0.queue? 6).isNone = true ∧ (state0.queue? 5).any (fun q => q.en && !q.err && q.wr == 0 && q.rd == 0 && q.logn == 4 && q.st != .placing) = true ∧
    ((onQ state0 fun q => { q with en := false }).queue? 5).any (fun q => !q.en) = true := by decide +kernel
/-- A packet of the ring is in hand, or a child. -/
def inHand (parent : Option Nat) : State := onQ state0 fun q => { q with st := .ready, pkt := some { bytes := leBytes 64 3, root := 0, path := [0], parent := parent } }
theorem witness_QueueSteps_bells : state0.ready = true ∧ (state0.heard 0 && state0.bellWay 0 5) = true ∧ (state0.ctx? 0).any (fun c => c.port == 0) = true ∧
    [none, some 9].all (fun x => ((inHand x).queue? 5).any fun q => q.en && !q.err && (q.pkt.map (·.parent)) == some x && q.st != .placing) = true ∧
    ({ state0 with ready := false } : State).ready = false := by decide +kernel
/-- With a tail child in hand, DOOR leaves it (log 22). -/
theorem test_door_values : leads (exec (.doorbell 5 17) (inHand none)) (fun t => (t.queue? 5).any fun q => q.err && q.ecode == 3 && q.pkt.isNone && q.st == .error) = true ∧
    leads (exec (.doorbell 5 17) (inHand (some 9))) (fun t => (t.queue? 5).any fun q => q.err && q.pkt.isSome && q.st == .ready) = true := by decide +kernel
theorem witness_QueueSteps_tails : (let s := onQ state0 fun q => { q with tails := [{ bytes := leBytes 64 3, root := 0, path := [0, 0], parent := some 9 }] }
    (s.queue? 5).any fun q => (s.ctx? q.ctx).any fun c => q.tails.any fun p => okAnd (s.checkPacket c q p) fun y => y.1 == 0) = true := by decide +kernel
theorem witness_QueueSteps_fetch : [(3, 0), (5, 1)].all (fun x => let s := ringWith x.1 (onQ state0 fun q => { q with wr := 1 })
    (s.queue? 5).any fun q => (s.ctx? q.ctx).any fun c => !c.dead && q.pkt.isNone && q.st != .placing && !(s.faults.any fun a => a.owner == .packet 5 && !a.ended) &&
      q.tails == [] && q.en && !q.err && q.wr != q.rd && okAnd (s.seqRead c 5 0 0x700000 64) fun b =>
        okAnd (s.checkPacket c q { bytes := b, addr := 0x700000, root := 0, path := [0] }) fun y => y.1 == x.2 && y.2.parent.isNone) = true := by decide +kernel
/-- A READY packet of a kind. -/
def waitingPkt (kind : Nat) : State := onQ state0 fun q => { q with st := .ready, wr := 1, pkt := some { bytes := leBytes 64 kind, root := 0, path := [0] } }
/-- The grid of a kernel packet that has not placed; or of a marker that is quiet. -/
def gridOf (placed started : Bool) (done : Nat) (pool : List (List Byte)) : State :=
  state0.setGrid { id := 9, ctx := 0, q := 5, pkt := { bytes := leBytes 48 3 ++ leBytes 8 done ++ leBytes 8 0, root := 0, path := [0] }, placed := placed, started := started, pool := pool }
theorem witness_QueueSteps_select : [0, 2, 3].all (fun k => ((waitingPkt k).queue? 5).any fun q => q.pkt.isSome && ((waitingPkt k).ctx? q.ctx).isSome && (waitingPkt k).mayPick q) = true ∧
    [(false, false, 0), (true, false, 0), (true, true, 0), (true, true, 0x600010)].all (fun x => let s := gridOf x.1 x.2.1 x.2.2 []
      (s.grid? 9).any fun g => (s.ctx? g.ctx).any fun c => (s.queue? g.q).any fun q => g.placed == x.1 && g.started == x.2.1 && !c.dead && !c.hold &&
        s.gridQuiet g == x.1 && g.kids == 0 && !(s.faults.any fun a => a.owner == .place 9 && !a.ended) && g.pkt.parent.isNone && q.comp == [] && q.done == g.pkt.root &&
        (if field g.pkt.bytes 0 4 = 4 ∨ field g.pkt.bytes 384 64 = 0 then x.2.2 == 0
          else okAnd (s.objWrite c (.place 9) 0 0 (field g.pkt.bytes 384 64) (leBytes 8 s.time)) fun _ => x.2.2 == 0x600010)) = true := by decide +kernel
/-- Partition 7 of core 0 alone has a matrix engine that no polder reserves. -/
def crowded : State := onP state0 fun p => { p with ranks := (List.range 7).map fun k => (k, 0) }
def shape1 : Shape := { ranks := 1, regs := 8, bars := 2, slots := 1, spad := 128 }
theorem witness_QueueSteps_place : (crowded.ctx? 0).any (fun c => (crowded.placeOn c 0 shape1 (leBytes 64 0) 0x600100 { ring := 4 }).isSome) = true ∧
    (crowded.ctx? 0).any (fun c => (crowded.placeOn c 0 shape1 (leBytes 64 0) 0x600100 { ring := 4 }).any fun x => x.1 == 1 && (x.2.polder? 1).any fun p => p.ranks == [(7, 0)]) = true := by
  decide +kernel
/-- Core 0 alone of its die is not kept for ring 77; or core 0 is. -/
def oneCore (s : State) : State := { s with reserved := [(77, 0, (List.range 63).map (· + 1))] }
def noCore (s : State) : State := { s with reserved := [(77, 0, [0])] }
/-- A kernel packet of one polder, with a ring of one core or none. -/
def kernel1 (rc : Nat) : List Byte :=
  leBytes 4 0 ++ leBytes 4 1 ++ leBytes 8 0x600100 ++ [0x11, BitVec.ofNat 8 rc, 8, 2, 1, 0, 0, 0] ++ leBytes 4 128 ++ leBytes 4 64 ++ leBytes 8 0x600100 ++ leBytes 24 0
def gridK (rc : Nat) : Grid := { id := 9, ctx := 0, q := 5, pkt := { bytes := kernel1 rc, root := 0, path := [0], heads := [leBytes 128 0] } }
def placing (rc : Nat) : State := (oneCore crowded).setGrid (gridK rc)
theorem witness_QueueSteps_rings : [0, 1].all (fun rc => (((placing rc).grid? 9) == some (gridK rc)) && ((placing rc).ctx? 0).any fun c => let s := placing rc
      let g := gridK rc
      let x := g.kernel.1
      !c.dead && !c.hold && c.allowed g.pkt.bytes == some [0] && x.rcores == rc && x.ppr == 1 && g.left == [] &&
        (if rc = 0 then (((octetsOf [0]).flatMap octetCores).filter fun k => s.hasRoom k s.nextId x (claims g.kernel.2.1)) == [0] &&
            (s.fresh.2.placeOn c 0 x g.kernel.2.1 g.kernel.2.2 (g.role s.nextId 0)).isSome
          else (s.fresh.2.placeRing c [0] x g.kernel.2.1 g.kernel.2.2 fun j => g.role s.nextId (g.ring * x.ppr + j)).isSome)) = true ∧
    ((noCore (placing 1)).ctx? 0).isSome = true := by decide +kernel
/-- A handler for a trap of polder 0 that waits; its template asks for one rank. -/
def waiting1 : Pending :=
  { id := 3, ctx := 0, target := 0, tself := 1, die := 0, q := 5, kobj := 0x600100, head := leBytes 80 0 ++ [1, 0, 8, 2, 1, 0, 0, 0] ++ leBytes 4 128 ++ leBytes 36 0 }
def handled (s : State) : State := { s with pending := [waiting1], ctxs := s.ctxs.map fun (c : Ctx) => { c with tring := 0x610000 } }
theorem witness_QueueSteps_handlers : (let s := handled (oneCore crowded)
    (s.grid? 3).isNone && s.pending.find? (·.id == 3) == some waiting1 && (s.ctx? 0).any fun c => !c.dead && !c.hold &&
      (((octetsOf [0]).flatMap octetCores).filter fun k => s.hasRoom k s.nextId (tmplShape (waiting1.head.drop 64) 0x610040) (claims waiting1.head)) == [0] &&
      (s.fresh.2.placeOn c 0 (tmplShape (waiting1.head.drop 64) 0x610040) waiting1.head 0x600100
        { queue := 5, prio := 7, ring := s.nextId, sys := true, tself := some 1, target := 0 }).isSome) = true := by decide +kernel
/-- The placed polder: of the packet's queue and grid, at the kernel object + 256; and a handler in the system domain. -/
theorem test_placement_values : leads (exec (.ringPlace 9) (placing 0)) (fun t => (t.polder? 1).any (fun p => p.grid == some 9 && p.code == 0x600200 && p.ranks == [(7, 0)] && !p.sys) &&
      (t.grid? 9).any fun g => g.placed && g.ring == 1) = true ∧
    leads (exec (.ringPlace 9) (placing 1)) (fun t => (t.polder? 1).any fun p => p.kcores == [0] && p.rcores == 1) = true ∧
    leads (exec (.ringPlace 3) (handled (oneCore crowded))) (fun t => t.pending == [] && (t.polder? 1).any fun p => p.sys && p.tself == some 1) = true := by decide +kernel
/-- A notice waits, and queue 5 is the privileged queue. -/
def noticed : State :=
  let s := onQ state0 fun q => { q with priv := true }
  { s with ctxs := s.ctxs.map fun (c : Ctx) => { c with evc := [0, 0, 0], evq := [{ cls := 2, die := 0, ts := 5, det := 7 }] } }
/-- A bin of node 1 with a record; its spillway part, at 0x64_0000, with another. -/
def spilled : State :=
  let s := launched 3 0 0
  { s with bins := [bin9], spills := [⟨9, 1, 0, [(0, 0, none)]⟩],
           grids := s.grids.map fun (g : Grid) => { g with bins := [0], pkt := { g.pkt with nodes := List.replicate 2 (leBytes 24 0 ++ leBytes 8 0x640000 ++ leBytes 32 0x1000) } } }
theorem witness_QueueSteps_events : (noticed.ctx? 0).any (fun x => (noticed.queues.find? fun q => q.priv && q.ctx == 0 && q.st != .unbound).any fun q =>
      x.evq.length == 1 && !x.dead && decide (q.wr - q.rd < 2 ^ q.logn) &&
      okAnd (noticed.gwrite x atHome 0 false 4 (q.qbase + 64 * (q.wr % 2 ^ q.logn)) (eventBytes 0 { cls := 2, die := 0, ts := 5, det := 7 })) fun _ => true) = true ∧
    (spilled.grid? 9).any (fun g => (spilled.ctx? 0).any fun c => (spilled.bin? 0 9 1) == some bin9 && bin9.recs.length == 1 && !c.dead && !c.hold &&
      !(spilled.faults.any fun a => a.owner == .spill 9 1 0 && !a.ended) && (spilled.spill? 9 1 0).held.length == nodeCount (g.node 1) &&
      okAnd (spilled.takeSpill c g 1 0 (nodeCount (g.node 1))) (fun _ => c.pdie 0 == some 0 && spilled.hasRoom 0 spilled.nextId (nodeShape (g.node 1))
        (claims (g.pkt.heads.getD 1 [])))) = true ∧ ((launched 3 0 0).spill? 9 1 0).held = [] ∧ dieOf 0 = 0 ∧ 0 / 8 / 8 = 0 := by decide +kernel
/-- Node 1 asks for one rank; its bin holds a record. -/
def node1 : List Byte :=
  leBytes 8 0x600100 ++ [1, 0, 8, 2, 1, 0, 0, 0] ++ leBytes 8 128 ++ leBytes 8 0x640000 ++ leBytes 4 0x1000 ++ leBytes 4 64 ++ leBytes 8 0x600100 ++ leBytes 80 0
def firing : State :=
  let s := onP (launched 3 0 0) fun p => { p with ranks := (List.range 7).map fun k => (k, 0) }
  let heads := List.replicate 2 (leBytes 128 0)
  { s with bins := [bin9], grids := s.grids.map fun (g : Grid) => { g with bins := [0], pkt := { g.pkt with nodes := List.replicate 2 node1, heads := heads } } }
theorem witness_QueueSteps_fire : (firing.grid? 9).any (fun g => (firing.bin? 0 9 1) == some bin9 && (firing.ctx? 0).any fun c => !c.hold && !c.dead &&
      (firing.placeNode c g 1 0 bin9.recs).isSome && ((noCore firing).placeNode c g 1 0 bin9.recs).isNone && nodeRsize (g.node 1) == 16 &&
      decide (bin9.since + nodeTimer (g.node 1) ≤ firing.time ∨ nodeCount (g.node 1) ≤ 1) &&
      (let x := firing.spill? g.id 1 0
       let base := partBase c (g.node 1) 0
       decide (x.held.length < nodeParts c (g.node 1)) && okAnd (firing.objRead c (.spill 9 1 0) 0 0 base 4) fun k =>
         okAnd (firing.objWrite c (.spill 9 1 0) 0 8 (base + 64 + 32 * (leNat k % max 1 (nodeParts c (g.node 1)))) (leBytes 16 0 ++ firing.tagBytes none)) fun s1 =>
           okAnd (s1.objWrite c (.spill 9 1 0) 0 16 base (leBytes 4 1)) fun _ => true)) = true := by decide +kernel
/-- A polder takes the record; or it goes to the spillway part, whose HEAD becomes 1 (R358). -/
theorem test_fire_values : leads (exec (.binTimerExpiry 0 9 1) firing) (fun t => (t.polder? 1).any (fun p => p.node == some 1 && p.nrec == 1) && (t.bin? 0 9 1).all (·.recs == [])) = true ∧
    leads (exec (.binTimerExpiry 0 9 1) (noCore firing)) (fun t => (t.polder? 1).isNone && (t.spill? 9 1 0).held.length == 1 && t.dev.readN 0x640000 1 == [1]) = true := by decide +kernel
theorem test_queue_steps : leads (exec (.doorbell 5 16) state0) (fun t => (t.queue? 5).any fun q => q.wr == 16 && !q.err) = true ∧
    leads (exec (.doorbell 5 17) state0) (fun t => (t.queue? 5).any fun q => q.wr == 0 && q.err && q.ecode == 3) = true ∧
    leads (exec (.packetFetch 5) (ringWith 5 (onQ state0 fun q => { q with wr := 1 }))) (fun t => (t.queue? 5).any fun q => q.err && q.ecode == 1) = true ∧
    leads (exec (.packetSelect 5) (waitingPkt 3)) (fun t => (t.queue? 5).any (fun q => q.rd == 1 && q.pkt.isNone) && t.grids.length == 1) = true ∧
    leads (exec (.tailChildStart 9) (gridOf true false 0 [leBytes 64 3])) (fun t => (t.queue? 5).any (fun q => q.tails.map Pkt.depth == [1]) && (t.grid? 9).any (·.kids == 1)) = true ∧
    leads (exec (.packetComplete 9) (gridOf true true 0x600010 [])) (fun t => t.grids == [] && (t.queue? 5).any fun q => q.done == 1) = true ∧
    leads (exec (.eventPacketWrite 0) noticed) (fun t => (t.queue? 5).any (fun q => q.wr == 1) && (t.ctx? 0).any (fun c => c.evc == [0, 1, 0]) && (t.dev.readN 0x700000 1 == [4])) = true := by
  decide +kernel

/-! ## Steps of contexts -/

/-- Polder 1 has halted; records go to 0x61_0000, and vector 14 at 0x65_0000 names a kernel at 0x66_0000. -/
def trapped (tvec : Nat) : State :=
  let s := (onP state0 fun p => { p with queue := 5 }).setPolder { halted1 with halt := some { halt1 with tself := none } }
  let d := Memory.writeN (Memory.writeN s.dev (0x650000 + 8 * 14) (leBytes 8 0x660000)) 0x660000 [1]
  { s with ctxs := s.ctxs.map fun (c : Ctx) => { c with tring := 0x610000, tvec := tvec }, dev := Memory.writeN d 0x660050 [1, 0, 8], beat := 1 }
theorem witness_TrapAndSaveSteps_trap : [0, 0x650000].all (fun tvec => let s := trapped tvec
    (s.polder? 1).any fun p => p.halt.any fun x => x.tself.isNone && !p.sys && (s.ctx? p.ctx).any fun c => c.tvec == tvec && x.time != s.time && (x.time == state0.time) &&
      (List.range 256).find? (fun i => !c.recs.any (·.1 == i)) == some 0 && (s.heldBy (.trap 1)).isNone &&
      okAnd (s.gwrite c (pastFar p.die) 0 false 4 c.tring (trapRecord p x 0)) fun s1 => tvec == 0 ||
        let s2 := (s1.setCtx { c with recs := c.recs ++ [(0, 1)] }).setPolder { p with halt := some { x with tself := some 0 } }
        okAnd (s1.gread c (pastFar p.die) 8 2 (c.tvec + 8 * x.code) 8) fun y => leNat y.1 == 0x660000 && isGlobal 0x660000 &&
          okAnd (s2.gread c (pastFar p.die) 16 9 0x660000 256) fun z => !kernelBad z.1) = true := by decide +kernel
theorem test_trap_steps : leads (exec (.trapDelivery 1) (trapped 0x650000)) (fun t => t.pending.map (fun x => (x.target, x.tself, x.kobj)) == [(7, 0, 0x660000)] &&
      (t.dev.readN 0x610000 1 == [14])) = true ∧
    leads (exec (.trapDelivery 1) (trapped 0)) (fun t => t.pending == [] && t.ports.map (fun p => p.wait.map NRec.kind) == [[4], []]) = true := by decide +kernel

/-! ## Save and restore -/

/-- Polder 1 is asked to stop and be saved, with EVICT or not, to the image whose header gives ALEN; an operation of it may be in flight. -/
def stopping (ev : Bool) : Polder := { bare with stopReq := some ⟨0, 0, 0, 0x40000000, ev⟩ }
def savingIn (alen : Byte) (ev : Bool) : State := (saver [0, 0, alen, 0, 1]).setPolder (stopping ev)
def saving (ev : Bool) : State := savingIn 2 ev
def stopping1 : Polder := { stopping false with fs := [{ fasc0 with ops := [op0] }] }
/-- The state in the beat of the sample, and the polder there. -/
def sampleOf (s : State) (p : Polder) : State := (s.passTo (s.beat + 1)).setPolder { p.settle (s.passTo (s.beat + 1)) with stopReq := none }
theorem joined_length (l : List (List Byte)) : ∀ hd : List Byte, (joinSections hd l).length ≤ hd.length + (l.map fun x => x.length + 64).sum := by
  induction l with
  | nil => intro hd; simp [joinSections]
  | cons x l ih =>
    intro hd
    have := ih (hd ++ List.replicate (roundUp hd.length 64 - hd.length) 0 ++ x)
    have h : roundUp hd.length 64 - hd.length ≤ 64 := by simp only [roundUp]; omega
    simp only [joinSections, List.foldl_cons, List.map_cons, List.sum_cons, List.length_append, List.length_replicate] at this ⊢
    omega
theorem sections_length (s : State) (p : Polder) (hf : p.fs = []) (he : p.engines = []) (hi : p.io = []) :
    ((s.sections p []).map fun x => x.length + 64).sum ≤ (p.block s).length + p.spImage.length + 60000 := by
  simp only [State.sections, hf, he, hi, List.flatMap_nil, List.zipIdx_nil, List.map_cons, List.map_nil, List.sum_cons, List.sum_nil, List.length_nil,
    List.length_take, List.length_replicate]
  omega
theorem putImage_host {s : State} {b : List Byte} {die : Nat} (m : Mapped s (pastFar die)) (hb : b.length ≤ 2 ^ 30) :
    ∃ t, s.putImage fetchCtx die 0x40000000 b [] = .ok t := by
  obtain ⟨t, h, -⟩ := gwrite_host (die := pastFar die) (tag := 0) (q := false) (va := 0x40000000) (fuel := b.length / 32 + 2) (b := b) m (by omega) (by omega)
  exact ⟨t, by simp only [State.putImage, h, List.foldl_nil]⟩
theorem saving_maps (ev : Bool) : Mapped (sampleOf (saving ev) (stopping ev)) (pastFar 0) := by
  cases ev <;> exact ⟨by unfold sampleOf saving savingIn saver; rfl, rfl, rfl, rfl, rfl⟩
theorem sampled_bare (ev : Bool) : ({ (stopping ev).settle ((saving ev).passTo ((saving ev).beat + 1)) with stopReq := none } : Polder).sampled = bare := by
  cases ev <;> decide +kernel
/-- The stop of polder 1: it waits for the operation, or is complete; the image has room, or not. -/
theorem witness_TrapAndSaveSteps_stop (ev : Bool) : (((saving false).setPolder stopping1).stopDone stopping1 = false ∧ ((saving ev).polder? 1) = some (stopping ev) ∧
      (saving ev).ctx? (stopping ev).ctx = some fetchCtx ∧ (saving ev).saves = [] ∧ (stopping ev).life ≠ .draining ∧
      (saving ev).stopDone (stopping ev) = true ∧ ((saving ev).passTo ((saving ev).beat + 1)).lateList bare = [] ∧
      okAnd (((saving ev).passTo ((saving ev).beat + 1)).gread fetchCtx (pastFar 0) 0 2 0x40000000 8) (fun x => field x.1 0 32 == 0x20000 && field x.1 32 32 == 1) = true ∧
      imgNeed (bare.imgHeader 0x20000 1 ev) ≤ 0x20000) ∧
    ∃ s1, (sampleOf (saving ev) (stopping ev)).putImage fetchCtx 0 0x40000000
      (joinSections (bare.imgHeader 0x20000 1 ev) (((saving ev).passTo ((saving ev).beat + 1)).sections bare [])) (bare.imgPoison (bare.imgHeader 0x20000 1 ev)) = .ok s1 := by
  refine ⟨by cases ev <;> decide +kernel, ?_⟩
  have hp : bare.imgPoison (bare.imgHeader 0x20000 1 ev) = [] := by cases ev <;> decide +kernel
  have hh : (bare.imgHeader 0x20000 1 ev).length ≤ 512 := by cases ev <;> decide +kernel
  have hb : (bare.block ((saving ev).passTo ((saving ev).beat + 1))).length ≤ 4096 := by cases ev <;> decide +kernel
  have hl : (joinSections (bare.imgHeader 0x20000 1 ev) (((saving ev).passTo ((saving ev).beat + 1)).sections bare [])).length ≤ 2 ^ 30 := by
    refine Nat.le_trans (joined_length _ _) ?_
    have hs : bare.spImage.length = 0 := by decide +kernel
    have hn := sections_length ((saving ev).passTo ((saving ev).beat + 1)) bare rfl rfl rfl
    omega
  rw [hp]
  exact putImage_host (saving_maps ev) hl
/-- An image of no bytes is too small: NEED is written and STAT becomes 1 (R384). -/
theorem witness_TrapAndSaveSteps_small : (let s0 := (savingIn 0 false).passTo ((savingIn 0 false).beat + 1)
     okAnd (s0.gread fetchCtx (pastFar 0) 0 2 0x40000000 8) (fun x => field x.1 0 32 == 0) && decide (0 < imgNeed (bare.imgHeader 0 1 false)) &&
       okAnd ((sampleOf (savingIn 0 false) (stopping false)).gwrite fetchCtx (pastFar 0) 0 false 2 (0x40000000 + 10) (leBytes 4 (imgNeed (bare.imgHeader 0 1 false)))) fun s1 =>
         okAnd (s1.setStat fetchCtx 0 0x40000000 1) fun _ => true) = true ∧
    leads (exec (.polderStopComplete 1) (savingIn 0 false)) (fun t => (t.polder? 1).any (·.stopReq.isNone) && (t.host.readN 10 4 == leBytes 4 (imgNeed (bare.imgHeader 0 1 false))) &&
      (t.host.readN 9 1).map (· &&& 15) == [1] && pcOf t == 8) = true := by decide +kernel

/-- A saved polder without ranks, whose fused ring has core 0 reserved, waits to be restored. -/
def fusedSaved : Polder := { bare with ranks := [], rcores := 2, ppr := 2, fuse := true }
def restoring : State :=
  { evicted false (bareHead 0) with saved := [{ p := fusedSaved, img := 0x40000000, live := 0 }], restores := [⟨50, 0, 0, 0, 0, 0x40000000, fusedSaved.h⟩], reserved := [(fusedSaved.ring, 64, [0, 1])] }
theorem witness_TrapAndSaveSteps_restore : (restoring.restores.find? (·.id == 50)).any (fun r => (restoring.ctx? r.ctx) == some fetchCtx &&
      (restoring.saved? r.z).any (fun z => z.p == fusedSaved) && (restoring.restoreCore fetchCtx fusedSaved).any (fun x => x.1 == 0) &&
      restoring.restoreRanks 0 fusedSaved == some [] && (restoring.readCw fetchCtx 0 fusedSaved.cwin fusedSaved.cwlen).isSome && (List.range 512).find? (fun i => (restoring.polder? i).isNone) == some 1 &&
      okAnd (restoring.gread fetchCtx (pastFar 0) 0 10 r.img 256) (fun x => field x.1 80 32 == bareNeed) &&
      okAnd (restoring.gwrite fetchCtx (pastFar 0) 2 false 2 (r.img + 4) (leBytes 4 1)) fun _ => true) = true ∧
    ∃ b, restoring.gread fetchCtx (pastFar 0) 16 (bareNeed / 32 + 2) 0x40000000 bareNeed = .ok (b, false) := by
  refine ⟨by decide +kernel, restoring.host.readN 0 bareNeed, ?_⟩
  have hn : bareNeed ≤ 2 ^ 30 := by decide +kernel
  have m := (evicted_maps false (bareHead 0)).1
  have := gread_host (s := restoring) (die := pastFar 0) ⟨m.dev, m.tlb, m.way, m.out, m.timed⟩ (tag := 16) (fuel := bareNeed / 32 + 2)
    (va := 0x40000000) (n := bareNeed) (by omega) (by omega) (by omega)
  simpa using this

/-- The image has been used meanwhile; or the polder has retired before its stop was complete. -/
theorem witness_TrapAndSaveSteps_gone : (({ restoring with saved := [] } : State).restores.find? (·.id == 50)).any (fun r => (({ restoring with saved := [] } : State).saved? r.z).isNone) = true ∧
    ((saving false).setPolder { stopping false with life := .draining }).saves = [] := by decide +kernel

/-! ## Context rows, inlet and outlet cores -/

/-- The queue table's entry 6, at 0x68_0180: base 0x71_0000, 2^4 slots, enabled. -/
def tabled : State :=
  { state0 with ctxs := state0.ctxs.map fun (c : Ctx) => { c with qtab := 0x680000 }, dev := Memory.writeN state0.dev 0x680180 (leBytes 8 0x710000 ++ [0x84]) }
def onIo (s : State) (g : IoCore → IoCore) : State := onP s fun p => { p with io := p.io.map g }
theorem witness_TrapAndSaveSteps_rows : (tabled.ctx? 0).any (fun x => x.c == 0 && okAnd (tabled.gread x atHome 0 3 (x.qtab + 64 * 6) 64) fun d => !queueBad 0 d.1 && !flag d.1 72) = true ∧
    (tabled.queue? 6).isNone = true ∧ (tabled.queue? 5).any (fun q => q.ctx == 0) = true ∧
    (tabled.polder? 0).any (fun p => p.ctx == 0 && (tabled.ctx? 0).any fun x => (x.named 1).contains p.die) = true ∧
    (state0.polder? 0).any (fun p => (p.core? 0).any fun c => c.k == 0 && c.run == 1 && c.mtvec == 0 && p.halt.isNone && p.life == .running && !state0.dieDown p.die &&
      decide (c.pc.toNat + 4 ≤ 0x8000) && leNat (c.imem.readN c.pc.toNat 2) % 4 == 3 && leNat (c.imem.readN c.pc.toNat 4) == 0x00500093 &&
      (match state0.rvExec p c 0x00500093 4 with | .go _ _ => true | _ => false) && (state0.slgo p c 0x100).isSome) = true ∧
    ((onIo state0 fun c => { c with imem := Memory.writeN [] 0 (leBytes 4 0x73), mtvec := 0x40 }).polder? 0).any (fun p => (p.core? 0).any fun c =>
      leNat (c.imem.readN c.pc.toNat 4) == 0x73 && c.mtvec != 0) = true ∧
    ((onIo state0 fun c => { c with run := 0, img := 0x600000, len := 8 }).polder? 0).any (fun p => (p.core? 0).any fun c => c.run == 0 && (state0.ctx? p.ctx).any fun x =>
      (state0.heldBy (.io 0 0)).isNone && okAnd (state0.gread x p.die 0 (c.len / 32 + 2) c.img c.len) fun _ => true) = true := by decide +kernel
/-- Core 0 of the first polder after a step. -/
def ioc (s : State) : IoCore := ((s.polder? 0).bind (·.core? 0)).getD { k := 9 }
/-- 0x00500093 is ADDI x1, x0, 5. -/
theorem test_core_steps : leads (exec (.inletCoreInstruction 0 0) state0) (fun t => (ioc t).x.getD 1 0 == 5 && (ioc t).pc == 4 && (ioc t).minstret == 1) = true ∧
    leads (exec (.inletCoreException 0 0 11 0) (onIo state0 fun c => { c with mtvec := 0x40, pc := 8, mstatus := 8 })) (fun t => (ioc t).pc == 0x40 &&
      (ioc t).mepc == 8 && (ioc t).mcause == 11 && (ioc t).mstatus == 0x1880) = true ∧
    leads (exec (.inletCoreException 0 0 2 0) state0) (fun t => (ioc t).run == 2 && haltOf t == some 21) = true ∧
    leads (exec (.slgoWrite 0 0 0x102) (onIo state0 fun c => { c with headlo := 0x600000 })) (fun t => t.schains.map (fun k => (k.eng, k.tok, k.next)) == [(2, 1, 0x600000)] &&
      (ioc t).busy == 2 && (ioc t).slst.getD 1 0 == 1) = true ∧
    leads (exec (.csrQbindBind 0 6) tabled) (fun t => (t.queue? 6).any fun q => q.qbase == 0x710000 && q.logn == 4 && q.en) = true ∧
    leads (exec (.dbghaltHalt 0 1) state0) (fun t => (t.polder? 0).any (·.dieHalt)) = true ∧
    leads (exec (.quotaWrite 0 0x123) state0) (fun t => (t.ctx? 0).any fun c => c.quota == 0x123) = true := by decide +kernel

/-! ## Steps of the ports and the package -/

/-- Context descriptors at 0x8_0000: context 1 names one die, die 0; context 2 names none (R366). -/
def based : State :=
  { state0 with ctxbase := 0x80000, dev := Memory.writeN (Memory.writeN state0.dev 0x80080 [8, 0, 0x80]) 0x800C8 [1] }
def onPort (s : State) (g : Port → Port) : State := s.modPort 0 g
def told : State := onPort state0 fun p => { p with nrbase := 0x1000, nrlog := 4, wait := [⟨1, 0, 5, 9, 0, 0⟩] }
/-- A port that is down; one at which a write has not landed yet. -/
def portDown : State := onPort state0 fun p => { p with up := false }
def portFull : State := onPort state0 fun p => { p with writes := [⟨1, 0x600000, [9], false⟩] }
theorem witness_HostPortSteps_writes : (state0.ports[0]?).any (fun p => p.up && p.writes == [] && p.rd.isNone && p.cmd.isNone) = true ∧
    state0.portWay 0 1 = true ∧ (portDown.ports[0]?).any (fun p => !p.up && p.writes == []) = true ∧ (portFull.ports[0]?).any (fun p => p.writes != []) = true ∧
    (sectorParts 0 false 4 0x60001E [1, 2, 3, 4]).map (fun w => (w.x, w.bytes)) = [(0x60001E, [1, 2]), (0x600020, [3, 4])] ∧
    sectorParts 0 false 2 0x600000 [] = [] := by decide +kernel
theorem witness_HostPortSteps : state0.ready = true ∧ ({ state0 with ready := false } : State).ready = false ∧
    ([.ctxact 0 1, .ctxfree 0 0, .qbindBind 0 0 6, .qbindUnbind 0 0 5, .asgenCommand 0 0, .faultend 0 0 0, .haltend 0 0 0 0, .diereset 0 1] : List Instr).map (fun i => (commandOf i).map (·.2.1)) = [1, 2, 3, 3, 4, 5, 6, 7].map some ∧
    (state0.ports[0]?).any (fun p => !p.busy) = true ∧ ((onPort state0 fun p => { p with busy := true }).ports[0]?).any (·.busy) = true ∧
    based.ctxbase ≠ 0 ∧ [1, 2].all (fun c => (based.ctx? c).isNone && descriptorBad (based.dev.readN (0x80000 + 128 * c) 128) == (c == 2) &&
      !((ctxOf c 0 (based.dev.readN (0x80000 + 128 * c) 128)).dies.any based.dieDown)) = true ∧
    (based.ctx? 0).any (fun x => x.port == 0 && !(x.dies.any based.dieDown) && !((ctxOf 0 0 (based.dev.readN 0x80000 128)).dies.any based.dieDown)) = true ∧
    [({ code := 1 } : Cmd), { code := 7, obj := 1 }].all (fun z => ((onPort state0 fun p => { p with busy := true, cmd := some z }).ports[0]?).any fun p => p.cmd == some z) = true ∧
    state0.cmdDone { code := 1 } = true ∧ (state0.modDie 1 fun d => { d with reset := true }).cmdDone { code := 7, obj := 1 } = false ∧
    (told.ports[0]?).any (fun p => p.wait.length == 1 && p.nrlog != 0 && p.up && decide ((p.nrtail - p.nrhead).toNat < 2 ^ p.nrlog)) = true ∧ state0.ctxs ≠ [] := by decide +kernel
/-- Polder 1 has halted; its record is 3. -/
def haltable : State := { state0.setPolder halted1 with ctxs := state0.ctxs.map fun (c : Ctx) => { c with recs := [(3, 7)] } }
/-- What each of the other commands asks of the state (R405). -/
theorem witness_HostPortSteps_commands : ((tabled.ports[0]?).any (fun p => !p.busy && p.up && p.writes == []) && tabled.ready) = true ∧
    (tabled.ctx? 0).any (fun x => x.c == 0 && x.port == 0 && !x.dead && !(x.dies.any tabled.dieDown) && tabled.queues.all (fun y => !y.priv) &&
      okAnd (((tabled.modPort 0 fun p => { p with args := (List.range 4).map fun j => BitVec.ofNat 64 ([0, 6].getD j 0) }).arrive (srcPort 0)).gread x atHome 0 3 (x.qtab + 64 * 6) 64)
        fun d => !queueBad 0 d.1) = true ∧ (tabled.queue? 6).isNone = true ∧ (tabled.queue? 5).any (fun q => q.ctx == 0) = true ∧
    (state0.ctxs.any (·.asid == 0) && state0.ctxs.all (fun x => !(x.dies.any state0.dieDown)) && SMap.wf 0 state0.gens) = true ∧
    (haltable.ctx? 0).any (fun x => x.recs.find? (·.1 == 3) == some (3, 7) && x.c == 0 && x.port == 0 && (haltable.byUid 7).any fun y => y.h == 1 && y.halt.isSome &&
      haltable.polder? 1 == some y && y.live != 0 && !haltable.dieDown y.die) = true ∧ state0.dies.length = 4 ∧ state0.dieDown 1 = false := by decide +kernel
theorem test_command_values : leads (exec (.qbindBind 0 0 6) tabled) (fun t => (t.queue? 6).any fun q => q.qbase == 0x710000 && q.logn == 4 && q.st == .idle) = true ∧
    leads (exec (.qbindUnbind 0 0 5) tabled) (fun t => (t.queue? 5).isNone) = true ∧ leads (exec (.asgenCommand 0 0) state0) (fun t => t.gen 0 == 1) = true ∧
    leads (exec (.faultend 0 0 0x600000) (faulted (fault0 0x600000 1))) (fun t => t.faults.map (·.ended) == [true]) = true ∧
    leads (exec (.haltend 0 0 3 0) haltable) (fun t => (t.polder? 1).any (fun p => p.life == .running && p.halt.isNone) && (t.ctx? 0).any (·.recs == [])) = true ∧
    leads (exec (.haltend 0 0 3 2) haltable) (fun t => (t.polder? 1).any (fun p => p.life == .draining)) = true ∧
    leads (exec (.diereset 0 1) state0) (fun t => t.dieDown 1) = true ∧
    leads (exec (.registerWrite 0 0x204 5) told) (fun t => (t.ports[0]?).any fun p => p.nrbase == 0x500001000) = true := by decide +kernel
theorem test_port_steps : leads (exec (.hostWrite ⟨0, 0x600002, false⟩ [9]) state0) (fun t => t.dev.readN 0x600000 4 == [1, 2, 9, 4]) = true ∧
    leads (exec (.hostRead ⟨0, 1, 0x600000⟩ 3) state0) (fun t => t.lastRead == [1, 2, 3]) = true ∧
    leads (exec (.hostRead ⟨1, 0, 0x120⟩ 8) state0) (fun t => t.lastRead == leBytes 8 0) = true ∧
    leads (exec (.ctxact 0 1) based) (fun t => (t.ctx? 1).any fun c => c.vdt == [some 0]) = true ∧
    leads (exec (.ctxact 0 2) based) (fun t => (t.ctx? 2).isNone && (t.ports[0]?).any fun p => (p.cmd.map Cmd.res) == some 1) = true ∧
    leads (exec (.ctxfree 0 0) based) (fun t => (t.ctx? 0).isNone && t.queues == [] && t.polders.all fun p => p.ctx == noCtx && p.life == .draining) = true ∧
    leads (exec (.notificationWrite 0) told) (fun t => t.host.readN 0x1000 1 == [1] && (t.ports[0]?).any fun p => p.nrtail == 1 && p.wait == []) = true ∧
    leads (exec (.pwrcapWrite ⟨0, 399⟩) state0) (fun t => t.pwrcap == 700) = true ∧ leads (exec (.pwrcapWrite ⟨0, 400⟩) state0) (fun t => t.pwrcap == 400) = true := by decide +kernel

/-- Link 0 trains and has failed twice; a flash image without the magic word; an image being written. -/
def training (n : Nat) : State := { state0 with links := modAt state0.links 0 fun x => { x with training := true, fails := n } }
def badFlash : State := { state0 with reeve := { state0.reeve with flash := some [] } }
theorem witness_PackageSteps : state0.links.length = 4 ∧ ([0, 2].all fun n => ((training n).links[0]?).any fun x => x.training && x.fails == n) = true ∧
    (training 2).dies.length = 4 ∧ state0.dieDown 1 = false ∧ state0.recov = false ∧ (state0.modDie 1 fun d => { d with reset := true }).dieDown 1 = true ∧
    state0.reeve.writing = none ∧ state0.reeve.flash = none ∧ badFlash.reeve.writing = none ∧ badFlash.reeve.flash ≠ none ∧
    imageOk 0 (imageBytes badFlash.reeve.flash) = false ∧
    (state0.fasc? 0 0).any (fun f => (f.r.bind? 5).isSome && decide (47 < f.r.spois.length)) = true := by decide +kernel
theorem witness_PackageSteps_notices : (state0.ctxs.map Ctx.c).Nodup ∧ state0.ctxs.all (fun c => !c.dead && !c.hold && c.dies.contains (linkEnds 0).1 && c.evq.length < 64) = true := by decide +kernel
/-- Each word, register and sector that an uncorrectable soft error can meet is there (R128, R130). -/
theorem witness_PackageSteps_errors : (state0.polder? 0).any (fun p => p.bpois.length == 16 && p.spad.wf && (p.fs[0]?).any fun f => f.r.preds.length == 16 && f.r.spois.length == 48) = true ∧
    (state0.engine? 0 0).any (fun x => x.2.slots.length == 16 && (x.2.slot 3).mem.wf) = true := by decide +kernel
theorem test_package_steps : leads (exec (.dieReset 0) state0) (fun t => t.dieDown 0 && t.polders == []) = true ∧
    leads (exec (.linkTrainFailure 0) (training 2)) (fun t => t.dieDown 1) = true ∧
    leads (exec (.dieResetDone 1) (state0.modDie 1 fun d => { d with reset := true })) (fun t => !t.dieDown 1) = true ∧
    leads (exec .packageReset state0) (fun t => t.ready && t.polders == [] && t.dev == []) = true ∧
    leads (exec .packageReset badFlash) (fun t => !t.ready && t.recov) = true ∧
    leads (exec (.setPowerCap 701) state0) (fun t => t.reeve.replyErr && t.pwrcap == 700) = true ∧
    leads (exec (.softErrorUncorrectable (.device 3)) state0) (fun t => t.poisoned 96) = true ∧
    leads (exec (.linkRetrainEnd 0) (training 0)) (fun t => (t.ctx? 0).any fun c => c.evq.map (fun n => (n.cls, n.die, n.det)) == [(2, 0, 0)]) = true ∧
    leads (exec (.softErrorUncorrectable (.breg 0 2)) state0) (fun t => (t.polder? 0).any fun p => p.bpois.getD 2 false) = true ∧
    leads (exec (.softErrorUncorrectable (.scratch 0 3)) state0) (fun t => (t.polder? 0).any fun p => (p.spRead 96 32).2) = true ∧
    leads (exec (.softErrorUncorrectable (.vword 0 0 5 2)) state0) (fun t => (t.fasc? 0 0).any fun f => f.r.vpois 5 2) = true := by decide +kernel

/-- The memories of the test state are canonical, and an instruction leads on from it. -/
theorem witness_MemoriesStayCanonical : memoriesCanonical state0 ∧ memoriesCanonical State.reset ∧ leads (exec (.hostWrite ⟨0, 0x600000, false⟩ [0, 9]) state0) (fun t =>
    t.dev.wf && !(t.dev.any fun x => x.1 == 0x600000)) = true := by
  unfold memoriesCanonical polderCanonical
  decide +kernel
theorem witness_MemoriesStayCanonical_step : memoriesCanonical (state0.withFetchWord 32 0) ∧ leads (step (state0.withFetchWord 32 0)) (fun _ => true) = true := by
  unfold memoriesCanonical polderCanonical
  decide +kernel
end Sys2Proof.Tests
end

section
/-! SUPPORT. Placing the groups of a branch in the split table (spec/06_fascine_rank.md R159): what the free entries are, what
`V.fork` gives a later group and leaves unchanged, the same for a run of forks, and `V.place` in terms of these. -/
namespace Sys2Proof.Proofs
open Sys2Proof.Machine Sys2Proof.Laws

/-! ## Free entries -/

/-- The places that `freeEntries` lists are those of an initial part of the table, each at most once. -/
theorem freeEntries_sublist_range (f : Fascine) : f.freeEntries.Sublist (List.range f.r.ents.length) := by
  have hall : f.r.ents.zipIdx.map (·.2) = List.range f.r.ents.length := by simp [List.zipIdx_map_snd, List.range_eq_range']
  rw [← hall]
  exact List.filter_sublist.map _

theorem nodup_freeEntries (f : Fascine) : f.freeEntries.Nodup := List.nodup_range.sublist (freeEntries_sublist_range f)

theorem lt_length_of_mem_freeEntries {f : Fascine} {k : Nat} (h : k ∈ f.freeEntries) : k < f.r.ents.length :=
  List.mem_range.mp ((freeEntries_sublist_range f).subset h)

/-! ## One fork -/

/-- What R159 writes into the entry of a later group: its offset and mask, nothing parked, no wait, the mode of G. -/
structure OwnEntry (mode : BitVec 24) (y : Nat × Mask) (x : SplitEntry) : Prop where
  pc : x.pc = BitVec.ofNat 32 y.1
  mask : x.mask = y.2
  park : x.park = 0
  rjf : x.rjf = false
  wj : x.wj = false
  val : x.val = true
  mode : x.mode = mode

@[simp] theorem fork_s (w : V) (en : Bool) (j : Nat) (y : Nat × Mask) : (w.fork en j y).s = w.s := rfl
@[simp] theorem fork_p (w : V) (en : Bool) (j : Nat) (y : Nat × Mask) : (w.fork en j y).p = w.p := rfl
@[simp] theorem fork_e (w : V) (en : Bool) (j : Nat) (y : Nat × Mask) :
    (w.fork en j y).e = { w.e with mask := w.e.mask &&& ~~~y.2 } := rfl
@[simp] theorem length_ents_fork (w : V) (en : Bool) (j : Nat) (y : Nat × Mask) :
    (w.fork en j y).f.r.ents.length = w.f.r.ents.length := length_setAt ..

theorem ents_fork_other (w : V) (en : Bool) (j : Nat) (y : Nat × Mask) {k : Nat} (h : k ≠ j) :
    (w.fork en j y).f.r.ents[k]? = w.f.r.ents[k]? := getElem?_setAt_other _ _ _ _ h

theorem ents_fork_same (w : V) (en : Bool) {j : Nat} (y : Nat × Mask) (h : j < w.f.r.ents.length) :
    ∃ x, (w.fork en j y).f.r.ents[j]? = some x ∧ OwnEntry w.e.mode y x :=
  ⟨_, getElem?_setAt_same _ _ _ h, ⟨rfl, rfl, rfl, rfl, rfl, rfl, rfl⟩⟩

/-! ## A run of forks -/

/-- Groups that get entries of their own, in order: each with its entry and the number by which `entry` tells whether it
enters its bundle (R28). -/
def forks (entry : Nat → Bool) (w : V) (gs : List ((Nat × Nat × Mask) × Nat)) : V :=
  gs.foldl (fun w x => w.fork (entry x.2) x.1.1 x.1.2) w

section
variable (entry : Nat → Bool) (w : V) (gs : List ((Nat × Nat × Mask) × Nat))

theorem forks_s : (forks entry w gs).s = w.s := by
  induction gs generalizing w with
  | nil => rfl
  | cons g gs ih => exact ih _

theorem forks_p : (forks entry w gs).p = w.p := by
  induction gs generalizing w with
  | nil => rfl
  | cons g gs ih => exact ih _

/-- Of the entry that the groups leave, the mask alone changes. -/
theorem forks_e : (forks entry w gs).e = { w.e with mask := (forks entry w gs).e.mask } := by
  induction gs generalizing w with
  | nil => rfl
  | cons g gs ih => exact ih _

theorem ents_forks_other {k : Nat} (h : k ∉ gs.map (·.1.1)) : (forks entry w gs).f.r.ents[k]? = w.f.r.ents[k]? := by
  induction gs generalizing w with
  | nil => rfl
  | cons g gs ih =>
    obtain ⟨hk, hks⟩ : k ≠ g.1.1 ∧ k ∉ gs.map (·.1.1) := by simpa using h
    exact (ih _ hks).trans (ents_fork_other w _ _ _ hk)

/-- Each of the groups gets its entry, when no two get the same one: no later fork writes there. -/
theorem ents_forks_of_mem (hnd : (gs.map (·.1.1)).Nodup) {g : (Nat × Nat × Mask) × Nat} (hg : g ∈ gs)
    (hlt : g.1.1 < w.f.r.ents.length) : ∃ x, (forks entry w gs).f.r.ents[g.1.1]? = some x ∧ OwnEntry w.e.mode g.1.2 x := by
  induction gs generalizing w with
  | nil => cases hg
  | cons g' gs ih =>
    obtain ⟨hnot, hnd'⟩ := List.nodup_cons.mp hnd
    rcases List.mem_cons.mp hg with rfl | hg
    · obtain ⟨x, hx, hown⟩ := ents_fork_same w (entry g.2) g.1.2 hlt
      exact ⟨x, (ents_forks_other entry _ gs hnot).trans hx, hown⟩
    · exact ih _ hnd' hg (by simpa using hlt)
end

/-! ## place -/

/-- The entry of G with the groups that found no entry parked in it. -/
def parkRest (fall : Bool) (pc : Word) (rest : List (Nat × Mask)) (e : SplitEntry) : SplitEntry :=
  match rest with
  | [] => e
  | y :: more =>
    { e with park := rest.foldl (fun a x => a ||| x.2) 0, rpc := if fall && more.isEmpty then BitVec.ofNat 32 y.1 else pc }

@[simp] theorem parkRest_pc (fall : Bool) (pc : Word) (rest : List (Nat × Mask)) (e : SplitEntry) :
    (parkRest fall pc rest e).pc = e.pc := by cases rest <;> rfl

theorem getLsbD_foldl_or (ys : List (Nat × Mask)) (a : Mask) (t : Nat) :
    (ys.foldl (fun a x => a ||| x.2) a).getLsbD t = (a.getLsbD t || ys.any fun y => y.2.getLsbD t) := by
  induction ys generalizing a with
  | nil => simp
  | cons y ys ih => simp [ih, Bool.or_assoc]

/-- A thread is parked exactly when its group is one of those left. -/
theorem getLsbD_parkRest_park (fall : Bool) (pc : Word) {rest : List (Nat × Mask)} (e : SplitEntry) (h : rest ≠ []) (t : Nat) :
    (parkRest fall pc rest e).park.getLsbD t = rest.any fun y => y.2.getLsbD t := by
  cases rest with
  | nil => exact absurd rfl h
  | cons y more => simpa [parkRest] using getLsbD_foldl_or more y.2 t

/-- Only the fall-through group alone resumes at its own offset. -/
theorem parkRest_rpc (fall : Bool) (pc : Word) (rest : List (Nat × Mask)) (e : SplitEntry) :
    rest ≠ [] → (parkRest fall pc rest e).rpc = match rest with
      | [y] => if fall then BitVec.ofNat 32 y.1 else pc
      | _ => pc := by
  intro h
  match rest with
  | [y] => simp [parkRest]
  | y :: y' :: more => simp [parkRest]

/-- The groups that get entries of their own: with its entry and its place in the order. -/
def ownGroups (w : V) (later : List (Nat × Mask)) : List ((Nat × Nat × Mask) × Nat) := (w.f.freeEntries.zip later).zipIdx

/-- The group of an order of n whose slot is entered by a branch: every one but the fall-through group, which is the last. -/
def entersAt (fall : Bool) (n i : Nat) : Bool := !(fall && i + 1 == n)

/-- With threads parked already, a full table leaves no placement. -/
theorem place_eq_none (w : V) (g : Nat × Mask) {later : List (Nat × Mask)} (fall : Bool)
    (hrest : later.drop w.f.freeEntries.length ≠ []) (hpark : w.e.park ≠ 0 ∨ w.e.rjf = true) : w.place (g :: later) fall = none := by
  have hcond : (!(later.drop w.f.freeEntries.length).isEmpty && (w.e.park != 0 || w.e.rjf)) = true := by
    simpa [-List.drop_eq_nil_iff] using ⟨hrest, hpark⟩
  exact if_pos hcond

/-- Otherwise the later groups are forked, G goes to the first group's slot, and what is left is parked. -/
theorem place_eq_some (w : V) (g : Nat × Mask) (later : List (Nat × Mask)) (fall : Bool)
    (h : later.drop w.f.freeEntries.length = [] ∨ (w.e.park = 0 ∧ w.e.rjf = false)) :
    let enters := entersAt fall (later.length + 1)
    let u := forks (fun i => enters (i + 1)) w (ownGroups w later)
    w.place (g :: later) fall =
      some { u with e := parkRest fall w.e.pc (later.drop w.f.freeEntries.length) (u.e.goto (BitVec.ofNat 32 g.1) (enters 0)) } := by
  have hcond : (!(later.drop w.f.freeEntries.length).isEmpty && (w.e.park != 0 || w.e.rjf)) = false := by
    rcases h with h | ⟨hp, hr⟩
    · simp [h]
    · simp [hp, hr]
  refine (if_neg (ne_true_of_eq_false hcond)).trans ?_
  cases later.drop w.f.freeEntries.length <;> rfl

theorem nodup_ownGroups (w : V) (later : List (Nat × Mask)) : ((ownGroups w later).map (·.1.1)).Nodup := by
  have hfst : (ownGroups w later).map (·.1.1) = (w.f.freeEntries.zip later).map Prod.fst := by
    rw [← List.zipIdx_map_fst 0 (w.f.freeEntries.zip later), List.map_map]
    rfl
  rw [hfst, List.zip_eq_zip_take_min, List.map_fst_zip (by simp)]
  exact (nodup_freeEntries w.f).sublist (List.take_sublist _ _)

/-- The later group number j gets the free entry number j. -/
theorem mem_ownGroups {w : V} {later : List (Nat × Mask)} {j k : Nat} {y : Nat × Mask} (hk : w.f.freeEntries[j]? = some k)
    (hy : later[j]? = some y) : ((k, y), j) ∈ ownGroups w later :=
  List.mk_mem_zipIdx_iff_getElem?.mpr (List.getElem?_zip_eq_some.mpr ⟨hk, hy⟩)

/-- A later group for which an entry is free gets it. -/
theorem ents_forks_ownGroups (entry : Nat → Bool) {w : V} {later : List (Nat × Mask)} {j k : Nat} {y : Nat × Mask}
    (hk : w.f.freeEntries[j]? = some k) (hy : later[j]? = some y) :
    ∃ x, (forks entry w (ownGroups w later)).f.r.ents[k]? = some x ∧ OwnEntry w.e.mode y x :=
  ents_forks_of_mem entry w _ (nodup_ownGroups w later) (mem_ownGroups hk hy)
    (lt_length_of_mem_freeEntries (List.mem_of_getElem? hk))

/-! ## One, two and any number of groups -/

/-- A single group moves the PC of G. -/
theorem place_one (w : V) (o : Nat) (m : Mask) (fall : Bool) :
    ∃ u, w.place [(o, m)] fall = some u ∧ u.e.pc = BitVec.ofNat 32 o ∧ u.e.mask = w.e.mask ∧
      u.e.park = w.e.park ∧ u.e.rjf = w.e.rjf ∧ u.f = w.f ∧ u.p = w.p ∧ u.s = w.s := by
  have hforks (en : Nat → Bool) : forks en w (ownGroups w []) = w := by simp [ownGroups, forks]
  refine ⟨_, place_eq_some w (o, m) [] fall (.inl List.drop_nil), ?_⟩
  rw [hforks, List.drop_nil]
  exact ⟨rfl, rfl, rfl, rfl, rfl, rfl, rfl⟩

/-- The second of two groups gets the lowest free entry. -/
theorem place_two_of_free {w : V} {k : Nat} {ks : List Nat} (hfree : w.f.freeEntries = k :: ks) (a b : Nat) (m n : Mask)
    (fall : Bool) :
    ∃ u x, w.place [(a, m), (b, n)] fall = some u ∧ u.e.pc = BitVec.ofNat 32 a ∧ u.e.mask = w.e.mask &&& ~~~n ∧
      u.e.park = w.e.park ∧ u.f.r.ents[k]? = some x ∧ OwnEntry w.e.mode (b, n) x ∧
      ∀ j, j ≠ k → u.f.r.ents[j]? = w.f.r.ents[j]? := by
  have hrest : [(b, n)].drop w.f.freeEntries.length = [] := by simp [hfree]
  have hforks (en : Nat → Bool) : forks en w (ownGroups w [(b, n)]) = w.fork (en 0) k (b, n) := by
    simp [ownGroups, forks, hfree]
  have hlt : k < w.f.r.ents.length := lt_length_of_mem_freeEntries (by simp [hfree])
  obtain ⟨x, hx, hown⟩ := ents_fork_same w (entersAt fall 2 1) (b, n) hlt
  refine ⟨_, x, place_eq_some w (a, m) [(b, n)] fall (.inl hrest), ?_⟩
  rw [hforks, hrest]
  exact ⟨rfl, rfl, rfl, hx, hown, fun j hj => ents_fork_other w _ _ _ hj⟩

/-- With a full table and nothing parked the second of two groups is parked. -/
theorem place_two_of_full {w : V} (hfree : w.f.freeEntries = []) (hp : w.e.park = 0) (hr : w.e.rjf = false) (a b : Nat)
    (m n : Mask) (fall : Bool) :
    ∃ u, w.place [(a, m), (b, n)] fall = some u ∧ u.e.pc = BitVec.ofNat 32 a ∧ u.e.mask = w.e.mask ∧ u.e.park = n ∧
      u.e.rpc = (if fall then BitVec.ofNat 32 b else w.e.pc) ∧ u.f = w.f := by
  have hrest : [(b, n)].drop w.f.freeEntries.length = [(b, n)] := by simp [hfree]
  have hforks (en : Nat → Bool) : forks en w (ownGroups w [(b, n)]) = w := by simp [ownGroups, forks, hfree]
  refine ⟨_, place_eq_some w (a, m) [(b, n)] fall (.inr ⟨hp, hr⟩), ?_⟩
  rw [hforks, hrest]
  exact ⟨rfl, rfl, by simp [parkRest], parkRest_rpc _ _ _ _ (List.cons_ne_nil _ _), rfl⟩

/-- Of any number of groups, those for which an entry is free get the free entries in order; the rest is parked. -/
theorem place_any (w : V) (o : Nat) (m : Mask) (later : List (Nat × Mask)) (fall : Bool)
    (h : later.drop w.f.freeEntries.length = [] ∨ (w.e.park = 0 ∧ w.e.rjf = false)) :
    let rest := later.drop w.f.freeEntries.length
    ∃ u, w.place ((o, m) :: later) fall = some u ∧ u.e.pc = BitVec.ofNat 32 o ∧ u.p = w.p ∧ u.s = w.s ∧
      (∀ (j k : Nat) (y : Nat × Mask), w.f.freeEntries[j]? = some k → later[j]? = some y →
        ∃ x, u.f.r.ents[k]? = some x ∧ OwnEntry w.e.mode y x) ∧
      (rest = [] → u.e.park = w.e.park ∧ u.e.rpc = w.e.rpc) ∧
      (rest ≠ [] → (∀ t, u.e.park.getLsbD t = rest.any fun y => y.2.getLsbD t) ∧
        u.e.rpc = match rest with
          | [y] => if fall then BitVec.ofNat 32 y.1 else w.e.pc
          | _ => w.e.pc) := by
  intro rest
  refine ⟨_, place_eq_some w (o, m) later fall h, parkRest_pc _ _ _ _, forks_p _ w _, forks_s _ w _,
    fun j k y hk hy => ents_forks_ownGroups _ hk hy, fun hnil => ?_, fun hne => ?_⟩
  · rw [show later.drop w.f.freeEntries.length = [] from hnil, forks_e]
    exact ⟨rfl, rfl⟩
  · exact ⟨getLsbD_parkRest_park _ _ _ hne, parkRest_rpc _ _ _ _ hne⟩

/-- Settles O29: each clause is `place_eq_some` or `place_eq_none` for its number of groups. -/
theorem placementOfGroups : Obligations.PlacementOfGroups := by
  unfold Obligations.PlacementOfGroups
  refine ⟨place_one, fun w a b m n fall => ⟨fun k ks hfree => ?_, fun hfree hp hr => place_two_of_full hfree hp hr a b m n fall,
    fun hfree hpark => place_eq_none w (a, m) fall (by simp [hfree]) hpark⟩,
    fun w o m later fall => ⟨fun hrest hpark => place_eq_none w (o, m) fall hrest hpark, fun h => ?_⟩⟩
  · obtain ⟨u, x, hu, hpc, hmask, hpark, hx, hown, hother⟩ := place_two_of_free hfree a b m n fall
    exact ⟨u, x, hu, hpc, hmask, hpark, hx, hown.pc, hown.mask, hown.park, hown.rjf, hown.wj, hown.val, hown.mode, hother⟩
  · obtain ⟨u, hu, hpc, hp, hs, hents, hnil, hne⟩ := place_any w o m later fall h
    refine ⟨u, hu, hpc, hp, hs, fun j k y hk hy => ?_, hnil, hne⟩
    obtain ⟨x, hx, hown⟩ := hents j k y hk hy
    exact ⟨x, hx, hown.val, hown.pc, hown.mask, hown.park, hown.mode⟩

end Sys2Proof.Proofs
end
